-- ==== Sys2Proof/Word.lean ====
section
/-! DEFINITION. Word.lean: the plain word types of the ET-860 (rules R12 and R13: registers are 32 bits wide and
accept word access; memory is little-endian bytes). -/

namespace Sys2Proof

/-- One 32-bit register or descriptor word (rule R13). -/
abbrev Word := BitVec 32

/-- One byte of memory. -/
abbrev Byte := BitVec 8

/-- A 64-bit quantity: a time, a step counter, an FP64 encoding. -/
abbrev DWord := BitVec 64

end Sys2Proof
end

