-- ==== Sys2Proof/Syntax.lean ====
section
/-! DEFINITION. Syntax.lean: the commands of the ET-860 block, one constructor for each row of opcode_table.json, and the
operand types they carry. An operand is what the outside of the block decides: which requester acts, what a pin or a
link delivers, what a unit of the fabric did (a residue check that fails, a replica that is late, a run time). -/

namespace Sys2Proof

/-- The four requesters of rule R46, in the order in which the interconnect serves them. -/
inductive Requester where
  | slot | mgmt | host | debug
deriving DecidableEq, Repr

/-- A register access (rule R44): a byte address of the 1 MiB register space and whether the access is 32 bits wide. -/
structure Access where
  addr : BitVec 20
  word : Bool
deriving DecidableEq, Repr

/-- What a run of a fabric engine adds to its descriptor: the time it took, which rule R10 bounds and does not fix,
whether the unit's residue check fails during it (rule R175), and the flits of its transfers that the ports of basins resend (rule R168). -/
structure RunEnv where
  dur : BitVec 32
  residue : Bool
  resends : List (Fin 18 × BitVec 16)
deriving DecidableEq, Repr

/-- A run of a solver lane: as RunEnv, with the low words of TC7 that the deadline checks of rule R273 read, in order. -/
structure LaneEnv where
  dur : BitVec 32
  residue : Bool
  resends : List (Fin 18 × BitVec 16)
  tc7 : List Word
deriving DecidableEq, Repr

/-- A unit with spares: a physical basin B00–B17 or a physical solver lane SL0–SL8. -/
inductive UnitId where
  | basin (n : Fin 18)
  | lane (n : Fin 9)
deriving DecidableEq, Repr

/-- The bits in which a replica's pending result differs from that of the control law: in the output, the duty word and the state words
that the voter compares (rule R288): limiter position and velocity, integrator, derivative memory and filter, the repetitive
memory cell written, the phase index, and the detector's count. -/
structure Flips where
  u : Word
  duty : Word
  r : BitVec 64
  v : BitVec 64
  i : BitVec 64
  yPrev : Word
  df : Word
  cell : Word
  j : BitVec 12
  cross : BitVec 8
deriving DecidableEq, Repr

/-- How one replica of a loop channel ends its sample: with the result of the control law, with that result changed, or not by the
deadline (rules R288, R289). -/
inductive Replica where
  | ok
  | wrong (x : Flips)
  | late
deriving DecidableEq, Repr

/-- The supplies that the VGLITCH detectors watch (rule R469). VDD_SOC has no detector, and the power-good input
of its rail reports it (rule R473). -/
inductive Supply where
  | core | loop | aon
deriving DecidableEq, Repr

/-- A detection of the security alarm that falls inside a VCP command, whose SEV may make it a DRAIN (rules R405, R408). -/
inductive MidTrip where
  | vglitch (r : Supply)
  | tglitch
  | timing
deriving DecidableEq, Repr

/-- The three rails that the wellhouse sequences (rule R471). -/
inductive Rail where
  | soc | loop | core
deriving DecidableEq, Repr

/-- The two directions of the canal ring (rule R161). -/
inductive RingDir where
  | cw | ccw
deriving DecidableEq, Repr

/-- The state of a CSI-2 packet header after its ECC check (rule R130). -/
inductive HdrEcc where
  | good | corrected | bad
deriving DecidableEq, Repr

/-- A CAN frame as received (rules R126 and R138), with the nanoseconds from its start-of-frame bit to its end (rule
R125). -/
structure CanFrame where
  dur : BitVec 32
  id : BitVec 29
  ide : Bool
  fdf : Bool
  brs : Bool
  esi : Bool
  dlc : BitVec 4
  data : List Byte
deriving DecidableEq, Repr

/-- What the management tick reads from outside the block: the regulator over PMBus, the junction temperature, the
energy each domain's meter gained (µJ, indexed by domain), the device power, whether its work ran past the tick, and which of the
PMBus reads STATUS_WORD, READ_VOUT, READ_IOUT and READ_TEMPERATURE_1 failed (rules R21, R22, R23, R352, R420, R421, R440, R443). -/
structure TickInputs where
  late : Bool
  tj : BitVec 16
  tjMin : BitVec 16
  tjMax : BitVec 16
  powerMw : BitVec 24
  statusWord : BitVec 16
  voutMv : BitVec 16
  ioutMa : BitVec 20
  nack : BitVec 4
  energy : List (BitVec 32)
deriving DecidableEq, Repr

/-- What self-test and LPDDR6 training find (rules R214, R217, R446, R447). Each failed unit carries the lowest SOURCE
value among its failing sub-units. -/
structure SelfTest where
  basinFail : List (Fin 18 × Byte)
  laneFail : List (Fin 9 × Byte)
  rowFail : List (UnitId × Nat × Nat)
  replicaFail : List (Fin 32 × Fin 3)
  bypass : List (Fin 30)
  linkFail : List (Fin 30 × RingDir)
  channelFail : List (Fin 8)
  mapBad : Bool
  speed : BitVec 4
  dens : BitVec 4
deriving DecidableEq, Repr

/-- A plan as a solver lane writes it to a loop channel (rules R277, R298): the set-points and feed-forward values that are enabled, the
number of stages H_OUT, the time of stage 0, the stage duration, the sequence number and the flags of the plan-map entry. -/
structure Plan where
  sp : List Word
  ff : List Word
  h : Nat
  t0 : Word
  dt : Word
  seq : Word
  fb : Bool
  spEn : Bool
  ffEn : Bool
deriving DecidableEq, Repr

/-- The data phase of a CMD53 (rules R371–R373): the bytes the host sends on a write, the data blocks, counted from 0, that arrive
with a CRC error, and the blocks after which an I/O Abort ends a transfer of more. -/
structure Cmd53Data where
  bytes : List Byte
  badBlocks : List Nat
  blocks : Option Nat
deriving DecidableEq, Repr

/-- What happens to the time servo's master (rule R105): three sync intervals without a Sync, another grandmaster, or a master acquired
again, with each counter's measured offset from it in nanoseconds and the addend that the servo chooses. -/
inductive MasterEvent where
  | lost
  | changed
  | acquired (counters : List (Int × BitVec 64))
deriving DecidableEq, Repr

/-- The commands of the block, one constructor for each row of opcode_table.json, in the table's order. An operand with a default stands
for what befalls a command on its way, and its default for the undisturbed command. -/
inductive Instr where
  -- registers and the fabric (01, 02)
  | registerWrite (req : Requester) (a : Access) (v : Word)
  | managementTick (t : TickInputs)
  | monitorWindow (counts : List (BitVec 16))
  | telSnap (req : Requester)
  | minClr (req : Requester)
  | refLost
  | refReturn
  -- time base (04)
  | addFrac (req : Requester) (n : Fin 8) (v : Word)
  | addInt (req : Requester) (n : Fin 8) (v : Word)
  | stepLo (req : Requester) (n : Fin 8) (v : Word)
  | stepHi (req : Requester) (n : Fin 8) (v : Word)
  | capture (req : Requester)
  | ppsEdge
  | masterLoss (e : MasterEvent := .lost)
  | arm (req : Requester) (cfg : BitVec 9)
  | disarm (req : Requester)
  | slotFire (k : Fin 256)
  -- edge ports (05)
  | frameStart (r : Fin 6) (vc : Fin 4) (num : BitVec 16)
  | longPacket (r : Fin 6) (h : HdrEcc) (vc : Fin 4) (dt : BitVec 6) (data : List Byte) (crcOk : Bool)
  | frameEnd (r : Fin 6) (vc : Fin 4)
  | hsSyncLoss (r : Fin 6)
  | resync (r : Fin 6)
  | ethFrameReceive (p : Fin 2) (frame : List Byte) (fcsOk : Bool) (dur : BitVec 32)
  | ethFrameTransmit (p : Fin 2) (frame : List Byte)
  | linkDown (p : Fin 2)
  | linkRetry (p : Fin 2) (speed : BitVec 2)
  | mdioGo (req : Requester) (p : Fin 2) (cmd : BitVec 13)
  | mdioDone (p : Fin 2) (data : BitVec 16)
  | drdyEdge (k : Fin 4) (rising : Bool)
  | spiPeriod (k : Fin 4)
  | spiTransferEnd (k : Fin 4) (data : List Byte)
  | uartByte (u : Fin 2) (b : Byte) (parityErr framingErr : Bool) (dur : BitVec 32)
  | uartIdleGap (u : Fin 2)
  | canFrameReceive (c : Fin 4) (f : CanFrame)
  | txReq (req : Requester) (c : Fin 4) (bufs : BitVec 16)
  | txAbort (req : Requester) (c : Fin 4) (bufs : BitVec 16) (begun : BitVec 16)
  | txDone (c : Fin 4) (b : Fin 16)
  | busOff (c : Fin 4)
  | busOffRecovery (c : Fin 4)
  | encoderEdge (e : Fin 8) (a b : Bool) (held : BitVec 9 := 0x1FF)
  | indexEdge (e : Fin 8) (step : Option (Bool × Bool)) (held : BitVec 9 := 0x1FF)
  | sdOutput (d : Fin 8) (bits : List Bool)
  | stuck (d : Fin 8)
  | pwmPeriodEnd (k : Fin 24)
  | dutyWrite (req : Requester) (k : Fin 24) (duty : BitVec 24)
  | pwmSync (req : Requester) (mask : BitVec 24)
  | ringEnable (req : Requester) (i : Fin 52) (ctrl : BitVec 3)
  | ringDisable (req : Requester) (i : Fin 52) (ctrl : BitVec 3)
  | rcountWrite (req : Requester) (i : Fin 52) (v : Word)
  -- tile commands (07): the engine of the named logical basin takes its next command
  | matmul (b : Fin 16) (e : RunEnv)
  | conv2d (b : Fin 16) (e : RunEnv)
  | attnScore (b : Fin 16) (e : RunEnv)
  | sumReduce (b : Fin 16) (e : RunEnv)
  | carryCombine (b : Fin 16) (e : RunEnv)
  | carryFinal (b : Fin 16) (e : RunEnv)
  | add (b : Fin 16) (e : RunEnv)
  | sub (b : Fin 16) (e : RunEnv)
  | mul (b : Fin 16) (e : RunEnv)
  | div (b : Fin 16) (e : RunEnv)
  | fma (b : Fin 16) (e : RunEnv)
  | min (b : Fin 16) (e : RunEnv)
  | max (b : Fin 16) (e : RunEnv)
  | cmp (b : Fin 16) (e : RunEnv)
  | sqrt (b : Fin 16) (e : RunEnv)
  | exp (b : Fin 16) (e : RunEnv)
  | log (b : Fin 16) (e : RunEnv)
  | recip (b : Fin 16) (e : RunEnv)
  | rsqrt (b : Fin 16) (e : RunEnv)
  | tanh (b : Fin 16) (e : RunEnv)
  | sigmoid (b : Fin 16) (e : RunEnv)
  | shift (b : Fin 16) (e : RunEnv)
  | reduceMax (b : Fin 16) (e : RunEnv)
  | reduceMin (b : Fin 16) (e : RunEnv)
  | softmax (b : Fin 16) (e : RunEnv)
  | convert (b : Fin 16) (e : RunEnv)
  | copy (b : Fin 16) (e : RunEnv)
  | gatherRows (b : Fin 16) (e : RunEnv)
  | timeRead (b : Fin 16) (e : RunEnv)
  | ringLatest (b : Fin 16) (e : RunEnv)
  -- map commands (08)
  | mapInsert (e : RunEnv)
  | mapQuery (e : RunEnv)
  | mapRayclear (e : RunEnv)
  | mapAgeout (e : RunEnv)
  | mapAccumArrival (e : RunEnv) (order : List Bool)
  -- pumps (07)
  | pumpCopy (p : Fin 32) (e : RunEnv)
  | copy2d (p : Fin 32) (e : RunEnv)
  | zero (p : Fin 32) (e : RunEnv)
  -- lanes (09, 10)
  | estInit (l : Fin 8) (e : LaneEnv)
  | srifStep (l : Fin 8) (e : LaneEnv)
  | mheStep (l : Fin 8) (e : LaneEnv)
  | qpSolve (l : Fin 8) (e : LaneEnv)
  | planReset (l : Fin 8) (e : LaneEnv)
  -- basins, lanes, canal and pumps in service (06, 10, 17)
  | scrub (u : UnitId) (upsets : List (Nat × Nat))
  | rowCopyDone (u : UnitId)
  | commandWatchdog (vector : Bool) (u : UnitId) (waves : Word)
  | reserveTestDone (pass : Bool) (source : Byte)
  | canalPortFail (node : Fin 30)
  | canalLinkFail (node : Fin 30) (d : RingDir)
  | planLinkFail (n : Fin 9)
  | pumpWatchdog (p : Fin 32) (time : Nat)
  -- LPDDR6 and the grid map (08)
  | patrolScrub (m : Fin 4) (upsets : List (Nat × Nat))
  | refresh (m : Fin 4)
  | dramTempRead (m : Fin 4) (r0 r1 : BitVec 2)
  | channelTimeout (m : Fin 4) (c : Fin 2)
  | mapClear (req : Requester) (evict : Bool)
  | clearDone
  -- loop engine (11)
  | loopSample (c : Fin 32) (a b d : Replica)
  | sampleDeadline (c : Fin 32)
  | planReceive (c : Fin 32) (p : Plan)
  | oscClr (req : Requester) (c : Fin 32)
  | repClr (req : Requester) (c : Fin 32)
  | planClr (req : Requester) (c : Fin 32)
  | injStart (req : Requester) (c : Fin 32)
  | injStop (req : Requester) (c : Fin 32)
  | trArm (req : Requester) (c : Fin 32)
  | trackLatch (req : Requester) (c : Fin 32)
  | stopRel (req : Requester) (c : Fin 32)
  | trData (req : Requester) (c : Fin 32)
  | profileThresholdCommit (req : Requester) (n : Fin 9) (p : Fin 4) (t : Fin 4) (v : Word)
  -- headgate (12)
  | invoke (req : Requester)
  | pendingStart (c : Fin 64)
  | teardown (req : Requester)
  | teardownComplete (c : Fin 64)
  | restart (req : Requester)
  | deadline (c : Fin 64)
  | timeout (c : Fin 64) (eng : Byte) (second : Bool)
  | frameSlotStart (i : Nat)
  | gSignal (req : Requester) (w : Fin 2) (n : Word)
  | alloc (req : Requester) (w : Fin 2)
  | free (req : Requester) (w : Fin 2)
  | acctSnap (req : Requester) (clear : Bool)
  -- checkpoints (13)
  | save (req : Requester)
  | restore (req : Requester)
  | checkpointDone
  -- SDIO (14)
  | cmd0 (crcOk : Bool := true)
  | cmd3 (crcOk : Bool := true)
  | cmd5 (ocr : Word) (crcOk : Bool := true)
  | cmd7 (rca : BitVec 16) (crcOk : Bool := true)
  | cmd11 (crcOk : Bool := true)
  | cmd15 (rca : BitVec 16) (crcOk : Bool := true)
  | cmd19 (crcOk : Bool := true)
  | cmd52 (crcOk write : Bool) (fn : BitVec 3) (addr : BitVec 17) (data : Byte)
  | cmd53 (crcOk write : Bool) (fn : BitVec 3) (block inc : Bool) (addr : BitVec 17) (count : BitVec 9) (d : Cmd53Data)
  | ioAbort (fn : BitVec 3)
  | res
  | stopByte (v : Byte)
  | winAddr (b : Byte)
  | winDataWrite (b : Byte)
  | winDataRead
  | winBurst (write : Bool) (data : List Byte) (words : BitVec 9)
  | respAck (v : Byte)
  -- VCP (14, 15): the frame that the doorbell rang is processed
  | hello
  | statusGet
  | stop
  | attestGet
  | loadBegin
  | loadEnd
  | actEnable
  | missionLoad (mid : Option (BitVec 9 × MidTrip) := none)
  | modeChange (mid : Option (BitVec 9 × MidTrip) := none)
  | vcpAdmit
  | revoke
  | windowBind
  | perfLimit
  | debugPolicy
  | keyExchangePhase1
  | keyExchangePhase2 (mid : Option MidTrip := none)
  | keyRotate (mid : Option MidTrip := none)
  -- boot, reset and supplies (15, 17, 18)
  | bootVerify (level : Fin 5) (linear : Bool)
  | selfTest (r : SelfTest)
  | wellhouseReset (lowNs : BitVec 32) (taken : Bool)
  | aonRstNRise (testEn : Bool)
  | pgRise (r : Rail)
  | pgTimeout (r : Rail)
  | pgLoss (r : Rail)
  | vglitch (r : Supply) (crcBad saveBad : Bool)
  | tglitch
  | debugAttach
  | debugDetach
  | extest
  | clamp
  | mgmtWatchdog
  | kick (req : Requester)
  | fltClr (req : Requester)
  | aclClr (req : Requester)
  | rmData (req : Requester)
  -- power (16)
  | pwrReq (req : Requester) (target : BitVec 2)
  | idleExpiry (d : Fin 36)
  | agree
  | stopWaitExpiry
  | entered
  | wakeN (lowNs : BitVec 32)
  | sdioCmdWake
  | wakeReq (req : Requester) (mask : BitVec 36)
  | regulatorReady (d : Fin 36)
  | oscRdy (d : Fin 36)
  | memRdy (d : Fin 36)
  | logicRdy (d : Fin 36)
  | perfReq (req : Requester) (level : BitVec 3)
  | voutCommandDone (ack : Bool)
  | voutSettled
  | bodyBiasSettled
  | smbalertN
  -- the last rows of the table
  | registerRead (req : Requester) (a : Access)
  | doorbell (b : Byte)
  | canProtocolError (c : Fin 4) (tec rec : BitVec 9)
  | stuckClear (d : Fin 8)
  | powerOnReset
deriving DecidableEq, Repr

end Sys2Proof
end

