-- ==== Sys2Proof/Decode.lean ====
section
/-! DEFINITION. Decode.lean: commands are not encoded in words. No row of opcode_table.json gives bits, so no word spells
a command. -/

namespace Sys2Proof

/-- The command that a word spells by the table's bits: none, since no row gives bits. DESIGN CHOICE, assumption 18. -/
def decodeTableWord (nbits w : Nat) : Option Instr :=
  let _ := nbits
  let _ := w
  none

end Sys2Proof
end

