-- ==== Sys2Proof/Machine/Bits.lean ====
section
/-! DEFINITION. Machine/Bits.lean: fields of registers and numbers, signs, saturation (rules R12, R14). -/

namespace Sys2Proof.Machine

/-- The field of `n` bits of `w` that starts at bit `lo`, as a number. -/
def fld (w : Word) (lo n : Nat) : Nat := (w.toNat >>> lo) % 2 ^ n

/-- Bit `i` of `w`. -/
def bit (w : Word) (i : Nat) : Bool := w.getLsbD i

/-- The field of `n` bits from bit `lo` of a number. -/
def nfld (v lo n : Nat) : Nat := (v >>> lo) % 2 ^ n

/-- A mask of `n` ones from bit `lo` on. -/
def maskN (lo n : Nat) : Nat := (2 ^ n - 1) <<< lo

/-- `w` with its field of `n` bits from bit `lo` set to the low bits of `v`. -/
def setFld (w : Word) (lo n v : Nat) : Word :=
  (w &&& ~~~(BitVec.ofNat 32 (maskN lo n))) ||| BitVec.ofNat 32 ((v % 2 ^ n) <<< lo)

/-- `w` with bit `i` set to `b`. -/
def setBit (w : Word) (i : Nat) (b : Bool) : Word := setFld w i 1 b.toNat

/-- A number as a word. -/
def w32 (n : Nat) : Word := BitVec.ofNat 32 n

/-- An integer as a word, modulo 2³². -/
def i32 (x : Int) : Word := BitVec.ofInt 32 x

/-- The integer that the low `n` bits of `v` hold in two's complement. -/
def sext (n v : Nat) : Int :=
  let m := v % 2 ^ n
  if m < 2 ^ (n - 1) then (m : Int) else (m : Int) - (2 ^ n : Nat)

/-- The low `n` bits of an integer in two's complement. -/
def toU (n : Nat) (x : Int) : Nat := (x % ((2 ^ n : Nat) : Int)).toNat

/-- An integer clamped to `[lo, hi]`. -/
def clampI (lo hi x : Int) : Int := if x < lo then lo else if hi < x then hi else x

/-- An integer saturated to `n` signed bits. -/
def satS (n : Nat) (x : Int) : Int := clampI (-((2 ^ (n - 1) : Nat) : Int)) ((2 ^ (n - 1) : Nat) - 1) x

/-- `a + b`, saturating at `top`. -/
def satAdd (top a b : Nat) : Nat := if top < a + b then top else a + b

/-- A word counter plus `n`, saturating at 0xFFFF_FFFF. -/
def satInc (w : Word) (n : Nat) : Word := w32 (satAdd 0xFFFFFFFF w.toNat n)

/-- An arithmetic shift right of an integer: the floor of the quotient by 2 ^ n. -/
def asr (x : Int) (n : Nat) : Int := x.fdiv ((2 ^ n : Nat) : Int)

/-- The ceiling of a quotient. -/
def ceilDiv (a b : Nat) : Nat := (a + b - 1) / b

/-- Whether bit `i` of a number is set. -/
def nbit (v i : Nat) : Bool := v.testBit i

/-- The word whose bits are the decisions of `f` at 0–31. -/
def wordOf (f : Nat → Bool) : Word :=
  BitVec.ofNat 32 ((List.range 32).foldl (fun a i => if f i then a + 2 ^ i else a) 0)

/-- The indices below `n` at which a number has a bit set, rising. -/
def ones (n v : Nat) : List Nat := (List.range n).filter (fun i => v.testBit i)

/-- `f` applied for every element of a list in turn. -/
def forEach {α σ : Type} (l : List α) (s : σ) (f : σ → α → σ) : σ := l.foldl f s

end Sys2Proof.Machine
end

