-- ==== Sys2Proof/Machine/Cells.lean ====
section
/-! DEFINITION. Machine/Cells.lean: sparse maps, the one form in which the state holds memories, register spaces and
tables. A map is a list of (key, value) pairs with strictly rising keys and no value equal to the default of its key, so
that equal maps are equal data. -/

namespace Sys2Proof.Machine

/-- A sparse map from natural-number keys. -/
abbrev Cells (α : Type) := List (Nat × α)

/-- The value at key `a`, or the default `d` where the map lists none. -/
def Cells.get {α : Type} (d : α) (m : Cells α) (a : Nat) : α :=
  match m with
  | [] => d
  | (k, v) :: r => if k = a then v else Cells.get d r a

/-- The map with `v` at key `a`; writing the default `d` removes the entry. -/
def Cells.put {α : Type} [DecidableEq α] (d : α) (m : Cells α) (a : Nat) (v : α) : Cells α :=
  m.filter (fun p => p.1 < a) ++ (if v = d then [] else [(a, v)]) ++ m.filter (fun p => a < p.1)

/-- The canonical form: keys strictly rising, and no entry equal to what an unlisted key reads as. -/
abbrev Cells.wf {α : Type} (d : Nat → α) (m : Cells α) : Prop :=
  m.Pairwise (fun p q => p.1 < q.1) ∧ ∀ p ∈ m, p.2 ≠ d p.1

/-- The entries of a run of values at rising keys from `a` on, without those equal to the default. -/
def Cells.run {α : Type} [DecidableEq α] (d : α) (a : Nat) (vs : List α) : Cells α :=
  match vs with
  | [] => []
  | v :: r => if v = d then Cells.run d (a + 1) r else (a, v) :: Cells.run d (a + 1) r

/-- The map with the values `vs` at the keys `a`, `a + 1`, … -/
def Cells.putRun {α : Type} [DecidableEq α] (d : α) (m : Cells α) (a : Nat) (vs : List α) : Cells α :=
  m.filter (fun p => p.1 < a) ++ Cells.run d a vs ++ m.filter (fun p => a + vs.length ≤ p.1)

/-- The values at `n` keys from `a` on. The window is cut out first, so that a long map is walked once. -/
def Cells.getRun {α : Type} (d : α) (m : Cells α) (a n : Nat) : List α :=
  let w := m.filter (fun p => a ≤ p.1 && p.1 < a + n)
  (List.range n).map fun i => Cells.get d w (a + i)

/-- The map without the entries whose keys lie in `[a, a + n)`. -/
def Cells.clear {α : Type} (m : Cells α) (a n : Nat) : Cells α :=
  m.filter (fun p => p.1 < a || a + n ≤ p.1)

/-- A memory of bytes: an unlisted address reads as 0x00 (DESIGN CHOICE, assumption 2). -/
abbrev Mem := Cells Byte

/-- The canonical form of a memory. -/
abbrev Mem.wf (m : Mem) : Prop := Cells.wf (fun _ => (0 : Byte)) m

/-- One byte of a memory. DESIGN CHOICE, assumption 2. -/
def Mem.byte (m : Mem) (a : Nat) : Byte := Cells.get 0 m a

/-- `n` bytes of a memory from address `a` on, lowest address first. -/
def Mem.bytes (m : Mem) (a n : Nat) : List Byte := Cells.getRun 0 m a n

/-- The memory with the bytes `bs` stored from address `a` on. -/
def Mem.store (m : Mem) (a : Nat) (bs : List Byte) : Mem := Cells.putRun 0 m a bs

/-- The number that little-endian bytes hold (rule R12). -/
def leNat (bs : List Byte) : Nat :=
  match bs with
  | [] => 0
  | b :: r => b.toNat + 256 * leNat r

/-- The low `n` bytes of a number, little-endian (rule R12). -/
def leBytes (n v : Nat) : List Byte :=
  match n with
  | 0 => []
  | k + 1 => BitVec.ofNat 8 v :: leBytes k (v / 256)

/-- The number that big-endian bytes hold. -/
def beNat (bs : List Byte) : Nat := leNat bs.reverse

/-- The low `n` bytes of a number, big-endian. -/
def beBytes (n v : Nat) : List Byte := (leBytes n v).reverse

/-- A little-endian number of `n` bytes read from a memory. -/
def Mem.nat (m : Mem) (a n : Nat) : Nat := leNat (m.bytes a n)

/-- A little-endian number of `n` bytes stored to a memory. -/
def Mem.storeNat (m : Mem) (a n v : Nat) : Mem := m.store a (leBytes n v)

end Sys2Proof.Machine
end

