-- ==== Sys2Proof/Machine/RegTable.lean ====
section
/-! DEFINITION. Machine/RegTable.lean: the register pages (rules R40–R43, R415) and every register of theirs: offset,
which bits a write stores, clears or sets, and the value after reset (rules R13, R14). A bit in none of the three masks is
RO, WO or RSV and stores nothing. Offsets that no row names are reserved (rule R53). -/

namespace Sys2Proof.Machine

/-- The implemented pages (rule R43). -/
inductive Page where
  | ident | time | slots | power | alarm | fault | acl
  | headgate | pumps | sgw (w : Nat)
  | basin (n : Nat) | lane (n : Nat) | loop (n : Nat)
  | csi (n : Nat) | eth (n : Nat) | serial | can | field | ingest
  | mc (n : Nat) | gmap
  | mbox | rate | tel | perf | pmb | att | dbg
  | sdio | f1 | f2
deriving DecidableEq, Repr

/-- The page that holds a byte address, by its page number (rule R43). -/
def pageAt (a : Nat) : Option Page :=
  let p := a / 4096
  if p < 7 then ([Page.ident, .time, .slots, .power, .alarm, .fault, .acl])[p]?
  else if p = 0x10 then some .headgate
  else if p = 0x11 then some .pumps
  else if p = 0x12 ∨ p = 0x13 then some (.sgw (p - 0x12))
  else if 0x20 ≤ p ∧ p < 0x30 then some (.basin (p - 0x20))
  else if p = 0xA0 ∨ p = 0xA1 then some (.basin (p - 0xA0 + 16))
  else if 0x30 ≤ p ∧ p < 0x39 then some (.lane (p - 0x30))
  else if 0x40 ≤ p ∧ p < 0x50 then some (.loop (p - 0x40))
  else if 0xC0 ≤ p ∧ p < 0xD0 then some (.loop (p - 0xC0 + 16))
  else if 0x50 ≤ p ∧ p < 0x56 then some (.csi (p - 0x50))
  else if p = 0x56 ∨ p = 0x57 then some (.eth (p - 0x56))
  else if p = 0x58 then some .serial
  else if p = 0x59 then some .can
  else if p = 0x5A then some .field
  else if p = 0x5B then some .ingest
  else if 0x60 ≤ p ∧ p < 0x64 then some (.mc (p - 0x60))
  else if p = 0x64 then some .gmap
  else if 0x70 ≤ p ∧ p < 0x77 then ([Page.mbox, .rate, .tel, .perf, .pmb, .att, .dbg])[p - 0x70]?
  else if p = 0x80 then some .sdio
  else if p = 0x81 then some .f1
  else if p = 0x82 then some .f2
  else none

/-- The base address of a page (rule R43). -/
def Page.base (p : Page) : Nat :=
  match p with
  | .ident => 0x0000 | .time => 0x1000 | .slots => 0x2000 | .power => 0x3000
  | .alarm => 0x4000 | .fault => 0x5000 | .acl => 0x6000
  | .headgate => 0x10000 | .pumps => 0x11000 | .sgw w => 0x12000 + 0x1000 * w
  | .basin n => if n < 16 then 0x20000 + 0x1000 * n else 0xA0000 + 0x1000 * (n - 16)
  | .lane n => 0x30000 + 0x1000 * n
  | .loop n => if n < 16 then 0x40000 + 0x1000 * n else 0xC0000 + 0x1000 * (n - 16)
  | .csi n => 0x50000 + 0x1000 * n | .eth n => 0x56000 + 0x1000 * n
  | .serial => 0x58000 | .can => 0x59000 | .field => 0x5A000 | .ingest => 0x5B000
  | .mc n => 0x60000 + 0x1000 * n | .gmap => 0x64000
  | .mbox => 0x70000 | .rate => 0x71000 | .tel => 0x72000 | .perf => 0x73000
  | .pmb => 0x74000 | .att => 0x75000 | .dbg => 0x76000
  | .sdio => 0x80000 | .f1 => 0x81000 | .f2 => 0x82000

/-- The type code of a page (rule R43). -/
def Page.type (p : Page) : Nat :=
  match p with
  | .ident => 0x0001 | .time => 0x0002 | .slots => 0x0003 | .power => 0x0004
  | .alarm => 0x0005 | .fault => 0x0006 | .acl => 0x0007
  | .headgate => 0x0010 | .pumps => 0x0011 | .sgw _ => 0x0012
  | .basin _ => 0x0020 | .lane _ => 0x0030 | .loop _ => 0x0040
  | .csi _ => 0x0050 | .eth _ => 0x0051
  | .serial => 0x0052 | .can => 0x0053 | .field => 0x0054 | .ingest => 0x0055
  | .mc _ => 0x0060 | .gmap => 0x0061
  | .mbox => 0x00A0 | .rate => 0x00A1 | .tel => 0x00A2 | .perf => 0x00A3
  | .pmb => 0x00A4 | .att => 0x00A5 | .dbg => 0x00A6
  | .sdio => 0x0080 | .f1 => 0x0081 | .f2 => 0x0082

/-- The number of a page among those of its kind (rule R43). -/
def Page.inst (p : Page) : Nat :=
  match p with
  | .sgw n | .basin n | .lane n | .loop n | .csi n | .eth n | .mc n => n
  | .f1 => 1 | .f2 => 2
  | _ => 0

/-- The power domain that holds a page (rule R415). -/
def Page.domain (p : Page) : Nat :=
  match p with
  | .ident | .time | .slots | .power | .alarm | .fault | .acl => 0
  | .mbox | .rate | .tel | .perf | .pmb | .att | .dbg | .sdio | .f1 | .f2 => 1
  | .headgate | .pumps | .sgw _ | .gmap => 2
  | .basin n => 3 + n
  | .lane n => 21 + n
  | .loop _ => 30
  | .csi _ | .eth _ | .serial | .can | .field | .ingest => 31
  | .mc n => 32 + n

/-- BLOCK_ID of a page (rule R49). -/
def Page.blockId (p : Page) : Nat := p.type * 65536 + p.inst

/-- The region 0–8 of an address (rule R41); an extension base belongs to its region. -/
def regionOf (a : Nat) : Nat :=
  let r := a / 65536
  if r ≤ 8 then r else r - 8

/-- One row of the register table: `n` words from offset `off`, `stride` bytes apart. -/
structure RegDef where
  name : String
  off : Nat
  rw : Nat := 0
  reset : Nat := 0
  w1c : Nat := 0
  w1s : Nat := 0
  n : Nat := 1
  stride : Nat := 4
deriving DecidableEq, Repr

/-- A word of 32 ones. -/
def allOnes : Nat := 0xFFFFFFFF

/-- The common header (rule R49). CTRL and STATUS take their block's own rows, which come first. -/
def headerRegs : List RegDef := [
  { name := "INT_RAW", off := 0x014 },
  { name := "INT_EN", off := 0x018, rw := allOnes },
  { name := "ERR_CAPT", off := 0x024, reset := 0x00FF0000 }]

/-- The time page (rule R109). The counters' own groups are served from the time base. -/
def timeRegs : List RegDef := [
  { name := "PPS_CTRL", off := 0x2A0, rw := 0xF },
  { name := "ETH_CORR", off := 0x2C0, rw := allOnes, n := 2 },
  { name := "ETH_TSEL", off := 0x2C8, rw := 0x77 },
  { name := "SERVO_MAP", off := 0x2E0, rw := 0xFF, reset := 0xC1 },
  { name := "STEP_LIMIT", off := 0x2E8, rw := allOnes, reset := 1000000 }]

/-- The slot page (rule R116). The window registers are served from the slot table. -/
def slotRegs : List RegDef := [
  { name := "FIRE_MAP", off := 0x220, w1c := allOnes, n := 8 },
  { name := "LATE_MAP", off := 0x240, w1c := allOnes, n := 8 }]

/-- The power coordinator page (rule R441). -/
def powerRegs : List RegDef := [
  { name := "STOP_WAIT", off := 0x108, rw := 0xFFFF, reset := 100 },
  { name := "WAKE_EN", off := 0x118, rw := 7, reset := 7 },
  { name := "IDLE", off := 0x208, rw := 0x3FFFFF, reset := 0x100000, n := 30 }]

/-- The security alarm page (rule R411). -/
def alarmRegs : List RegDef := [
  { name := "ALM_CFG0", off := 0x100, rw := 7, reset := 1, n := 3 },
  { name := "ALM_CFG3", off := 0x10C, rw := 7, n := 3 },
  { name := "ALM_LIMITS", off := 0x118, rw := 0xFFFFFF, reset := 0x141004 }]

/-- The fault log page (rule R462). -/
def faultRegs : List RegDef := [
  { name := "FAULT_STAT", off := 0x118, w1c := 0xF },
  { name := "FLT_CFG", off := 0x11C, rw := 7, reset := 2 },
  { name := "TM_CLEAN", off := 0x124, rw := 0xFFFF, reset := 1024 },
  { name := "MGMT_WD", off := 0x128, rw := 0xFF0, reset := 0x80 }]

/-- The fabric rate page (rule R35). -/
def rateRegs : List RegDef := [
  { name := "FLOOR_P0", off := 0x100, reset := 350 },
  { name := "FLOOR_P1", off := 0x104, reset := 450 },
  { name := "FLOOR_P2", off := 0x108, reset := 620 },
  { name := "FLOOR_P3", off := 0x10C, reset := 820 },
  { name := "FLOOR_P4", off := 0x110, reset := 1000 },
  { name := "LOOP_FLOOR", off := 0x114, reset := 820 },
  { name := "MON_BELOW", off := 0x11C, w1c := allOnes },
  { name := "MON_WARN", off := 0x120, w1c := allOnes },
  { name := "MON_SEL", off := 0x12C, rw := 0x1F }]

/-- The performance-level page (rule R442). -/
def perfRegs : List RegDef := [
  { name := "LVL_0", off := 0x100, reset := 600 + 150 * 65536 + 3 * 16777216 },
  { name := "LVL_1", off := 0x104, reset := 650 + 100 * 65536 + 2 * 16777216 },
  { name := "LVL_2", off := 0x108, reset := 720 + 50 * 65536 + 1 * 16777216 },
  { name := "LVL_3", off := 0x10C, reset := 800 },
  { name := "LVL_4", off := 0x110, reset := 900 },
  { name := "PERF_REQ", off := 0x120, rw := 7 },
  { name := "PERF_LIMIT", off := 0x128, rw := 7, reset := 4 },
  { name := "THROT", off := 0x12C, rw := 0xFFF, reset := 105 + 2 * 256 + 2048 }]

/-- The PMBus page (rule R443). -/
def pmbRegs : List RegDef := [
  { name := "PMB_CFG", off := 0x100, rw := 0x1FF, reset := 0x1C0 }]

/-- The debug policy page (rule R414). -/
def dbgRegs : List RegDef := [
  { name := "DBG_POLICY", off := 0x100, rw := 0x7FF, reset := 1 }]

/-- A CSI-2 receiver page (rule R131). -/
def csiRegs : List RegDef := [
  { name := "CSI_CFG", off := 0x100, rw := 0xFFFFF, reset := 0x724 },
  { name := "CSI_DT", off := 0x108, rw := allOnes, reset := allOnes }]

/-- An Ethernet MAC page (rules R134, R135). -/
def ethRegs : List RegDef := [
  { name := "IP_ADDR", off := 0x114, rw := allOnes },
  { name := "ETH_CFG", off := 0x118, rw := 0xF, reset := 0x8 },
  { name := "MAC_ADDR_LO", off := 0x11C, rw := allOnes },
  { name := "MAC_ADDR_HI", off := 0x120, rw := 0xFFFF },
  { name := "MDIO_CMD", off := 0x128, rw := 0x1FFF, reset := 0x1000 },
  { name := "MDIO_DATA", off := 0x12C, rw := 0xFFFF },
  { name := "MDIO_DIV", off := 0x130, rw := 0xFF, reset := 16 }]

/-- The low-rate serial page (rule R137). -/
def serialRegs : List RegDef := [
  { name := "SPI_CFG", off := 0x100, rw := 0x1FF, n := 4, stride := 0x20 },
  { name := "SPI_DIV", off := 0x104, rw := 0xFFFF, reset := 50, n := 4, stride := 0x20 },
  { name := "SPI_LEN", off := 0x108, rw := 0x1FFF, reset := 1, n := 4, stride := 0x20 },
  { name := "SPI_PERIOD", off := 0x10C, rw := 0xFFFFF, reset := 1000, n := 4, stride := 0x20 },
  { name := "UART_CFG", off := 0x180, rw := 0xFFF, n := 2, stride := 0x20 },
  { name := "UART_BAUD", off := 0x184, rw := 0xFFFFF, reset := 11111, n := 2, stride := 0x20 },
  { name := "UART_END", off := 0x188, rw := 0x1FFFFFFF, reset := 0x10A0A, n := 2, stride := 0x20 },
  { name := "UART_TX", off := 0x1C0, rw := allOnes, n := 8 },
  { name := "SPI_TX", off := 0x200, rw := allOnes, n := 64 }]

/-- The CAN FD page (rule R138). The transmit-buffer window is served from the buffers. -/
def canRegs : List RegDef := [
  { name := "CF_ID", off := 0x100, rw := 0xBFFFFFFF, n := 128, stride := 8 },
  { name := "CF_MASK", off := 0x104, rw := 0x1FFFFFFF, n := 128, stride := 8 },
  { name := "CAN_CTRL", off := 0x500, rw := 0x1F, reset := 0x1C, n := 4, stride := 0x20 },
  { name := "NBT", off := 0x504, rw := 0x7FFFFFFF, reset := 31 * 16777216 + 31 * 131072 + 126 * 512, n := 4, stride := 0x20 },
  { name := "DBT", off := 0x508, rw := 0x0F0F1F1F, reset := 9 * 16777216 + 9 * 65536 + 28 * 256, n := 4, stride := 0x20 },
  { name := "TDC", off := 0x50C, rw := 0x7F7F, reset := 30, n := 4, stride := 0x20 },
  { name := "TX_REQ", off := 0x680, w1s := 0xFFFF, n := 4 },
  { name := "TX_DONE", off := 0x6A0, w1c := 0xFFFF, n := 4 }]

/-- The field I/O page (rules R141, R145). -/
def fieldRegs : List RegDef := [
  { name := "ECFG", off := 0x100, rw := 0x1FFF, n := 8, stride := 0x20 },
  { name := "COUNT", off := 0x104, rw := allOnes, n := 8, stride := 0x20 },
  { name := "PERIOD", off := 0x10C, reset := allOnes, n := 8, stride := 0x20 },
  { name := "SCFG", off := 0x200, rw := 0x7F, reset := 0x14, n := 8, stride := 0x20 },
  { name := "PCFG", off := 0x300, rw := 0x7FF, n := 24, stride := 0x20 },
  { name := "PERIOD", off := 0x304, rw := 0xFFFFFF, reset := 0xFFFFFF, n := 24, stride := 0x20 },
  { name := "DUTY", off := 0x308, rw := 0xFFFFFF, n := 24, stride := 0x20 },
  { name := "PHASE", off := 0x30C, rw := 0xFFFFFF, n := 24, stride := 0x20 },
  { name := "ACT_EN", off := 0x600, rw := 0xFFFFFF },
  { name := "TOUT_IDLE", off := 0x604, rw := 0xFF }]

/-- The ingest page: ring groups and flow filters (rules R134, R146). -/
def ingestRegs : List RegDef := [
  { name := "BASE_LO", off := 0x100, rw := 0xFFFFF000, n := 52, stride := 0x40 },
  { name := "BASE_HI", off := 0x104, rw := 0xF, n := 52, stride := 0x40 },
  { name := "SLOTS", off := 0x108, rw := 0x1FFFF, reset := 2, n := 52, stride := 0x40 },
  { name := "SIZE", off := 0x10C, rw := 0x3FFFFF, reset := 2, n := 52, stride := 0x40 },
  { name := "CTRL", off := 0x110, rw := 0x7, n := 52, stride := 0x40 },
  { name := "GATE", off := 0x114, rw := 0x1FFFF, n := 52, stride := 0x40 },
  { name := "RCOUNT", off := 0x11C, rw := allOnes, n := 52, stride := 0x40 },
  { name := "FCTRL", off := 0xE00, rw := 0xFFFFF, reset := 0x90006, n := 16, stride := 0x20 },
  { name := "DST_IP", off := 0xE04, rw := allOnes, n := 16, stride := 0x20 },
  { name := "SRC_IP", off := 0xE08, rw := allOnes, n := 16, stride := 0x20 },
  { name := "PORT", off := 0xE0C, rw := allOnes, n := 16, stride := 0x20 }]

/-- A memory controller page (rule R217). -/
def mcRegs : List RegDef := [
  { name := "UNCORR_LIMIT", off := 0x118, rw := 0xFF, reset := 8 },
  { name := "SCRUB_CTRL", off := 0x11C, rw := 0xFF01, reset := 0x1801 }]

/-- The grid map page (rule R231). -/
def gmapRegs : List RegDef := [
  { name := "MAP_BASE_LO", off := 0x100, rw := 0xF8000000 },
  { name := "MAP_BASE_HI", off := 0x104, rw := 0xF },
  { name := "MAP_CTRL", off := 0x108, rw := 0x3 },
  { name := "LO_LIMITS", off := 0x10C, rw := allOnes, reset := 0x0800F800 }]

/-- The headgate page: the checkpoint registers (rule R368). What belongs to a context is served from the headgate. -/
def headgateRegs : List RegDef := [
  { name := "CK_SEL", off := 0x340, rw := 0xF },
  { name := "CK_OFS", off := 0x344, rw := 0xFFFFF },
  { name := "CK_LEN", off := 0x348, rw := 0x1FFFFF, reset := 64 },
  { name := "CK_ADDR_LO", off := 0x34C, rw := 0xFFFFFFC0 },
  { name := "CK_ADDR_HI", off := 0x350, rw := 0xF }]

/-- A loop channel page (rule R320). -/
def loopRegs : List RegDef := [
  { name := "CTRL", off := 0x00C, rw := 0x1FFF },
  { name := "STATUS", off := 0x010, w1c := 0x88 },
  { name := "KD", off := 0x100, rw := allOnes, n := 4 },
  { name := "Q1", off := 0x110, rw := allOnes, reset := 0x40000000 },
  { name := "Q2", off := 0x114, rw := allOnes },
  { name := "SHIFT0", off := 0x118, rw := 0x1F1F1F1F },
  { name := "SHIFT1", off := 0x11C, rw := 0x1F0F1F1F, reset := 0x1E00 },
  { name := "XSHIFT", off := 0x120, rw := 0x1F1F },
  { name := "U_MIN", off := 0x124, rw := allOnes, n := 2 },
  { name := "OUT_BIAS", off := 0x12C, rw := 0xFFFFFF },
  { name := "VMAX", off := 0x130, rw := allOnes, reset := 0x10000, n := 2 },
  { name := "SP_REG", off := 0x138, rw := allOnes, n := 3 },
  { name := "REP_PER", off := 0x144, rw := 0x1FFF, reset := 2 },
  { name := "REP_LEAD", off := 0x148, rw := 0xFFF },
  { name := "REP_LIM", off := 0x14C, rw := 0x3FFFFFFF },
  { name := "DL", off := 0x150, rw := 0xFFF, reset := 87 },
  { name := "OSC_CFG", off := 0x154, rw := 0xFFFFFF, reset := 8 * 65536 + 1024 },
  { name := "OSC_ATH", off := 0x158, rw := allOnes },
  { name := "STOP_CFG", off := 0x15C, rw := 3, reset := 1 },
  { name := "STOP_SP", off := 0x160, rw := allOnes },
  { name := "STOP_VMAX", off := 0x164, rw := allOnes, reset := 0x10000, n := 2 },
  { name := "STOP_U", off := 0x16C, rw := allOnes },
  { name := "CMD", off := 0x170, rw := 0xFF },
  { name := "P_MAIN", off := 0x200, rw := allOnes, n := 33 },
  { name := "I_MAIN", off := 0x300, rw := allOnes, n := 33 },
  { name := "P_FB", off := 0x400, rw := allOnes, n := 33 },
  { name := "I_FB", off := 0x500, rw := allOnes, n := 33 },
  { name := "INJ_CTRL", off := 0x600, rw := 7 },
  { name := "INJ_AMP", off := 0x604, rw := allOnes },
  { name := "INJ_LEN", off := 0x608, rw := 0xFFFFFF, reset := 1 },
  { name := "INJ_F0", off := 0x60C, rw := allOnes, n := 2 },
  { name := "INJ_PRBS", off := 0x614, rw := 0x7FFFFFFF, reset := 0x10001 },
  { name := "TR_CFG", off := 0x700, rw := 0x0FFFFF07 },
  { name := "TR_NODES", off := 0x704, rw := allOnes, reset := 0x76543210 }]

/-- A basin page (rule R180). -/
def basinRegs : List RegDef := [
  { name := "CTRL", off := 0x00C, rw := 1, reset := 1 },
  { name := "ROW_LIMIT", off := 0x114, rw := 0xFF, reset := 4 }]

/-- A solver lane page (rules R254, R286). -/
def laneRegs : List RegDef := [
  { name := "CTRL", off := 0x00C, rw := 1, reset := 1 },
  { name := "FB_LIMIT", off := 0x118, rw := 0xFF, reset := 3 },
  { name := "ROW_LIMIT", off := 0x134, rw := 0xFF, reset := 4 },
  { name := "PROFILE", off := 0x200, rw := allOnes, n := 32 },
  { name := "PROF_CTRL", off := 0x280, rw := 0xF }]

/-- The rows of a page, its own before the common header's. -/
def pageRegs (p : Page) : List RegDef :=
  match p with
  | .time => timeRegs
  | .slots => slotRegs
  | .power => powerRegs
  | .alarm => alarmRegs
  | .fault => faultRegs
  | .rate => rateRegs
  | .perf => perfRegs
  | .pmb => pmbRegs
  | .dbg => dbgRegs
  | .csi _ => csiRegs
  | .eth _ => ethRegs
  | .serial => serialRegs
  | .can => canRegs
  | .field => fieldRegs
  | .ingest => ingestRegs
  | .mc _ => mcRegs
  | .gmap => gmapRegs
  | .basin _ => basinRegs
  | .lane _ => laneRegs
  | .loop _ => loopRegs
  | .headgate => headgateRegs
  | _ => []

/-- Whether a row holds the register at an offset. -/
def RegDef.has (d : RegDef) (off : Nat) : Bool :=
  d.off ≤ off && (off - d.off) % d.stride == 0 && (off - d.off) / d.stride < d.n

/-- The row of the register at an offset of a page, if the offset is defined and stored. DESIGN CHOICE, assumption 3. -/
def findReg (p : Page) (off : Nat) : Option RegDef :=
  match (pageRegs p).find? (fun d => d.has off) with
  | some d => some d
  | none => headerRegs.find? (fun d => d.has off)

/-- The value of a register after reset (rule R13). -/
def regInit (a : Nat) : Word :=
  match pageAt a with
  | none => 0
  | some p =>
    match findReg p (a % 4096) with
    | some d => BitVec.ofNat 32 d.reset
    | none => 0

end Sys2Proof.Machine
end

