-- ==== Sys2Proof/Machine/State.lean ====
section
/-! DEFINITION. Machine/State.lean: the state of the ET-860, plain data, and its value at wellhouse reset. Registers are
held by address in one sparse map (`regs`), whose reset values are the rows of Machine/RegTable.lean; what the manual gives
the block besides its register pages has fields of its own. -/

namespace Sys2Proof.Machine

/-- The reasons for which the block stops. Nothing in the manual stops it, so no command raises one. -/
inductive Fault where
  /-- Raised by nothing: the manual gives every command an effect. Safe. -/
  | none
deriving DecidableEq, Repr

/-- The reasons for which a command has no meaning. -/
inductive Refusal where
  /-- Raised by an arm of exec whose command is not modelled yet. Safe. -/
  | notModelled (mnemonic : String)
deriving DecidableEq, Repr

/-- A time counter (rules R95, R99–R101): the value, the addend in force, the committed steps that the next tick applies,
the last committed step, the count of steps, whether the one step of TC6 and TC7 is spent, and LSTEP_AT. -/
structure Tc where
  sec : BitVec 48
  ns : BitVec 30
  frac : Word
  addend : DWord
  step : Option Int
  last : DWord
  steps : Byte
  spent : Bool
  lstepAt : Word
deriving DecidableEq, Repr

/-- A counter at wellhouse reset (rule R95). -/
def tcReset : Tc :=
  { sec := 0, ns := 0, frac := 0, addend := 0x200000000, step := none, last := 0, steps := 0, spent := false, lstepAt := 0 }

/-- The time base (rules R95–R116): the eight counters, the nanoseconds of the timing clock since reset, the scheduled
action slots (word w of slot k at 16k + w: CFG, TGT_NS, TGT_SEC_LO, TGT_SEC_HI, PERIOD, ARG0, ARG1, REC, LATENESS,
SKIPPED, FIRED_AT, and a mark that the next firing is late), the moment of the last captured PPS edge, the slots that fire on the
present tick and have not yet, and the disarm writes that wait for their firings (rule R114). -/
structure TimeBase where
  tc : Cells Tc
  ns : Nat
  slots : Cells Word
  ppsAt : Option Nat
  firing : List Nat
  disarm : Cells (Option Word)
deriving DecidableEq, Repr

/-- What a register access answered its requester (rule R45): the status code and, for a read, the word. -/
structure Response where
  code : Byte
  data : Word
deriving DecidableEq, Repr

def responseNone : Response := { code := 0, data := 0 }

/-- The units that the grade record enables (rules R2–R4, R397): the grade code once a record is accepted, and one bit
for each physical basin, lane, loop channel and CSI-2 receiver. -/
structure Grade where
  code : Option Nat
  basins : BitVec 18
  lanes : BitVec 9
  loops : BitVec 32
  csi : BitVec 6
deriving DecidableEq, Repr

/-- The key store and the alarm's hidden counts (rules R400–R406): K_root once derived, d_id, the command key, the
STATUS that the frame with LAST_CTR received, the ephemeral exchange key with its nonce and the time of its making, the digest of the grade record in force, the
owner-key hashes, the events held in the alarm ring, and the below-floor windows within the tick. -/
structure Security where
  rootKey : List Byte
  did : Nat
  cmdKey : Option (List Byte)
  lastCtr : DWord
  lastStatus : Byte
  eph : Option (Nat × List Byte × Nat)
  gradeDigest : List Byte
  owners : List (List Byte)
  nEvt : Nat
  tmInTick : Nat
deriving DecidableEq, Repr

/-- A sluice gate (rules R342–R346): count, mode bits, flags, the count an invocation start restores, the wait timeout in
µs, and whether a gate below 1,024 is allocated as a system gate. A context's gates are those of its range. -/
structure Gate where
  count : Word
  consume : Bool
  resetInv : Bool
  abandon : Bool
  sat : Bool
  init : Word
  timeout : BitVec 24
  sys : Bool
deriving DecidableEq, Repr

/-- A gate at reset (rule R355). -/
def gateReset : Gate :=
  { count := 0, consume := false, resetInv := true, abandon := false, sat := false, init := 0, timeout := 0, sys := false }

/-- The states of a context (rule R321). -/
inductive CtxState where
  | free | admitted | running | faulted
deriving DecidableEq, Repr

/-- A command list: its engine code, which names an image basin below 0x20, and its descriptors in words (rules R327,
R335). -/
structure CmdList where
  code : Nat
  descs : List (List Word)
deriving DecidableEq, Repr

/-- A region of a logical cistern, by image basin (rule R335). -/
structure Region where
  ofs : Nat
  basin : Nat
  size : Nat
deriving DecidableEq, Repr

/-- An import (rules R335, R336). -/
structure Import where
  first : Nat
  count : Nat
  producer : Nat
  sys : Bool
deriving DecidableEq, Repr

/-- A bound buffer window (rule R201): in the cistern of a logical basin, or in LPDDR6. -/
structure Window where
  basin : Option Nat
  base : Nat
  size : Nat
deriving DecidableEq, Repr

/-- A teardown in progress (rule R349): the cause's code, the LCN for the record and the discarded commands. -/
structure Tear where
  cause : Nat
  lcn : Nat
  discarded : Nat
deriving DecidableEq, Repr

/-- The wait timeouts of a head (rule R343): the TC7 time at which it became the head while a slot covered its engine, and
whether the timeout of its first and of its second gate has expired. -/
structure HeadWait where
  since : Nat
  gone0 : Bool
  gone1 : Bool
deriving DecidableEq, Repr

/-- What an image is compiled for, as a WCET needs it: the floor rate, L_m, the share of the sustained bound in MB/s and the transfers
in flight at once in one direction. -/
structure Compiled where
  rate : Nat
  lm : Nat
  share : Nat
  inFlight : Nat
deriving DecidableEq, Repr

/-- A context (rules R321–R325, R335, R343, R363–R367). Its registers and accounting words are in `hg`. -/
structure Ctx where
  state : CtxState
  seed : DWord
  step : DWord
  batch : Bool
  members : Nat
  wpm : Nat
  windows : Nat
  gateBase : Nat
  gateCnt : Nat
  imports : List Import
  regions : List Region
  lists : List CmdList
  places : List (List Nat)
  bound : Cells (Option Window)
  placement : Nat
  issued : List Nat
  waits : Cells (Option HeadWait)
  pend : Option Nat
  deadline : Nat
  missed : Bool
  abandoned : Bool
  timedOut : Bool
  sums : Nat × Nat × Nat
  digest : Word
  tearing : Option Tear
  revoke : Bool
  abandonAll : Bool
  cause : Byte
  replay : List (List Word)
  replayEnd : Option (List Word)
  ledgerLost : Nat
  compiled : Compiled
deriving DecidableEq, Repr

/-- A free context (rule R321). -/
def ctxReset : Ctx :=
  { state := .free, seed := 0, step := 0, batch := false, members := 0, wpm := 0, windows := 0, gateBase := 0, gateCnt := 0,
    imports := [], regions := [], lists := [], places := [], bound := [], placement := 0, issued := [], waits := [], pend := none,
    deadline := 0, missed := false, abandoned := false, timedOut := false, sums := (0, 0, 0), digest := 0, tearing := none,
    revoke := false, abandonAll := false, cause := 0, replay := [], replayEnd := none, ledgerLost := 0,
    compiled := { rate := 0, lm := 0, share := 0, inFlight := 0 } }

/-- An admitted graph image (rules R329, R338): its digest, its performance level, its contexts and its slot entries, each of
eight words. -/
structure Image where
  digest : List Byte
  level : Nat
  ctxs : List Nat
  slots : List (List Word)
deriving DecidableEq, Repr

/-- A residency tag (rule R160): the region of a logical cistern, with the image, context and source of the load that
filled it. -/
structure Tag where
  ctx : Nat
  basin : Nat
  ofs : Nat
  size : Nat
  digest : List Byte
  src : Nat
deriving DecidableEq, Repr

/-- A substitution under way (rules R176, R285): the logical number whose unit retired, that unit, and the reserve that is
being woken or tested. -/
structure Subst where
  lane : Bool
  logical : Nat
  retired : Nat
  reserve : Nat
deriving DecidableEq, Repr

/-- Engine time of a command of the present management tick (rules R351, R352): its engine code, the power domain, the
context, and its start and end on TC7. -/
structure Work where
  eng : Nat
  dom : Nat
  ctx : Nat
  start : Nat
  stop : Nat
deriving DecidableEq, Repr

/-- A head that an engine takes: context, list, descriptor and member, with the static context that yields to it (rules R328,
R345). -/
structure Head where
  c : Nat
  list : Nat
  desc : List Word
  member : Nat
  yieldBy : Option Nat
deriving DecidableEq, Repr

/-- The command that an engine runs, from its start to its end (rules R185, R328): the head, the unit or pump that runs it, the
time it takes and what the outside decides of it (a residue check that fails, the TC7 words of a solve's deadline checks, the order
of arrival of a map command), the TC7 time and the data stamp of its start, what it read at its start (TC0; the slot and SEQ of the
newest record of its ring), the end of the slot it started in, and whether its unit was retired under it (rule R457). -/
structure Running where
  head : Head
  phys : Nat
  dur : Nat
  residue : Bool
  tc7 : List Word
  order : List Bool
  start : Nat
  stamp : Word
  tc0 : Tc
  ring : Option (Nat × Word)
  slotEnd : Option Nat
  cut : Bool
deriving DecidableEq, Repr

/-- The headgate and the engines' own state: contexts, images, per-context registers and accounts (register offset o of
context c at 0x1000c + o), residency tags, the context each engine served last, the command that it runs, the actual start of
each slot on each engine (slot 128i + engine code), fenced logical basins and lanes (lane n as 16 + n), substitutions in order of
detection, retired pumps, the loss of the grid map unit, the code of a checkpoint copy in progress, and the engine time and data
flits of the present management tick with the moment that it began. -/
structure Headgate where
  ctxs : Cells Ctx
  images : List Image
  hg : Cells Word
  tags : List Tag
  last : Cells Nat
  running : Cells (Option Running)
  slotAt : Cells Nat
  fenced : List Nat
  subst : List Subst
  pumpsLost : List Nat
  mapLost : Bool
  ck : Option Nat
  work : List Work
  flits : Cells Nat
  tickAt : Nat
deriving DecidableEq, Repr

/-- DESIGN CHOICE, assumption 51. -/
def headgateReset : Headgate :=
  { ctxs := [], images := [], hg := [], tags := [], last := [], running := [], slotAt := [], fenced := [], subst := [],
    pumpsLost := [], mapLost := false, ck := none, work := [], flits := [], tickAt := 0 }

/-- The ring writer's own state of one ring (rules R121, R124): units dropped since the last record, whether units were
lost, and whether a link retry came since the previous unit began and since the present one began. -/
structure RingSt where
  drops : Word
  gap : Bool
  retryPrev : Bool
  retryCur : Bool
deriving DecidableEq, Repr

def ringReset : RingSt := { drops := 0, gap := false, retryPrev := false, retryCur := false }

/-- A camera frame in progress (rules R125, R126, R130). -/
structure CsiFrame where
  start : Word
  num : BitVec 16
  lines : Nat
  longest : Nat
  dt : Option (BitVec 6)
  errs : Word
  crcErr : Bool
  bytes : List Byte
deriving DecidableEq, Repr

/-- A UART message in progress (rule R126). -/
structure UartMsg where
  start : Word
  bytes : List Byte
  errs : Word
deriving DecidableEq, Repr

/-- An SPI transfer in progress (rules R125, R126, R137): the stamp and kind of its trigger, its length and its chip select. -/
structure SpiRun where
  start : Word
  trig : Nat
  len : Nat
  cs : Nat
deriving DecidableEq, Repr

/-- A frame that the management controller received or sent, with the stamp of rule R107 in nanoseconds. -/
structure EthMsg where
  port : Fin 2
  sent : Bool
  stamp : Option Int
  frame : List Byte
deriving DecidableEq, Repr

/-- A quadrature input (rule R139): the accepted levels of A and B, and the time of the last counted edge. -/
structure EncSt where
  a : Bool
  b : Bool
  edgeAt : Option Nat
deriving DecidableEq, Repr

/-- A PWM output (rules R142, R143, R145): the counter, the duty in force in this period, a duty that applies from the next tick, a
PWM_SYNC load that the next tick makes, and the level of the last OUTPUT_EDGE since timed-edge mode was entered. -/
structure PwmSt where
  ctr : BitVec 24
  duty : BitVec 24
  next : Option (BitVec 24)
  sync : Bool
  edge : Option Bool
deriving DecidableEq, Repr

def encReset : EncSt := { a := false, b := false, edgeAt := none }
def pwmReset : PwmSt := { ctr := 0, duty := 0, next := none, sync := false, edge := none }

/-- The edge ports' own state (rules R118–R147): ring writers, frames open per receiver and virtual channel, SPI
transfers in progress and the bytes that transfers sent, UART messages in progress, templates sent by UART triggers with the moment at
which the last is out, CAN transmit buffers (word w of buffer b of controller c at 18(16c + b) + w: identifier word, DLC, sixteen data
words) and, per controller, the requested buffers that have stood first in arbitration, the OP of an MDIO frame under way, encoders,
sigma-delta bits still inside the sinc3 filters (newest last), PWM outputs, TOUT levels since their first edge, and the
frames that the management controller received and sent. -/
structure Edge where
  ring : Cells RingSt
  csi : Cells (Option CsiFrame)
  spi : Cells (Option SpiRun)
  spiSent : List (Fin 4 × List Byte)
  uart : Cells (Option UartMsg)
  uartSent : List (Fin 2 × List Byte)
  uartOut : Cells Nat
  canBuf : Cells Word
  canWon : Cells Word
  mdioOp : Cells Nat
  enc : Cells EncSt
  sdBits : Cells (List Bool)
  pwm : Cells PwmSt
  tout : Cells (Option Bool)
  eth : List EthMsg
deriving DecidableEq, Repr

/-- DESIGN CHOICE, assumption 51. -/
def edgeReset : Edge :=
  { ring := [], csi := [], spi := [], spiSent := [], uart := [], uartSent := [], uartOut := [], canBuf := [],
    canWon := [], mdioOp := [], enc := [], sdBits := [], pwm := [],
    tout := [], eth := [] }

/-- What waits for a loop channel's next sample boundary: a register write or command at an offset of its page, or a plan
(rules R298, R312). -/
inductive LoopEvt where
  | write (off : Nat) (v : Word)
  | plan (p : Plan)
deriving DecidableEq, Repr

/-- A running injection (rule R318): its sample number, the chirp's phase, and the PRBS register with its last bit. -/
structure Inj where
  n : Nat
  phase : Nat
  prbs : Nat
  high : Bool
deriving DecidableEq, Repr

/-- A sample in progress (rules R287, R296, R307): the measurement and TC6 as the trigger found them, whether the sample enters STOP,
and the phase index at its trigger. -/
structure Sample where
  y : Int
  t6 : Word
  stop : Bool
  j : Nat
deriving DecidableEq, Repr

/-- The trace buffer of a loop channel (rules R315, R316): its flags, the trigger record, the next record, the samples until the
next one is due, the records still to come after the trigger, and the words, word w of record i at 8i + w. -/
structure Trace where
  armed : Bool
  triggered : Bool
  done : Bool
  trigIdx : Nat
  stamp : Word
  next : Nat
  skip : Nat
  left : Nat
  recs : Cells Word
deriving DecidableEq, Repr

/-- A loop channel's own state, which its active replicas hold alike (rules R288, R294–R319): limiter, integrator, derivative,
phase and repetitive memory, the plan, what waits for the sample boundary, the state in force, whether it left OFF or a
detector hold since its last sample, STOP, detector hold, TRIPPED, whether a trip has switched to the fallback tables, PAST_END, LIM_ACTIVE,
LIM_PHASE, the detector's window, crossings, trips and last sign, injection, trace, the nodes last committed, the sample in
progress and the moment of the last accepted trigger. -/
structure LoopSt where
  r : Int
  v : Int
  i : Int
  yPrev : Int
  df : Int
  j : Nat
  mem : Cells Word
  plan : Option Plan
  waiting : List LoopEvt
  st : Nat
  fromOff : Bool
  fromHold : Bool
  stop : Bool
  held : Bool
  tripped : Bool
  fbOn : Bool
  pastEnd : Bool
  limActive : Bool
  limPhase : Nat
  win : Nat
  cross : Nat
  trips : Nat
  sign : Option Bool
  inj : Option Inj
  trace : Trace
  nodes : List Word
  busy : Option Sample
  trigAt : Option Nat
deriving DecidableEq, Repr

def traceReset : Trace :=
  { armed := false, triggered := false, done := false, trigIdx := 0, stamp := 0, next := 0, skip := 0, left := 0, recs := [] }

/-- DESIGN CHOICE, assumption 51. -/
def loopReset : LoopSt :=
  { r := 0, v := 0, i := 0, yPrev := 0, df := 0, j := 0, mem := [], plan := none, waiting := [], st := 0, fromOff := false,
    fromHold := false, stop := false, held := false, tripped := false, fbOn := false, pastEnd := false, limActive := false,
    limPhase := 0, win := 0, cross := 0, trips := 0, sign := none, inj := none, trace := traceReset, nodes := [], busy := none,
    trigAt := none }

/-- What waits for the end of a sleep entry or exit (rule R431): a device entry or an idle expiry. -/
inductive PowerReq where
  | sleep (target : Nat)
  | idle (d : Nat)
deriving DecidableEq, Repr

/-- A performance-level change in progress (rules R418, R419): the levels, what it waits for (1 the VOUT_COMMAND write, 2 the
settled supply, 3 the settled body bias) and whether the write has been retried. -/
structure LevelChange where
  old : Nat
  new : Nat
  wait : Nat
  retried : Bool
deriving DecidableEq, Repr

/-- The power coordinator and the level sequencer (rules R416–R439, R471–R474): the phase of an entry (0 none, 1 stop, 2 commit),
its target and, of an idle entry, its depth; the participants still to agree and those that agreed; the domains that the
device entry put to sleep; whether a device exit runs; what waits; the pending WAKE_REQ mask; the restore step of each waking
domain (at 64 + d whether it comes from OFF); the idle timers in ns; the save memory; the level change and the pending target; the levels whose voltage, body bias
and assist stand; THROTTLED's cause, the READ_VOUT check due, SMBALERT, a regulator refused at boot; the enables and power-good
inputs (SOC, LOOP, CORE); AON_RST_N low, and a supply sequence that stopped; the moment of the request under way; the domains that an
admission names during an entry; the domains powered at some moment of the management tick; and the levels that the pad latches hold. -/
structure Power where
  phase : Nat
  target : Nat
  depth : Nat
  ask : List Nat
  agreed : List Nat
  slept : List Nat
  exiting : Bool
  reqs : List PowerReq
  wakeMask : Nat
  steps : Cells Nat
  idleNs : Cells Nat
  save : Cells Word
  seq : Option LevelChange
  next : Option Nat
  vcore : Nat
  bias : Nat
  assist : Nat
  throttled : Bool
  checkVout : Bool
  smbalert : Bool
  noReg : Bool
  pen : BitVec 3
  pg : BitVec 3
  held : Bool
  stuck : Bool
  askNs : Nat
  admitWake : Nat
  fed : BitVec 36
  padHold : BitVec 36
deriving DecidableEq, Repr

/-- The coordinator while AON_RST_N is low: no supply is enabled, and the regulator powers up at the P3 voltage (rule R471). DEDUCED, assumption 4. DESIGN CHOICE, assumption 51. -/
def powerReset : Power :=
  { phase := 0, target := 0, depth := 0, ask := [], agreed := [], slept := [], exiting := false, reqs := [], wakeMask := 0,
    steps := [], idleNs := [], save := [], seq := none, next := none, vcore := 3, bias := 3, assist := 3, throttled := false,
    checkVout := false, smbalert := false, noReg := false, pen := 0, pg := 0, held := true, stuck := false,
    askNs := 0, admitWake := 0, fed := 1, padHold := 0 }

/-- The wave-rate monitors, the telemetry of the last whole management tick and the reference (rules R23, R30–R38, R455): each
monitor's last and lowest count, the active monitors, the lowest level of the window under way, clean windows in a row, the
telemetry words, REF_LOST, and the management ticks since the watchdog was kicked (rule R459). -/
structure Fabric where
  last : Cells Word
  min : Cells Word
  on : Word
  low : Nat
  clean : Cells Nat
  tel : List Word
  refLost : Bool
  wd : Nat
deriving DecidableEq, Repr

/-- DESIGN CHOICE, assumption 51. -/
def fabricReset : Fabric :=
  { last := [], min := [], on := 0, low := 3, clean := [], tel := [], refLost := false, wd := 0 }

/-- A bulk load (rule R389). -/
structure Load where
  addr : Nat
  len : Nat
  beyond : Nat
  bytes : List Byte
  live : Bool
deriving DecidableEq, Repr

/-- The SDIO functions (rules R371–R392): card state (initialised by CMD5, RCA, selected, inactive, 1.8 V signalling), the
writable bytes of function 0, the mailboxes, DOORBELL's low byte, the frame being processed, the register window, the bulk load
with its events and those that a response not yet acknowledged carries, the function of a CMD53 in progress, the negotiated major, and what
the card answered last: the response bytes of a command (none without a response), the data of a read and the CRC status of a write's
blocks. A load that RES ended is not live. -/
structure Sdio where
  ready : Bool
  rca : BitVec 16
  sel : Bool
  dead : Bool
  v18 : Bool
  f0 : Cells Byte
  tx : Mem
  rx : Mem
  rxLen : Nat
  busy : Bool
  resp : Bool
  bell : Byte
  frame : List Byte
  winB : Word
  winAddr : Word
  winD : Word
  latch : Word
  last : Byte
  err : Bool
  inc : Bool
  cnt : Word
  intEn : Byte
  load : Option Load
  bulkDone : Bool
  bulkErr : Bool
  bulkSeen : Byte
  openXfer : Option Nat
  ver : Option Nat
  rsp : Option (List Byte)
  rdata : List Byte
  blockCrc : List Bool
deriving DecidableEq, Repr

/-- DESIGN CHOICE, assumption 51. -/
def sdioReset : Sdio :=
  { ready := false, rca := 0, sel := false, dead := false, v18 := false, f0 := [], tx := [], rx := [], rxLen := 0, busy := false,
    resp := false, bell := 0, frame := [], winB := 0, winAddr := 0, winD := 0, latch := 0, last := 0, err := false, inc := false,
    cnt := 0, intEn := 0, load := none, bulkDone := false, bulkErr := false, bulkSeen := 0, openXfer := none, ver := none, rsp := none,
    rdata := [], blockCrc := [] }

/-- Boot and the debug TAP (rules R394–R398, R403, R413): BOOT and BOOT_CODE, the stream taken so far, whether self-test has
completed since the last reset or S3 exit, the firmware digest, the identity public key, the root public key of the accepted image,
the TAP's present instruction (0 BYPASS, 1 EXTEST, 2 CLAMP), and whether the watchdog resets domain 1 (rule R22). -/
structure Boot where
  step : Nat
  code : Nat
  stream : List Byte
  tested : Bool
  fwDigest : List Byte
  ident : List Byte
  rootPub : List Byte
  tap : Nat
  resetting : Bool
deriving DecidableEq, Repr

/-- DESIGN CHOICE, assumption 51. -/
def bootReset : Boot :=
  { step := 0, code := 0, stream := [], tested := false, fwDigest := [], ident := [], rootPub := [], tap := 0, resetting := false }

/-- The state of the block. The cisterns and lane memories share one byte map: unit u (a physical basin 0–17, or lane n as
18 + n) has its bytes from 2²⁴·u on; `sramBad` marks the 64-bit words, at 2²¹·u + offset ÷ 8, that hold a single-bit (1) or a
two-bit (2) error; `rowErr` counts a row's corrected errors, at 2¹⁸·u + offset ÷ 64; `rowLost` lists
the rows replaced under an uncorrectable error and not written whole since, and `rowPardon` such a row with the start of a state
block, at 2²⁰·u + offset, that an EST_INIT has written since (rule R234); `plans` holds, by the start of their work block, accepted plans
that have no place left in it (rule R276); `copying` lists the row copies in progress. -/
structure State where
  pending : List Instr
  regs : Cells Word
  perReq : Cells Word
  resp : Cells Response
  time : TimeBase
  stopLine : Bool
  f1Int : Byte
  evtMask : BitVec 16
  evtPend : BitVec 16
  dom : Cells Nat
  grade : Grade
  rmap : Cells Word
  sec : Security
  dram : Mem
  dramBad : Cells Nat
  foldDue : List Nat
  gates : Cells Gate
  head : Headgate
  sram : Mem
  sramBad : Cells Nat
  rowErr : Cells Nat
  rowLost : List Nat
  rowPardon : List (Nat × Nat)
  plans : Cells (List Nat)
  copying : List (Nat × Nat)
  edge : Edge
  loops : Cells LoopSt
  power : Power
  fabric : Fabric
  sdio : Sdio
  boot : Boot
  testing : Bool
  freeCtr : Nat
deriving DecidableEq, Repr

/-- The grade before a record is accepted: no unit reads as disabled (DESIGN CHOICE, assumption 3). -/
def gradeReset : Grade := { code := none, basins := 0x3FFFF, lanes := 0x1FF, loops := 0xFFFFFFFF, csi := 0x3F }

/-- DESIGN CHOICE, assumption 51. -/
def securityReset : Security :=
  { rootKey := [], did := 0, cmdKey := none, lastCtr := 0, lastStatus := 0, eph := none, gradeDigest := [], owners := [], nEvt := 0, tmInTick := 0 }

/-- The block right after wellhouse reset. DESIGN CHOICE, assumption 2. DEDUCED, assumption 4. DESIGN CHOICE, assumption 18. -/
def State.reset : State :=
  { pending := []
    regs := []
    perReq := []
    resp := []
    time := { tc := [], ns := 0, slots := [], ppsAt := none, firing := [], disarm := [] }
    stopLine := false
    f1Int := 0
    evtMask := 0
    evtPend := 0
    dom := []
    grade := gradeReset
    rmap := []
    sec := securityReset
    dram := []
    dramBad := []
    foldDue := []
    gates := []
    head := headgateReset
    sram := []
    sramBad := []
    rowErr := []
    rowLost := []
    rowPardon := []
    plans := []
    copying := []
    edge := edgeReset
    loops := []
    power := powerReset
    fabric := fabricReset
    sdio := sdioReset
    boot := bootReset
    testing := true
    freeCtr := 0 }

end Sys2Proof.Machine
end

