-- ==== Sys2Proof/Machine/Ops.lean ====
section
/-! DEFINITION. Machine/Ops.lean: the operations that every chapter shares: registers and their fields, stamps,
interrupt sources, error capture, the fault alarm path, the security alarm and the stop line. -/

namespace Sys2Proof.Machine

/-! Status codes (rule R58). -/

def cOK : Nat := 0x00
def cLATE : Nat := 0x01
def cBOUNDS : Nat := 0x02
def cOFF_DOMAIN : Nat := 0x03
def cNO_PAGE : Nat := 0x04
def cWIDTH : Nat := 0x05
def cARG : Nat := 0x06
def cAUTH_FAIL : Nat := 0x08
def cREPLAY : Nat := 0x09
def cVERSION : Nat := 0x0A
def cLOCKED : Nat := 0x0B
def cNO_KEY : Nat := 0x0C
def cABANDONED : Nat := 0x10
def cYIELD : Nat := 0x11
def cTIMEOUT : Nat := 0x12
def cADMIT_REFUSED : Nat := 0x18
def cDEADLINE_MISS : Nat := 0x20
def cDEADLINE_FALLBACK : Nat := 0x21
def cMISS : Nat := 0x22
def cLIMITING : Nat := 0x23
def cDEGRADED : Nat := 0x24
def cOSC_TRIP : Nat := 0x25
def cMAP_FULL : Nat := 0x28
def cTIMING_MARGIN : Nat := 0x30
def cREF_LOST : Nat := 0x31
def cSPARE_IN : Nat := 0x32
def cECC_FAIL : Nat := 0x33
def cSLEEP_REFUSED : Nat := 0x34
def cTEARDOWN : Nat := 0x35

/-! Registers. -/

/-- The stored value of the register at a byte address. -/
def State.reg (s : State) (a : Nat) : Word := Cells.get (regInit a) s.regs a

/-- The state with a register's stored value set. -/
def State.setReg (s : State) (a : Nat) (v : Word) : State :=
  { s with regs := Cells.put (regInit a) s.regs a v }

/-- The field of `n` bits from bit `lo` of a register. -/
def State.rf (s : State) (a lo n : Nat) : Nat := fld (s.reg a) lo n

/-- The state with a field of a register set. -/
def State.setRf (s : State) (a lo n v : Nat) : State := s.setReg a (setFld (s.reg a) lo n v)

/-- The state with a word counter raised by `n`, saturating at 0xFFFF_FFFF. -/
def State.bump (s : State) (a n : Nat) : State := s.setReg a (satInc (s.reg a) n)

/-- The state with a word counter raised by `n`, modulo 2³². -/
def State.bumpWrap (s : State) (a n : Nat) : State := s.setReg a (s.reg a + w32 n)

/-- The state with a counter field raised by one, saturating at its width. -/
def State.bumpFld (s : State) (a lo n : Nat) : State := s.setRf a lo n (satAdd (2 ^ n - 1) (s.rf a lo n) 1)

/-- The index of a requester in per-requester tables. -/
def reqIdx (r : Requester) : Nat :=
  match r with
  | .slot => 3
  | .mgmt => 0
  | .host => 1
  | .debug => 2

/-- A value held per requester (rule R103), named by its register's address. -/
def State.own (s : State) (r : Requester) (a : Nat) : Word := Cells.get 0 s.perReq (a * 4 + reqIdx r)

/-- The state with a requester's own value set. -/
def State.setOwn (s : State) (r : Requester) (a : Nat) (v : Word) : State :=
  { s with perReq := Cells.put 0 s.perReq (a * 4 + reqIdx r) v }

/-! Time. -/

/-- Time counter `n`. -/
def State.tc (s : State) (n : Nat) : Tc := Cells.get tcReset s.time.tc n

/-- The state with a time counter set. -/
def State.setTc (s : State) (n : Nat) (c : Tc) : State :=
  { s with time := { s.time with tc := Cells.put tcReset s.time.tc n c } }

/-- The total time of a counter in nanoseconds (rule R95). -/
def Tc.total (c : Tc) : Nat := c.sec.toNat * 1000000000 + c.ns.toNat

/-- The total time of counter `n`. -/
def State.now (s : State) (n : Nat) : Nat := (s.tc n).total

/-- The data stamp of this moment (rule R97). -/
def State.stamp (s : State) : Word := w32 (s.now 0)

/-! Interrupt sources (rules R49, R50). -/

/-- The state with bit `i` of a page's INT_RAW set. -/
def State.intRaise (s : State) (p : Page) (i : Nat) : State :=
  s.setReg (p.base + 0x14) (s.reg (p.base + 0x14) ||| w32 (2 ^ i))

/-- The state with a page's LAST_CODE set, where the code is not OK (rule R49). -/
def State.lastCode (s : State) (p : Page) (code : Nat) : State :=
  if code = 0 then s else s.setRf (p.base + 0x10) 24 8 code

/-- An error raised by a page (rule R51): the first is captured, later ones are counted. `ctx` is 0–63, or 0xFF. -/
def State.errCapture (s : State) (p : Page) (code source ctx addr : Nat) : State :=
  let a := p.base + 0x24
  if bit (s.reg a) 31 then s.bumpFld a 24 7
  else (s.setReg a (w32 (code + source * 256 + ctx * 65536 + 2 ^ 31))).setReg (a + 4) (w32 addr)

/-! The stop line (rule R307) and the fault alarm path (rules R451–R453). -/

/-- The stop line rises; function 1 reports the rise (rule R381). -/
def State.raiseStop (s : State) : State :=
  if s.stopLine then s else { s with stopLine := true, f1Int := s.f1Int ||| 4 }

/-- Whether the wellhouse drives FAULT_N low (rules R453, R471, R474): during reset and self-test, when its supply sequence has stopped, and while PEND holds a bit
at or above NLEVEL. -/
def State.faultLow (s : State) : Bool :=
  s.testing || s.power.stuck || (s.rf 0x5118 0 4 >>> s.rf 0x511C 0 3) != 0

/-- An event taken on the fault alarm path (rules R452, R453), from the page `p`. -/
def State.faultEvent (s : State) (p : Page) (cls code source ctx addr detail : Nat) : State :=
  let s := s.bump 0x5110 1
  let total := s.reg 0x5110
  let s := s.setReg 0x5118 (s.reg 0x5118 ||| w32 (2 ^ cls))
  let head := s.rf 0x510C 0 6
  let newest := 0x5800 + 32 * ((head + 63) % 64)
  let w0 := w32 (code + source * 256 + ctx * 65536 + cls * 16777216)
  let id := w32 p.blockId
  let tc := s.tc 0
  let hi := tc.sec.toNat / 2 ^ 32
  let merges := s.reg (newest + 28) ≠ 0 ∧ s.rf newest 0 16 = fld w0 0 16 ∧ s.reg (newest + 4) = id ∧
    s.reg (newest + 12) = w32 detail
  if merges then
    let s := s.setReg (newest + 16) s.stamp
    let s := s.setReg (newest + 20) (w32 tc.sec.toNat)
    let rep := satAdd 0xFFFF (s.rf (newest + 24) 16 16) 1
    let s := s.setReg (newest + 24) (w32 (hi + rep * 65536))
    s.setReg (newest + 28) total
  else
    let a := 0x5800 + 32 * head
    let s := if s.reg (a + 28) ≠ 0 then (s.bump 0x5114 1).intRaise .fault 1 else s
    let s := s.setReg a w0
    let s := s.setReg (a + 4) id
    let s := s.setReg (a + 8) (w32 addr)
    let s := s.setReg (a + 12) (w32 detail)
    let s := s.setReg (a + 16) s.stamp
    let s := s.setReg (a + 20) (w32 tc.sec.toNat)
    let s := s.setReg (a + 24) (w32 hi)
    let s := s.setReg (a + 28) total
    let s := s.setReg 0x510C (w32 ((head + 1) % 64))
    s.intRaise .fault 0

/-! The security alarm (rules R405, R406, R411). -/

/-- The command key, LAST_CTR and the ephemeral key are erased (rules R398, R406). DEDUCED, assumption 25. -/
def State.eraseKeys (s : State) : State :=
  let s := { s with sec := { s.sec with cmdKey := none, lastCtr := 0, eph := none } }
  s.setRf 0x411C 1 1 0

/-- A trip of alarm source `i` (rules R405, R406): count, event, LOCKDOWN, DRAIN and stop line by SEV and STOP. DEDUCED, assumption 26. -/
def State.alarmTrip (s : State) (i : Nat) : State :=
  let cfg := s.reg (0x4100 + 4 * i)
  let sev := fld cfg 0 2
  let stop := bit cfg 2
  let s := s.bump (0x4120 + 4 * i) 1
  let head := s.rf 0x4140 0 4
  let a := 0x4200 + 16 * head
  let tc := s.tc 0
  let s := s.setReg a (w32 (i + sev * 16 + stop.toNat * 64))
  let s := s.setReg (a + 4) s.stamp
  let s := s.setReg (a + 8) (w32 tc.sec.toNat)
  let s := s.setReg (a + 12) (w32 (tc.sec.toNat / 2 ^ 32))
  let s := s.setReg 0x4140 (w32 ((head + 1) % 16))
  let s := { s with sec := { s.sec with nEvt := Nat.min 16 (s.sec.nEvt + 1) } }
  let s := s.intRaise .alarm 0
  let s := if 1 ≤ sev then s.setRf 0x411C 0 1 1 else s
  let s := if sev = 2 then (s.eraseKeys.setRf 0x411C 2 1 1).intRaise .alarm 2 else s
  if stop ∨ sev = 2 then s.raiseStop else s

/-- Whether LOCKDOWN holds (rule R406). -/
def State.lockdown (s : State) : Bool := bit (s.reg 0x411C) 0

/-! Units: the repair map, domains and PWR (rules R48, R49, R415, R448, R483). -/

/-- A word of the repair map (rule R448). -/
def State.rm (s : State) (i : Nat) : Word := Cells.get 0 s.rmap i

/-- The state with a word of the repair map set. -/
def State.setRm (s : State) (i : Nat) (v : Word) : State := { s with rmap := Cells.put 0 s.rmap i v }

/-- The state of a power domain: 0 OFF, 1 WAKING, 2 ON, 3 QUIESCENT, 4 ENTERING; the wellhouse is ON at reset. -/
def State.domain (s : State) (d : Nat) : Nat := Cells.get (if d = 0 then 2 else 0) s.dom d

/-- The domain of wave-rate monitor `i` (rule R30). -/
def monDomain (i : Nat) : Nat := if i < 27 then 3 + i else if i < 29 then 2 else 30

/-- The monitors of domain `d`. -/
def monsOf (d : Nat) : Word := wordOf fun i => monDomain i == d

/-- The state with a domain's state set. A monitor whose domain leaves ON and ENTERING stops, and compares again only after a whole
window (rules R30, R34); a domain that is powered at some moment of a management tick draws energy in it (rule R440). -/
def State.setDomain (s : State) (d v : Nat) : State :=
  { s with
    dom := Cells.put (if d = 0 then 2 else 0) s.dom d v
    fabric := { s.fabric with on := if v = 2 ∨ v = 4 then s.fabric.on else s.fabric.on &&& ~~~ monsOf d }
    power := { s.power with fed := if v = 0 then s.power.fed else s.power.fed ||| BitVec.ofNat 36 (2 ^ d) } }

/-- Domain `d` begins its exit (rule R435): out of OFF with the regulator step, out of QUIESCENT with its handshakes alone. -/
def State.wakeDomain (s : State) (d : Nat) : State :=
  let step := if s.domain d = 3 then 4 else 1
  let s := { s.setDomain d 1 with power := { s.power with
    steps := Cells.put 0 (Cells.put 0 s.power.steps d step) (64 + d) (if step = 1 then 1 else 0) } }
  s.setRf 0x3104 3 1 1

/-- The repair-map word of a physical basin. -/
def basinWord (n : Nat) : Nat := 4 + n

/-- The repair-map word of a physical lane. -/
def laneWord (n : Nat) : Nat := 22 + n

/-- Whether the grade record leaves a page's unit disabled (rules R3, R4). -/
def State.gradeDis (s : State) (p : Page) : Bool :=
  match p with
  | .basin n => !s.grade.basins.getLsbD n
  | .lane n => !s.grade.lanes.getLsbD n
  | .loop n => !s.grade.loops.getLsbD n
  | .csi n => !s.grade.csi.getLsbD n
  | _ => false

/-- Whether a page's unit is a spare held in reserve: STATE RESERVE in the repair map (rule R448). -/
def State.isReserve (s : State) (p : Page) : Bool :=
  match p with
  | .basin n => fld (s.rm (basinWord n)) 0 2 == 2
  | .lane n => fld (s.rm (laneWord n)) 0 2 == 2
  | _ => false

/-- Whether a page's unit is a failed or retired basin or lane: STATE FAILED in the repair map (rules R448, R483). -/
def State.isFailed (s : State) (p : Page) : Bool :=
  match p with
  | .basin n => fld (s.rm (basinWord n)) 0 2 == 3
  | .lane n => fld (s.rm (laneWord n)) 0 2 == 3
  | _ => false

/-- PWR.STATE of a page (rules R4, R49, R483). -/
def State.pwrState (s : State) (p : Page) : Nat :=
  if p.domain = 0 then 2
  else if s.gradeDis p then 0
  else s.domain p.domain

/-- PWR of a page (rule R49). -/
def State.pwrWord (s : State) (p : Page) : Word :=
  w32 (s.pwrState p + (s.gradeDis p).toNat * 8 + (s.isReserve p).toNat * 16 + p.domain * 256)

/-! What follows a command: conditions and the event summary (rules R50, R381). -/

/-- The condition sources that hold, as (page, bit) pairs: HOLDOVER (rule R109), LOCKDOWN (rule R411), FAULT_N (rule
R462), BELOW and WARN (rule R35), PASSIVE (rule R138), HOT (rule R217's page). DESIGN CHOICE, assumption 50. -/
def State.conditions (s : State) : List (Page × Nat) :=
  (if bit (s.reg 0x12E4) 1 then [(Page.time, 1)] else []) ++
  (if s.lockdown then [(Page.alarm, 1)] else []) ++
  (if s.faultLow then [(Page.fault, 2)] else []) ++
  (if s.reg 0x7111C ≠ 0 then [(Page.rate, 0)] else []) ++
  (if s.reg 0x71120 ≠ 0 then [(Page.rate, 1)] else []) ++
  (if (List.range 4).any (fun c => s.rf (0x59510 + 0x20 * c) 0 2 == 1) then [(Page.can, 1)] else []) ++
  ((List.range 4).filter (fun m => let w := s.reg (0x60120 + 0x1000 * m); fld w 0 2 == 2 || fld w 2 2 == 2)).map
    (fun m => (Page.mc m, 4))

/-- Whether the interrupt output of the page at an address leaves its domain: the outputs of a domain that is OFF or WAKING are
clamped to 0 (rule R433). -/
def State.outputs (s : State) (a : Nat) : Bool := (pageAt a).any fun p => 1 < s.domain p.domain

/-- EVT_PEND (rule R381): bit r while a page of region r has a non-zero INT_STAT and EVT_MASK bit r is 1. A page whose
INT_EN is not listed holds its reset value 0 and has no INT_STAT bit. DESIGN CHOICE, assumption 50. -/
def State.evtBits (s : State) : BitVec 16 :=
  BitVec.ofNat 16 ((List.range 9).foldl (fun acc r =>
    if s.evtMask.getLsbD r && s.regs.any (fun c =>
        c.1 % 4096 == 0x18 && regionOf c.1 == r && c.2 &&& s.reg (c.1 - 4) != 0 && s.outputs c.1)
    then acc + 2 ^ r else acc) 0)

/-- The end of every command: each condition that holds has its INT_RAW bit set (rule R50), and a region bit of EVT_PEND
that rises sets F1_INT.EVENT (rule R381). DESIGN CHOICE, assumption 50. -/
def State.settle (s : State) : State :=
  let s := s.conditions.foldl (fun s c => s.intRaise c.1 c.2) s
  let p := s.evtBits
  { s with evtPend := p, f1Int := if p &&& ~~~ s.evtPend = 0 then s.f1Int else s.f1Int ||| 2 }

end Sys2Proof.Machine
end

