-- ==== Sys2Proof/Machine/Memory.lean ====
section
/-! DEFINITION. Machine/Memory.lean: LPDDR6 memory with inline ECC, channel retirement, and sluice-gate signals (rules
R205–R215, R342). -/

namespace Sys2Proof.Machine

/-- MC_CFG of controller `m` (rule R217). -/
def mcCfg (m : Nat) : Nat := 0x60100 + 0x1000 * m

/-- Whether physical channel `k` (channel k mod 2 of controller k ÷ 2) is retired (rule R217). -/
def State.chanRetired (s : State) (k : Nat) : Bool := bit (s.reg (mcCfg (k / 2))) (8 + k % 2)

/-- The channels in service, in ascending physical order (rule R205). -/
def State.chans (s : State) : List Nat := (List.range 8).filter fun k => !s.chanRetired k

/-- MEM_TOP in bytes (rules R206, R217). -/
def State.memTop (s : State) : Nat := s.rf 0x60104 0 28 * 256

/-- The usable size for the density and the channels in service (rule R206). -/
def State.memTopOf (s : State) : Nat := s.chans.length * 2 ^ (30 + s.rf 0x60100 4 4) * 15 / 16

/-- MEM_TOP on every controller page follows the channels in service (rules R215, R217). -/
def State.loadMemTop (s : State) : State :=
  let v := w32 (s.memTopOf / 256)
  (List.range 4).foldl (fun s m => s.setReg (mcCfg m + 4) v) s

/-- The physical channel that holds a line (rule R205). -/
def State.lineChan (s : State) (line : Nat) : Nat :=
  let c := s.chans
  c.getD (line / 4 % c.length) 0

/-- Bytes in error in a line: 1 is correctable, 2 or more is not (rules R207, R208). -/
def State.lineBad (s : State) (line : Nat) : Nat := Cells.get 0 s.dramBad line

def State.setLineBad (s : State) (line n : Nat) : State :=
  { s with dramBad := Cells.put 0 s.dramBad line n }

/-- A read of one line by the context `ctx`, or by the scrub or a ring where there is none; `src` is the ERR_CAPT
SOURCE of an uncorrectable error. Answers whether it fails (rules R207, R209, R214, R451). -/
def State.readLine (s : State) (line : Nat) (ctx : Option Nat) (scrub : Bool) : Bool × State :=
  let n := s.lineBad line
  if n = 0 then (false, s)
  else
    let k := s.lineChan line
    let p := Page.mc (k / 2)
    let src := if scrub then 2 else k % 2
    if n = 1 then
      (false, ((s.setLineBad line 0).bump (mcCfg (k / 2) + 8 + 4 * (k % 2)) 1).intRaise p 0)
    else
      let a := mcCfg (k / 2) + 0x10 + 4 * (k % 2)
      let s := (s.bump a 1).intRaise p 1
      let s := s.errCapture p cECC_FAIL src (ctx.getD 0xFF) line
      let s := match ctx with
        | some c => s.faultEvent p 2 cECC_FAIL src c line 0
        | none => if scrub then s.faultEvent p 0 cECC_FAIL src 0xFF line 0 else s
      let lim := s.rf (mcCfg (k / 2) + 0x18) 0 8
      let s := if lim ≠ 0 ∧ lim ≤ (s.reg a).toNat ∧ k ∉ s.foldDue
        then { s with foldDue := s.foldDue ++ [k] } else s
      (true, s)

/-- The lines that `n` bytes from address `a` touch. -/
def linesOf (a n : Nat) : List Nat :=
  if n = 0 then [] else (List.range ((a + n - 1) / 64 - a / 64 + 1)).map fun i => a / 64 + i

/-- `n` bytes of LPDDR6 from address `a`, or none where a line of theirs is uncorrectable (rule R207). -/
def State.dramRead (s : State) (ctx : Option Nat) (a n : Nat) : Option (List Byte) × State :=
  let r := (linesOf a n).foldl (fun (r : Bool × State) line =>
    let q := r.2.readLine line ctx false
    (r.1 || q.1, q.2)) (false, s)
  (if r.1 then none else some (s.dram.bytes a n), r.2)

/-- Bytes stored in LPDDR6 from address `a` on (rule R208): a line written whole is clean; a line written in part is
read first, and poisoned where that read fails. Answers whether one failed. -/
def State.dramWrite (s : State) (ctx : Option Nat) (a : Nat) (bs : List Byte) : Bool × State :=
  let n := bs.length
  let r := (linesOf a n).foldl (fun (r : Bool × State) line =>
    if a ≤ 64 * line ∧ 64 * line + 64 ≤ a + n then (r.1, r.2.setLineBad line 0)
    else
      let q := r.2.readLine line ctx false
      (r.1 || q.1, if q.1 then q.2.setLineBad line 64 else q.2)) (false, s)
  (r.1, { r.2 with dram := r.2.dram.store a bs })

/-- LPDDR6 contents are lost (rules R213, R215). -/
def State.dramLost (s : State) : State := { s with dram := [], dramBad := [] }

/-- Whether `n` bytes from address `a` overlap the map region while the map is enabled (rule R218). -/
def State.inMap (s : State) (a n : Nat) : Bool :=
  let base := s.rf 0x64104 0 4 * 2 ^ 32 + (s.reg 0x64100).toNat
  bit (s.reg 0x64108) 0 && base < a + n && a < base + 2 ^ 27

/-- Whether a memory controller's domain is off or waking. -/
def State.mcOff (s : State) : Bool := [32, 33, 34, 35].any fun d => s.domain d < 2

/-- Whether an LPDDR6 access reaches its bytes: OFF_DOMAIN with no channel in service (rule R215) or with the controllers off,
BOUNDS at or above MEM_TOP (rule R206). -/
def State.dramCode (s : State) (a n : Nat) : Nat :=
  if s.chans = [] ∨ s.mcOff then cOFF_DOMAIN else if s.memTop < a + n then cBOUNDS else cOK

/-- The reach of an LPDDR6 access of anything but the grid map unit, to which the map region belongs while the map is enabled:
BOUNDS inside it (rule R218). DESIGN CHOICE, assumption 53. -/
def State.dramReach (s : State) (a n : Nat) : Nat :=
  if s.dramCode a n ≠ cOK then s.dramCode a n else if s.inMap a n then cBOUNDS else cOK

/-- A read of bytes whose reach has the code `c`. -/
def State.dramGetBy (s : State) (c : Nat) (ctx : Option Nat) (a n : Nat) : Nat × List Byte × State :=
  if c ≠ cOK then (c, [], s)
  else
    match s.dramRead ctx a n with
    | (some bs, s) => (cOK, bs, s)
    | (none, s) => (cECC_FAIL, [], s)

/-- A write of bytes whose reach has the code `c`. -/
def State.dramSetBy (s : State) (c : Nat) (ctx : Option Nat) (a : Nat) (bs : List Byte) : Nat × State :=
  if c ≠ cOK then (c, s)
  else
    let r := s.dramWrite ctx a bs
    (if r.1 then cECC_FAIL else cOK, r.2)

/-- A read of LPDDR6 with its status code (rules R206, R207, R215, R218). -/
def State.dramGet (s : State) (ctx : Option Nat) (a n : Nat) : Nat × List Byte × State := s.dramGetBy (s.dramReach a n) ctx a n

/-- A write of LPDDR6 with its status code (rules R206, R208, R215, R218). -/
def State.dramSet (s : State) (ctx : Option Nat) (a : Nat) (bs : List Byte) : Nat × State :=
  s.dramSetBy (s.dramReach a bs.length) ctx a bs

/-- A read of the grid map unit. -/
def State.mapGet (s : State) (ctx : Option Nat) (a n : Nat) : Nat × List Byte × State := s.dramGetBy (s.dramCode a n) ctx a n

/-- A write of the grid map unit. -/
def State.mapSet (s : State) (ctx : Option Nat) (a : Nat) (bs : List Byte) : Nat × State :=
  s.dramSetBy (s.dramCode a bs.length) ctx a bs

/-! Contexts and gates (rules R321, R342–R346). -/

def State.ctx (s : State) (c : Nat) : Ctx := Cells.get ctxReset s.head.ctxs c

def State.setCtx (s : State) (c : Nat) (x : Ctx) : State :=
  { s with head := { s.head with ctxs := Cells.put ctxReset s.head.ctxs c x } }

def State.gate (s : State) (g : Nat) : Gate := Cells.get gateReset s.gates g

def State.setGate (s : State) (g : Nat) (x : Gate) : State :=
  { s with gates := Cells.put gateReset s.gates g x }

/-- The context whose range owns gate `g`. -/
def State.gateCtx (s : State) (g : Nat) : Option Nat :=
  (s.head.ctxs.find? fun p => p.2.state ≠ .free ∧ p.2.gateBase ≤ g ∧ g < p.2.gateBase + p.2.gateCnt).map (·.1)

/-- OWNER of gate `g` (rules R342, R346): a context, 0x7F for a system gate, 0x7E for a free gate. -/
def State.gateOwner (s : State) (g : Nat) : Nat :=
  if g < 1024 then (if (s.gate g).sys then 0x7F else 0x7E) else (s.gateCtx g).getD 0x7E

/-- ABANDON of gate `g` (rule R344). -/
def State.gateAbandoned (s : State) (g : Nat) : Bool :=
  if g < 1024 then false
  else
    match s.gateCtx g with
    | none => false
    | some c => (s.gate g).abandon || (s.ctx c).abandonAll

/-- signal(+n) on a gate (rule R342); a free gate takes none (rule R346). -/
def State.signal (s : State) (g n : Nat) : State :=
  if s.gateOwner g = 0x7E then s
  else
    let x := s.gate g
    if 0xFFFFFFFF < x.count.toNat + n then
      (s.setGate g { x with count := 0xFFFFFFFF, sat := true }).intRaise .headgate 9
    else s.setGate g { x with count := w32 (x.count.toNat + n) }

end Sys2Proof.Machine
end

