-- ==== Sys2Proof/Machine/Rings.lean ====
section
/-! DEFINITION. Machine/Rings.lean: the ingest rings and the ring writer (rules R118–R129, R146, R147). -/

namespace Sys2Proof.Machine

/-- The register group of ring `i` (rule R146). -/
def ringGroup (i : Nat) : Nat := 0x5B100 + 0x40 * i

def State.ringSt (s : State) (i : Nat) : RingSt := Cells.get ringReset s.edge.ring i

def State.setRing (s : State) (i : Nat) (r : RingSt) : State :=
  { s with edge := { s.edge with ring := Cells.put ringReset s.edge.ring i r } }

/-- The base address of ring `i`. -/
def State.ringBase (s : State) (i : Nat) : Nat :=
  s.rf (ringGroup i + 4) 0 4 * 2 ^ 32 + (s.reg (ringGroup i)).toNat

/-- SLOTS and the slot size in bytes (rule R119). -/
def State.ringSlots (s : State) (i : Nat) : Nat := (s.reg (ringGroup i + 8)).toNat

def State.ringSlotBytes (s : State) (i : Nat) : Nat := (s.reg (ringGroup i + 0xC)).toNat * 64

/-- Whether the grade disables ring `i`: it is a camera's, on a receiver that the grade disables (rule R118). -/
def State.ringDis (s : State) (i : Nat) : Bool := i < 24 && s.gradeDis (.csi (i / 4))

/-- Whether ring `i` takes units: it is enabled, or a unit was in progress when EN was cleared (rules R118, R123). -/
def State.ringTakes (s : State) (i : Nat) : Bool :=
  let c := s.reg (ringGroup i + 0x10)
  (bit c 0 || bit c 3) && !s.ringDis i

/-- Whether ring `i` starts new units. -/
def State.ringOn (s : State) (i : Nat) : Bool := bit (s.reg (ringGroup i + 0x10)) 0 && !s.ringDis i

/-- A unit of stream `i` begins: retries before now lie since the previous unit (rule R124). -/
def State.unitBegin (s : State) (i : Nat) : State :=
  let r := s.ringSt i
  s.setRing i { r with retryPrev := r.retryCur, retryCur := false }

/-- A link retry of stream `i` (rules R124, R129). -/
def State.streamRetry (s : State) (i : Nat) : State := s.setRing i { s.ringSt i with retryCur := true }

/-- A completed unit, as a stream hands it to the ring writer (rule R124): kind, stamps, payload, flags besides
TRUNC, RETRY, GAP and ECC_ERR, ERRS and the kind's words 8–10. -/
structure RingUnit where
  kind : Nat
  start : Word
  stop : Word
  payload : List Byte
  flags : Nat
  errs : Word
  w8 : Word
  w9 : Word
  w10 : Word
deriving DecidableEq, Repr

/-- The end of a unit for a ring whose EN was cleared while it was in progress: BUSY falls (rule R123). -/
def State.ringUnbusy (s : State) (i : Nat) : State := s.setRf (ringGroup i + 0x10) 3 1 0

/-- A unit is lost: it counts in DROPS, and the next record carries the count and GAP (rule R121). -/
def State.ringDrop (s : State) (i : Nat) : State :=
  let g := ringGroup i
  let s := (s.bumpWrap (g + 0x20) 1).bump (g + 0x24) 1
  let r := s.ringSt i
  (s.setRing i { r with drops := satInc r.drops 1, gap := true }).intRaise .ingest 0

/-- The ring writer writes one record (rules R119, R122, R124, R147). ERR_ADDR of an ECC_FAIL is the number of the payload's first line.
DESIGN CHOICE, assumption 59. -/
def State.ringWrite (s : State) (i : Nat) (u : RingUnit) : State :=
  let g := ringGroup i
  let r := s.ringSt i
  let seq := s.reg (g + 0x20)
  let room := s.ringSlotBytes i - 64
  let payload := u.payload.take room
  let trunc := decide (room < u.payload.length)
  let wc := (s.reg (g + 0x18)).toNat
  let a := s.ringBase i + wc % s.ringSlots i * s.ringSlotBytes i
  let w := s.dramWrite none (a + 64) payload
  let s := w.2
  let s := if w.1 then s.errCapture .ingest cECC_FAIL i 0xFF ((a + 64) / 64) else s
  let flags := u.flags + trunc.toNat + (r.retryPrev || r.retryCur).toNat * 0x10 + (r.gap).toNat * 0x20 + w.1.toNat * 0x80
  let hdr := [w32 (i + u.kind * 256 + flags * 65536), seq, u.start, u.stop, w32 payload.length,
    w32 u.payload.length, r.drops, u.errs, u.w8, u.w9, u.w10, 0, 0, 0, 0, 0]
  let s := (s.dramWrite none a (hdr.flatMap fun w => leBytes 4 w.toNat)).2
  let s := s.setRing i { r with drops := 0, gap := false }
  let s := (s.bumpWrap (g + 0x18) 1).bumpWrap (g + 0x20) 1
  let s := s.setReg (g + 0x2C) u.start
  let s := if trunc then s.intRaise .ingest 2 else s
  -- CRC_ERR, FE_MISSING, LINK_LOST, PARITY or ECC_ERR raise ERR (rule R146)
  let s := if u.flags &&& 0x4E ≠ 0 ∨ w.1 then s.intRaise .ingest 3 else s
  if bit (s.reg (g + 0x10)) 2 then s.signal (s.rf (g + 0x14) 0 17) 1 else s

/-- Whether the slot that ring `i` writes next lies in the enabled map region, which only the grid map unit reaches (rule R218).
DESIGN CHOICE, assumption 53. -/
def State.ringBarred (s : State) (i : Nat) : Bool :=
  s.inMap (s.ringBase i + (s.reg (ringGroup i + 0x18)).toNat % s.ringSlots i * s.ringSlotBytes i) (s.ringSlotBytes i)

/-- A unit of stream `i` completes (rules R120, R121, R123); one whose slot the map region bars is lost. DESIGN CHOICE, assumption 53. -/
def State.ringUnit (s : State) (i : Nat) (u : RingUnit) : State :=
  if !s.ringTakes i then s
  else
    let g := ringGroup i
    let full := ((s.reg (g + 0x18) - s.reg (g + 0x1C)).toNat == s.ringSlots i)
    let s :=
      if s.ringBarred i then s.ringDrop i
      else if full then
        if bit (s.reg (g + 0x10)) 1 then
          (((s.bumpWrap (g + 0x1C) 1).bump (g + 0x28) 1).intRaise .ingest 1).ringWrite i u
        else s.ringDrop i
      else s.ringWrite i u
    s.ringUnbusy i

/-- Whether stream `i` has a unit in progress. -/
def State.unitOpen (s : State) (i : Nat) : Bool :=
  if i < 24 then (Cells.get none s.edge.csi i).isSome
  else if 40 ≤ i ∧ i < 44 then (Cells.get none s.edge.spi (i - 40)).isSome
  else if i = 44 ∨ i = 45 then (Cells.get none s.edge.uart (i - 44)).isSome
  else false

/-- A write of a ring's CTRL (rules R118, R123, R147); a ring that the grade disables is not enabled. DEDUCED, assumption 8. -/
def State.writeRingCtrl (s : State) (i : Nat) (v : Word) : Nat × State :=
  let g := ringGroup i
  let old := s.reg (g + 0x10)
  if bit v 0 && !bit old 0 then
    if s.ringDis i ∨ s.memTop < s.ringBase i + s.ringSlots i * s.ringSlotBytes i then (cARG, s)
    else
      let s := (((s.setReg (g + 0x18) 0).setReg (g + 0x1C) 0).setReg (g + 0x20) 0).setReg (g + 0x24) 0
      let s := s.setRing i { s.ringSt i with drops := 0, gap := false }
      (cOK, s.setReg (g + 0x10) ((v &&& 7) ||| (old &&& 8)))
  else
    let busy := (bit old 0 && !bit v 0 && s.unitOpen i) || bit old 3
    (cOK, s.setReg (g + 0x10) ((v &&& 7) ||| (if busy then 8 else 0)))

/-- A write of RCOUNT (rule R120): not behind RCOUNT and not ahead of WCOUNT, modulo 2³². -/
def State.writeRcount (s : State) (i : Nat) (v : Word) : Nat × State :=
  let g := ringGroup i
  let rc := s.reg (g + 0x1C)
  let wc := s.reg (g + 0x18)
  if (wc - rc).toNat < (v - rc).toNat then (cARG, s) else (cOK, s.setReg (g + 0x1C) v)

/-- A write of a ring's BASE, SLOTS or SIZE (rules R123, R146). -/
def State.writeRingShape (s : State) (i off : Nat) (v : Word) : Nat × State :=
  let g := ringGroup i
  if s.rf (g + 0x10) 0 1 = 1 ∨ s.rf (g + 0x10) 3 1 = 1 then (cARG, s)
  else
    let n := v.toNat
    match off with
    | 0x0 => (cOK, s.setReg g (v &&& 0xFFFFF000))
    | 0x4 => (cOK, s.setReg (g + 4) (v &&& 0xF))
    | 0x8 =>
      let n := n % 2 ^ 17
      if n < 2 ∨ 65536 < n then (cARG, s) else (cOK, s.setReg (g + 8) (w32 n))
    | _ =>
      let n := n % 2 ^ 22
      if n < 2 then (cARG, s) else (cOK, s.setReg (g + 0xC) (w32 n))

end Sys2Proof.Machine
end

