-- ==== Sys2Proof/Machine/EdgePorts.lean ====
section
/-! DEFINITION. Machine/EdgePorts.lean: cameras, Ethernet, SPI, UART and CAN (rules R107, R125–R138). -/

namespace Sys2Proof.Machine

/-! Cameras (rules R130, R131). -/

def csiBase (r : Nat) : Nat := 0x50000 + 0x1000 * r

def State.csiFrame (s : State) (r vc : Nat) : Option CsiFrame := Cells.get none s.edge.csi (4 * r + vc)

def State.setCsi (s : State) (r vc : Nat) (f : Option CsiFrame) : State :=
  { s with edge := { s.edge with csi := Cells.put none s.edge.csi (4 * r + vc) f } }

/-- Whether receiver `r` receives: enabled by its register and by the grade (rules R118, R131). -/
def State.csiOn (s : State) (r : Nat) : Bool := bit (s.reg (csiBase r + 0x100)) 0 && !s.gradeDis (.csi r)

/-- Whether receiver `r` routes virtual channel `vc` to an enabled ring (rules R130, R131). -/
def State.csiRouted (s : State) (r vc : Nat) : Bool :=
  s.csiOn r && bit (s.reg (csiBase r + 0x100)) (16 + vc) && s.ringTakes (4 * r + vc)

/-- The index in CSI_DT of a data type, if it is one of the types supported (rules R130, R131; the codes are those of
MIPI CSI-2). PRESUMED, assumption 43. -/
def csiType (dt : Nat) : Option Nat :=
  [0x2A, 0x2B, 0x2C, 0x2D, 0x2E, 0x1E, 0x24, 0x12].findIdx? (· == dt)

/-- Sixteen-bit little-endian words. -/
def pix16 (ps : List Nat) : List Byte := ps.flatMap (leBytes 2)

/-- RAW10 pixels right-aligned in 16-bit words: five bytes hold four pixels, the low bits last (MIPI CSI-2 packing). PRESUMED, assumption 43. -/
def unpack10 (n : Nat) (bs : List Byte) : List Byte :=
  match n, bs with
  | k + 1, a :: b :: c :: d :: e :: r =>
    let l := e.toNat
    pix16 [a.toNat * 4 + l % 4, b.toNat * 4 + l / 4 % 4, c.toNat * 4 + l / 16 % 4, d.toNat * 4 + l / 64] ++
      unpack10 k r
  | _, _ => []

/-- RAW12: three bytes hold two pixels. PRESUMED, assumption 43. -/
def unpack12 (n : Nat) (bs : List Byte) : List Byte :=
  match n, bs with
  | k + 1, a :: b :: c :: r =>
    pix16 [a.toNat * 16 + c.toNat % 16, b.toNat * 16 + c.toNat / 16] ++ unpack12 k r
  | _, _ => []

/-- RAW14: seven bytes hold four pixels. PRESUMED, assumption 43. -/
def unpack14 (n : Nat) (bs : List Byte) : List Byte :=
  match n, bs with
  | k + 1, a :: b :: c :: d :: e :: f :: g :: r =>
    let l := e.toNat + 256 * f.toNat + 65536 * g.toNat
    pix16 [a.toNat * 64 + l % 64, b.toNat * 64 + l / 64 % 64, c.toNat * 64 + l / 4096 % 64, d.toNat * 64 + l / 262144] ++
      unpack14 k r
  | _, _ => []

/-- The bytes of a line as they are written (rule R131, UNPACK). PRESUMED, assumption 43. -/
def csiLine (unpack : Bool) (dt : Nat) (data : List Byte) : List Byte :=
  if !unpack then data
  else if dt = 0x2B then unpack10 data.length data
  else if dt = 0x2C then unpack12 data.length data
  else if dt = 0x2D then unpack14 data.length data
  else data

/-- The open frame closes and its record is written (rules R125, R126, R130); `flags` adds FE_MISSING or LINK_LOST. -/
def State.csiClose (s : State) (r vc flags : Nat) : State :=
  match s.csiFrame r vc with
  | none => s
  | some f =>
    let s := s.setCsi r vc none
    s.ringUnit (4 * r + vc)
      { kind := 0, start := f.start, stop := s.stamp, payload := f.bytes,
        flags := flags + f.crcErr.toNat * 2, errs := f.errs,
        w8 := w32 (f.longest % 65536 + f.lines % 65536 * 65536),
        w9 := w32 ((f.dt.getD 0x12).toNat + vc * 64 + r * 256 + f.num.toNat * 65536), w10 := 0 }

/-- FRAME_START (rule R130). DEDUCED, assumption 8. -/
def State.csiStart (s : State) (r vc : Nat) (num : BitVec 16) : State :=
  let s := s.csiClose r vc 4
  if s.csiOn r && bit (s.reg (csiBase r + 0x100)) (16 + vc) && s.ringOn (4 * r + vc) then
    (s.unitBegin (4 * r + vc)).setCsi r vc
      (some { start := s.stamp, num := num, lines := 0, longest := 0, dt := none, errs := 0, crcErr := false, bytes := [] })
  else s

/-- A discarded packet counts in UNROUTED (rules R130, R131). -/
def State.csiUnrouted (s : State) (r : Nat) : State := s.bumpFld (csiBase r + 0x104) 16 16

/-- LONG_PACKET (rules R130, R131). A routed line with no frame open on its channel belongs to no unit and is left out
(DEDUCED, assumption 8). DATA_TYPE is that of the first line that is not embedded data, and 0x12 without one, and with UNPACK the lengths
count the unpacked bytes (DESIGN CHOICE, assumption 58). -/
def State.csiLong (s : State) (r : Nat) (h : HdrEcc) (vc : Nat) (dt : BitVec 6) (data : List Byte) (crcOk : Bool) : State :=
  if !s.csiOn r then s
  else
    match h with
    | .bad =>
      match s.csiFrame r vc with
      | some f => s.setCsi r vc (some { f with errs := satInc f.errs 1 })
      | none => s
    | _ =>
      match csiType dt.toNat with
      | none => s.csiUnrouted r
      | some j =>
        if !bit (s.reg (csiBase r + 0x108)) (8 * vc + j) || !s.csiRouted r vc then s.csiUnrouted r
        else
          match s.csiFrame r vc with
          | none => s
          | some f =>
            let line := csiLine (bit (s.reg (csiBase r + 0x100)) 15) dt.toNat data
            let f := { f with
              lines := f.lines + 1
              longest := Nat.max f.longest line.length
              dt := if f.dt.isNone ∧ dt ≠ 0x12 then some dt else f.dt
              errs := if crcOk then f.errs else satInc f.errs 1
              crcErr := f.crcErr || !crcOk
              bytes := f.bytes ++ line }
            s.setCsi r vc (some f)

/-- FRAME_END (rule R130). DEDUCED, assumption 8. A frame that is open when the receiver's EN is cleared stays open until a frame start, a
frame end or a loss of synchronisation closes it. DESIGN CHOICE, assumption 58. -/
def State.csiEnd (s : State) (r vc : Nat) : State := s.csiClose r vc 0

/-- HS_SYNC_LOSS (rule R130). -/
def State.csiLoss (s : State) (r : Nat) : State := (List.range 4).foldl (fun s vc => s.csiClose r vc 8) s

/-- RESYNC (rule R129): the port's retry counter, and RETRY of the receiver's four streams. -/
def State.csiResync (s : State) (r : Nat) : State :=
  if s.gradeDis (.csi r) then s
  else (List.range 4).foldl (fun s vc => s.streamRetry (4 * r + vc)) (s.bumpFld (csiBase r + 0x104) 0 16)

/-! Ethernet (rules R107, R132–R135). -/

def ethBase (p : Nat) : Nat := 0x56000 + 0x1000 * p

/-- Bytes `i`, `i + 1` of a frame as a big-endian number. -/
def be16 (f : List Byte) (i : Nat) : Nat := beNat ((f.drop i).take 2)

def be32 (f : List Byte) (i : Nat) : Nat := beNat ((f.drop i).take 4)

/-- Where the EtherType stands: behind one IEEE 802.1Q tag, or at once. -/
def ethTypeAt (f : List Byte) : Nat := if be16 f 12 = 0x8100 then 16 else 12

/-- The VID of a tagged frame. -/
def ethVid (f : List Byte) : Option Nat := if be16 f 12 = 0x8100 then some (be16 f 14 % 4096) else none

/-- A UDP datagram over IPv4, without fragmentation. -/
structure Udp where
  src : Nat
  dst : Nat
  sport : Nat
  dport : Nat
  body : List Byte
  csumOk : Bool
deriving DecidableEq, Repr

/-- The sum of the 16-bit big-endian words of a list of bytes, a last odd byte padded with zero. -/
def words16 (n : Nat) (bs : List Byte) : Nat :=
  match n, bs with
  | k + 1, a :: b :: r => a.toNat * 256 + b.toNat + words16 k r
  | _ + 1, [a] => a.toNat * 256
  | _, _ => 0

/-- A sum of 16-bit words folded to 16 bits with end-around carry. -/
def fold16 (v : Nat) : Nat := let v := v % 65536 + v / 65536; let v := v % 65536 + v / 65536; v % 65536 + v / 65536

/-- The UDP datagram that an IPv4 packet carries, if it carries a whole one. -/
def udpOf (ip : List Byte) : Option Udp :=
  let ihl := (ip.headD 0).toNat % 16 * 4
  if (ip.headD 0).toNat / 16 ≠ 4 ∨ ihl < 20 ∨ be16 ip 6 % 0x4000 ≠ 0 ∨ (ip.getD 9 0).toNat ≠ 17 then none
  else
    let total := be16 ip 2
    let u := (ip.take total).drop ihl
    let len := be16 u 4
    if u.length < 8 ∨ len < 8 ∨ u.length < len then none
    else
      let u := u.take len
      let pseudo := words16 8 ((ip.drop 12).take 8) + 17 + len
      some { src := be32 ip 12, dst := be32 ip 16, sport := be16 u 0, dport := be16 u 2, body := u.drop 8,
             csumOk := be16 u 6 == 0 || fold16 (pseudo + words16 len u) == 0xFFFF }

/-- The IPv4 packet of a frame. -/
def ipOf (f : List Byte) : Option (List Byte) :=
  if be16 f (ethTypeAt f) = 0x0800 then some (f.drop (ethTypeAt f + 2)) else none

/-- Whether a frame goes to the management controller (rule R132, step 1). -/
def ethManaged (addr : Nat) (f : List Byte) : Bool :=
  let ty := be16 f (ethTypeAt f)
  ty == 0x88F7 || ty == 0x0806 ||
    match ipOf f with
    | none => false
    | some ip =>
      (match udpOf ip with
        | some u => u.dport == 319 || u.dport == 320
        | none => false) ||
      ((ip.getD 9 0).toNat == 1 && be32 ip 16 == addr)

/-- Whether a frame is an IEEE 1588 or IEEE 802.1AS event message: a PTP message type 0–3 over Layer 2 or over UDP port
319 (rule R107). -/
def ethEvent (f : List Byte) : Bool :=
  let ty := be16 f (ethTypeAt f)
  (ty == 0x88F7 && (f.getD (ethTypeAt f + 2) 0).toNat % 16 < 4) ||
    match (ipOf f).bind udpOf with
    | some u => u.dport == 319
    | none => false

/-- The group of flow filter `f` (rule R134). -/
def filterGroup (f : Nat) : Nat := 0x5BE00 + 0x20 * f

/-- Whether filter `f` matches a datagram that port `p` received (rule R133). -/
def State.filterMatches (s : State) (f p : Nat) (vid : Option Nat) (u : Udp) : Bool :=
  let g := filterGroup f
  let c := s.reg g
  bit c 0 && bit c (1 + p) && u.dst == (s.reg (g + 4)).toNat && u.dport == s.rf (g + 12) 0 16 &&
    (!bit c 17 || u.src == (s.reg (g + 8)).toNat) && (!bit c 18 || u.sport == s.rf (g + 12) 16 16) &&
    (!bit c 3 || vid == some (fld c 4 12))

/-- The counter that a port's event messages read (rules R107, R109, ETH_TSEL). -/
def State.ethTsel (s : State) (p : Nat) : Nat := s.rf 0x12C8 (4 * p) 3

/-- A datagram that a filter takes (rules R126, R133, R134). -/
def State.ethFlow (s : State) (f p dur : Nat) (frame : List Byte) (u : Udp) : State :=
  let g := filterGroup f
  let c := s.reg g
  if bit c 16 && !u.csumOk then s.bump (g + 0x14) 1
  else
    let s := s.bumpWrap (g + 0x10) 1
    let rx := sext 16 (s.rf (0x12C0 + 4 * p) 16 16)
    let start := i32 ((s.now 0 : Int) - dur - rx)
    let s := if s.ringOn (24 + f) then s.unitBegin (24 + f) else s
    s.ringUnit (24 + f)
      { kind := 1, start := start, stop := s.stamp, payload := if bit c 19 then u.body else frame, flags := 0, errs := 0,
        w8 := w32 u.src, w9 := w32 (u.sport + u.dport * 65536),
        w10 := w32 ((ethVid frame).getD 0 + (ethVid frame).isSome.toNat * 4096 + p * 8192) }

/-- ETH_FRAME_RECEIVE (rules R107, R132, R133); `dur` is the time from the capture point to the last FCS bit. DEDUCED, assumption 52.
RX_FRAMES counts every frame with a good FCS and no other. DESIGN CHOICE, assumption 60. -/
def State.ethReceive (s : State) (p : Fin 2) (frame : List Byte) (fcsOk : Bool) (dur : Nat) : State :=
  let b := ethBase p.val
  if !bit (s.reg (b + 0x118)) 0 then s
  else if !fcsOk then s.bumpWrap (b + 0x104) 1
  else
    let s := s.bumpWrap (b + 0x100) 1
    if be16 frame (ethTypeAt frame) = 0x8808 then s.bumpWrap (b + 0x10C) 1
    else if ethManaged (s.reg (b + 0x114)).toNat frame then
      let stamp := if ethEvent frame
        then some ((s.now (s.ethTsel p.val) : Int) - dur - sext 16 (s.rf (0x12C0 + 4 * p.val) 16 16)) else none
      { s with edge := { s.edge with eth := s.edge.eth ++ [{ port := p, sent := false, stamp := stamp, frame := frame }] } }
    else
      match (ipOf frame).bind udpOf with
      | none => s.bumpWrap (b + 0x108) 1
      | some u =>
        match (List.range 16).find? (fun f => s.filterMatches f p.val (ethVid frame) u) with
        | some f => s.ethFlow f p.val dur frame u
        | none => s.bumpWrap (b + 0x108) 1

/-- A frame with the station address of port `p` as its source (rule R135). -/
def State.withStation (s : State) (p : Nat) (frame : List Byte) : List Byte :=
  let lo := s.reg (ethBase p + 0x11C)
  let hi := s.reg (ethBase p + 0x120)
  frame.take 6 ++ leBytes 4 lo.toNat ++ leBytes 2 (fld hi 0 16) ++ frame.drop 12

/-- ETH_FRAME_TRANSMIT (rules R107, R135): an enabled port sends the management controller's frame from the station address; an
event message is stamped with TX_CORR added. -/
def State.ethTransmit (s : State) (p : Fin 2) (frame : List Byte) : State :=
  if !bit (s.reg (ethBase p.val + 0x118)) 0 then s
  else
    let stamp := if ethEvent frame
      then some ((s.now (s.ethTsel p.val) : Int) + sext 16 (s.rf (0x12C0 + 4 * p.val) 0 16)) else none
    { s with edge := { s.edge with eth := s.edge.eth ++ [{ port := p, sent := true, stamp := stamp, frame := s.withStation p.val frame }] } }

/-- LINK_DOWN (rule R135). -/
def State.ethLinkDown (s : State) (p : Nat) : State := (s.setRf (ethBase p + 0x124) 0 1 0).intRaise (.eth p) 0

/-- LINK_RETRY (rules R129, R135): the link is up again, at the negotiated `speed` with AN and at SPEED without; the port's retry
counter increments, and the flows that the port may carry see a retry. -/
def State.ethLinkRetry (s : State) (p : Nat) (speed : BitVec 2) : State :=
  let cfg := s.reg (ethBase p + 0x118)
  let s := s.setReg (ethBase p + 0x124) (w32 (1 + (if bit cfg 3 then speed.toNat else fld cfg 1 2) * 2))
  let s := s.bumpWrap (ethBase p + 0x110) 1
  ((List.range 16).filter fun f => bit (s.reg (filterGroup f)) (1 + p)).foldl (fun s f => s.streamRetry (24 + f)) s

/-- A write of MDIO_CMD (rule R135); a frame under way keeps the OP that it started with. -/
def State.writeMdioCmd (s : State) (p : Nat) (v : Word) : Nat × State :=
  let a := ethBase p + 0x128
  let op := fld v 11 2
  let busy := bit (s.reg a) 14
  if !bit v 10 && (op == 0 || op == 3) then (cARG, s)
  else if bit v 13 && busy then (cARG, s)
  else
    let s := if bit v 13 then { s with edge := { s.edge with mdioOp := Cells.put 0 s.edge.mdioOp p op } } else s
    (cOK, s.setReg a ((v &&& 0x1FFF) ||| (if bit v 13 || busy then 0x4000 else 0)))

/-- MDIO_DONE (rule R135): BUSY falls, and a read latches its data. -/
def State.mdioDone (s : State) (p : Nat) (data : BitVec 16) : State :=
  let a := ethBase p + 0x128
  let c := s.reg a
  if !bit c 14 then s
  else
    let s := s.setReg a (setBit c 14 false)
    let s := if 2 ≤ Cells.get 0 s.edge.mdioOp p then s.setReg (a + 4) (w32 data.toNat) else s
    s.intRaise (.eth p) 1

/-! Low-rate streams (rules R125, R126, R136, R137). -/

def spiBase (k : Nat) : Nat := 0x58100 + 0x20 * k

def uartBase (u : Nat) : Nat := 0x58180 + 0x20 * u

def State.spiBusy (s : State) (k : Nat) : Option SpiRun := Cells.get none s.edge.spi k

/-- The bytes of a transmit template at `a`, `n` of them; bytes past the template are 0x00. -/
def State.template (s : State) (a n len : Nat) : List Byte :=
  ((List.range len).map fun i => if i < n then BitVec.ofNat 8 (s.rf (a + i / 4 * 4) (8 * (i % 4)) 8) else 0)

def State.setSpi (s : State) (k : Nat) (v : Option SpiRun) : State :=
  { s with edge := { s.edge with spi := Cells.put none s.edge.spi k v } }

/-- A trigger that arrives during a transfer of stream `st` (0–5 for L0–L5) is counted (rule R136). -/
def State.busyTrig (s : State) (st : Nat) : State := (s.bump (0x58300 + 4 * st) 1).intRaise .serial 0

/-- A trigger of SPI controller `k`: `trig` is 0 slot, 1 DRDY, 2 period (rules R136, R137). The transfer that it starts sends the
template, and 0x00 past it. -/
def State.spiTrigger (s : State) (k trig : Nat) : State :=
  let c := s.reg (spiBase k)
  if !bit c 0 || fld c 6 2 != trig then s
  else if (s.spiBusy k).isSome then s.busyTrig k
  else
    let n := (s.reg (spiBase k + 8)).toNat
    let t := s.template (0x58200 + 0x40 * k) 64 n
    let s := (s.unitBegin (40 + k)).setSpi k (some { start := s.stamp, trig := trig, len := n, cs := fld c 4 2 })
    { s with edge := { s.edge with spiSent := s.edge.spiSent ++ [(Fin.ofNat 4 k, t)] } }

/-- SPI_TRANSFER_END (rules R125, R126): the received bytes, LEN of them, make the unit. -/
def State.spiEnd (s : State) (k : Nat) (data : List Byte) : State :=
  match s.spiBusy k with
  | none => s
  | some x =>
    (s.setSpi k none).ringUnit (40 + k)
      { kind := 2, start := x.start, stop := s.stamp, payload := data.take x.len, flags := 0,
        errs := 0, w8 := w32 (x.cs + x.trig * 4), w9 := 0, w10 := 0 }

def State.uartMsg (s : State) (u : Nat) : Option UartMsg := Cells.get none s.edge.uart u

def State.setUart (s : State) (u : Nat) (m : Option UartMsg) : State :=
  { s with edge := { s.edge with uart := Cells.put none s.edge.uart u m } }

/-- A UART message ends for `reason` 0 idle gap, 1 delimiter, 2 length (rule R126). -/
def State.uartClose (s : State) (u reason : Nat) : State :=
  match s.uartMsg u with
  | none => s
  | some m =>
    (s.setUart u none).ringUnit (44 + u)
      { kind := 3, start := m.start, stop := s.stamp, payload := m.bytes, flags := if m.errs = 0 then 0 else 0x40,
        errs := m.errs, w8 := w32 reason, w9 := 0, w10 := 0 }

/-- UART_BYTE (rules R125, R137); `dur` is the time from the byte's start bit to its stop bit. DEDUCED, assumption 52. -/
def State.uartByte (s : State) (u : Nat) (b : Byte) (parityErr framingErr : Bool) (dur : Nat) : State :=
  let c := s.reg (uartBase u)
  if !bit c 0 then s
  else
    let a := 0x58320 + 4 * u
    let s := if parityErr then s.bumpFld a 0 16 else s
    let s := if framingErr then s.bumpFld a 16 16 else s
    let s := if parityErr || framingErr then s.intRaise .serial 1 else s
    let e := if parityErr || framingErr then 1 else 0
    let (s, m) : State × UartMsg := match s.uartMsg u with
      | some m => (s, m)
      | none => (s.unitBegin (44 + u), { start := i32 ((s.now 0 : Int) - dur), bytes := [], errs := 0 })
    let m := { m with bytes := m.bytes ++ [b], errs := satInc m.errs e }
    let s := s.setUart u (some m)
    let x := s.reg (uartBase u + 8)
    let mode := fld c 5 2
    if mode = 1 ∧ b.toNat = fld x 8 8 then s.uartClose u 1
    else if mode = 2 ∧ fld x 16 13 ≤ m.bytes.length then s.uartClose u 2
    else s

/-- UART_IDLE_GAP (rule R126): ends a message in idle-gap mode. The stop stamp is that of the gap's end less the gap, in
bit times of the rate in force. DEDUCED, assumption 52. -/
def State.uartGap (s : State) (u : Nat) : State :=
  if s.rf (uartBase u) 5 2 ≠ 0 then s
  else
    match s.uartMsg u with
    | none => s
    | some m =>
      let gap := s.rf (uartBase u + 8) 0 8 * (s.reg (uartBase u + 4)).toNat * 100 / 128
      (s.setUart u none).ringUnit (44 + u)
        { kind := 3, start := m.start, stop := i32 ((s.now 0 : Int) - gap), payload := m.bytes,
          flags := if m.errs = 0 then 0 else 0x40, errs := m.errs, w8 := 0, w9 := 0, w10 := 0 }

/-- The time that `n` bytes take on UART `u`, in ns, rounded up: start bit, eight data bits, parity and stop bits at the rate in force
(rule R137). DEDUCED, assumption 52. -/
def State.uartTime (s : State) (u n : Nat) : Nat :=
  let c := s.reg (uartBase u)
  let bits := 10 + (fld c 1 2 != 0).toNat + (bit c 3).toNat
  ceilDiv (n * bits * (s.reg (uartBase u + 4)).toNat * 25) 32

/-- A SAMPLE_TRIGGER of a UART stream sends its template (rule R137); one that comes while the template is going out is counted (rule
R136). DEDUCED, assumption 52. -/
def State.uartTrigger (s : State) (u : Fin 2) : State :=
  let c := s.reg (uartBase u.val)
  if !bit c 0 then s
  else if s.time.ns < Cells.get 0 s.edge.uartOut u.val then s.busyTrig (4 + u.val)
  else
    let t := s.template (0x581C0 + 0x10 * u.val) 16 (fld c 7 5)
    { s with edge := { s.edge with uartSent := s.edge.uartSent ++ [(u, t)],
                                   uartOut := Cells.put 0 s.edge.uartOut u.val (s.time.ns + s.uartTime u.val t.length) } }

/-- A snapshot of four encoders, on stream L6 (`g` = 0) or L7 (`g` = 1) (rules R126, R136). -/
def State.encSnapshot (s : State) (g : Nat) : State :=
  let body := (List.range 4).flatMap fun i =>
    let e := 0x5A100 + 0x20 * (4 * g + i)
    (leBytes 4 (s.reg (e + 4)).toNat) ++ (leBytes 4 (s.reg (e + 8)).toNat) ++ (leBytes 4 (s.reg (e + 12)).toNat) ++
      (leBytes 4 (s.reg (e + 16)).toNat)
  let s := s.unitBegin (46 + g)
  s.ringUnit (46 + g)
    { kind := 4, start := s.stamp, stop := s.stamp, payload := body, flags := 0, errs := 0, w8 := 0, w9 := 0, w10 := 0 }

/-- A SAMPLE_TRIGGER of the low-rate streams in a mask (rules R111, R136). -/
def State.lowRateTrigger (s : State) (mask : Nat) : State :=
  let s := (List.range 4).foldl (fun s k => if nbit mask k then s.spiTrigger k 0 else s) s
  let s := (List.finRange 2).foldl (fun s u => if nbit mask (4 + u.val) then s.uartTrigger u else s) s
  (List.range 2).foldl (fun s g => if nbit mask (6 + g) then s.encSnapshot g else s) s

/-! CAN FD (rule R138). -/

def canBase (c : Nat) : Nat := 0x59500 + 0x20 * c

/-- Word `w` of transmit buffer `b` of controller `c`: 0 identifier word, 1 DLC, 2–17 data. -/
def State.canBufW (s : State) (c b w : Nat) : Word := Cells.get 0 s.edge.canBuf (18 * (16 * c + b) + w)

def State.setCanBufW (s : State) (c b w : Nat) (v : Word) : State :=
  { s with edge := { s.edge with canBuf := Cells.put 0 s.edge.canBuf (18 * (16 * c + b) + w) v } }

/-- Where an identifier word stands in arbitration, the lowest first: base identifier, then the standard before the extended format, then
the extension (ISO 11898-1). PRESUMED, assumption 42. -/
def canKey (w : Word) : Nat :=
  if bit w 29 then fld w 18 11 * 2 ^ 19 + 2 ^ 18 + fld w 0 18 else fld w 0 11 * 2 ^ 19

/-- Whether controller `c` may send: on the bus, not listening only and not off it (rule R138). -/
def State.canSends (s : State) (c : Nat) : Bool :=
  let ctrl := s.reg (canBase c)
  bit ctrl 0 && !bit ctrl 1 && s.rf (canBase c + 0x10) 0 2 != 2

/-- The requested buffers of controller `c` that contend: an FD frame only with FD_EN (rule R138). -/
def State.canPending (s : State) (c : Nat) : List Nat :=
  if !s.canSends c then []
  else (ones 16 (s.reg (0x59680 + 4 * c)).toNat).filter fun b => !bit (s.canBufW c b 0) 30 || bit (s.reg (canBase c)) 3

/-- The buffer that goes first: the lowest identifier, and of equal ones the lowest number (rule R138). -/
def State.canFirst (s : State) (c : Nat) : Option Nat :=
  (s.canPending c).foldl (fun m b => match m with
    | none => some b
    | some a => if canKey (s.canBufW c b 0) < canKey (s.canBufW c a 0) then some b else some a) none

/-- The requests that have stood first, and so may have begun arbitration, after a change (rule R138). DEDUCED, assumption 42. -/
def State.canNote (s : State) (c : Nat) : State :=
  let now := if s.canSends c then Cells.get 0 s.edge.canWon c &&& s.reg (0x59680 + 4 * c) else 0
  let now := match s.canFirst c with
    | none => now
    | some b => setBit now b true
  { s with edge := { s.edge with canWon := Cells.put 0 s.edge.canWon c now } }

/-- Every controller's requests after a change of the CAN registers. -/
def State.canNotes (s : State) : State := (List.range 4).foldl State.canNote s

/-- The controller's state follows its error counters, unless it is off the bus (rule R138, ISO 11898-1: error passive
above 127). PRESUMED, assumption 42. -/
def State.canPassive (s : State) (c : Nat) : State :=
  let a := canBase c + 0x10
  if s.rf a 0 2 = 2 then s
  else s.setRf a 0 2 (if 127 < s.rf a 8 8 ∨ 127 < s.rf a 16 8 then 1 else 0)

/-- Whether filter `f` of controller `c` passes an identifier (rule R138). -/
def State.canFilter (s : State) (c f : Nat) (ide : Bool) (id : Nat) : Bool :=
  let a := 0x59100 + 0x100 * c + 8 * f
  let w := s.reg a
  bit w 31 && bit w 29 == ide && ((fld w 0 29) ^^^ id) &&& s.rf (a + 4) 0 29 == 0

/-- CAN_FRAME_RECEIVE (rules R126, R138). A received frame lowers REC (ISO 11898-1). PRESUMED, assumption 42. DEDUCED, assumption 52. -/
def State.canReceive (s : State) (c : Nat) (f : CanFrame) : State :=
  let ctrl := s.reg (canBase c)
  if !bit ctrl 0 || (f.fdf && !bit ctrl 3) || s.rf (canBase c + 0x10) 0 2 == 2 then s
  else
    let a := canBase c + 0x10
    let rec_ := s.rf a 16 8
    let s := (s.setRf a 16 8 (if 127 < rec_ then 127 else rec_ - 1)).canPassive c
    if !(List.range 32).any (fun i => s.canFilter c i f.ide f.id.toNat) then s.bump (canBase c + 0x18) 1
    else
      let s := s.unitBegin (48 + c)
      s.ringUnit (48 + c)
        { kind := 5, start := i32 ((s.now 0 : Int) - f.dur.toNat), stop := s.stamp, payload := f.data, flags := 0, errs := 0,
          w8 := w32 (f.id.toNat + f.ide.toNat * 2 ^ 29 + f.fdf.toNat * 2 ^ 30 + f.brs.toNat * 2 ^ 31),
          w9 := w32 (f.dlc.toNat + f.esi.toNat * 16), w10 := 0 }

/-- Whether a requester may write TX_REQ and TX_ABORT (rule R138). -/
def mayTransmit (r : Requester) : Bool := r == .mgmt || r == .slot

/-- A withdrawal of the requests in `bufs` that have not begun arbitration (rule R138). DESIGN CHOICE, assumption 20. -/
def State.txAbort (s : State) (r : Requester) (c : Nat) (bufs begun : Nat) : Nat × State :=
  if !mayTransmit r then (cARG, s)
  else
    let a := 0x59680 + 4 * c
    let held := w32 begun &&& Cells.get 0 s.edge.canWon c
    (cOK, (s.setReg a (s.reg a &&& ~~~ (w32 (bufs % 65536) &&& ~~~ held))).canNote c)

/-- TX_DONE (rule R138): a buffer that has won arbitration has been sent. A sent frame lowers TEC (ISO 11898-1). PRESUMED, assumption 42. -/
def State.txDone (s : State) (c b : Nat) : State :=
  let a := 0x59680 + 4 * c
  if !bit (s.reg a) b ∨ !bit (Cells.get 0 s.edge.canWon c) b then s
  else
    let s := s.setReg a (setBit (s.reg a) b false)
    let s := s.setReg (0x596A0 + 4 * c) (setBit (s.reg (0x596A0 + 4 * c)) b true)
    let e := canBase c + 0x10
    let s := (s.setRf e 8 8 (s.rf e 8 8 - 1)).canPassive c
    (s.intRaise .can 2).canNote c

/-- BUS_OFF (rule R138): a controller on the bus leaves it. PRESUMED, assumption 42. -/
def State.canBusOff (s : State) (c : Nat) : State :=
  if !bit (s.reg (canBase c)) 0 ∨ s.rf (canBase c + 0x10) 0 2 = 2 then s
  else (((s.setRf (canBase c + 0x10) 0 2 2).bumpFld (canBase c + 0x14) 0 16).intRaise .can 0).canNote c

/-- BUS_OFF_RECOVERY (rule R138): with AUTO_REC, the controller is error active again and its counters are 0. PRESUMED, assumption 42. -/
def State.canRecover (s : State) (c : Nat) : State :=
  if bit (s.reg (canBase c)) 2 ∧ s.rf (canBase c + 0x10) 0 2 = 2 then (s.setReg (canBase c + 0x10) 0).canNote c else s

/-- CAN_PROTOCOL_ERROR (rule R138): TEC and REC rise, saturating at 255, and PROTO_ERRS counts. PRESUMED, assumption 42. -/
def State.canError (s : State) (c tec rec_ : Nat) : State :=
  let a := canBase c + 0x10
  if !bit (s.reg (canBase c)) 0 then s
  else
  let s := s.setRf a 8 8 (satAdd 255 (s.rf a 8 8) tec)
  let s := s.setRf a 16 8 (satAdd 255 (s.rf a 16 8) rec_)
  (s.bumpFld (canBase c + 0x14) 16 16).canPassive c

end Sys2Proof.Machine
end

