-- ==== Sys2Proof/Machine/Float.lean ====
section
/-! DEFINITION. Machine/Float.lean: number formats, exact values, rounding, overflow, subnormals and the random numbers of
SR16 (rules R59–R62, R65, R76–R83). -/

namespace Sys2Proof.Machine

/-- The element formats by their codes (rule R59). -/
inductive Fmt where
  | int8 | fp8e4 | fp8e5 | bf16 | fp16 | fp32 | fp64 | int32 | q32 | carry
deriving DecidableEq, Repr

/-- The format of a 4-bit code; codes 0xA–0xF name none. -/
def fmtOf (c : Nat) : Option Fmt :=
  [Fmt.int8, .fp8e4, .fp8e5, .bf16, .fp16, .fp32, .fp64, .int32, .q32, .carry][c]?

/-- The width of a format in bytes. -/
def Fmt.bytes (f : Fmt) : Nat :=
  match f with
  | .int8 | .fp8e4 | .fp8e5 => 1
  | .bf16 | .fp16 => 2
  | .fp32 | .int32 | .q32 => 4
  | .fp64 => 8
  | .carry => 16

/-- Whether a format is binary floating point. -/
def Fmt.isFp (f : Fmt) : Bool :=
  match f with
  | .fp8e4 | .fp8e5 | .bf16 | .fp16 | .fp32 | .fp64 => true
  | _ => false

/-- Exponent bits of a floating-point format (rule R60). -/
def Fmt.eb (f : Fmt) : Nat :=
  match f with
  | .fp8e4 => 4
  | .fp8e5 | .fp16 => 5
  | .bf16 | .fp32 => 8
  | .fp64 => 11
  | _ => 0

/-- Fraction bits of a floating-point format (rule R60). -/
def Fmt.fb (f : Fmt) : Nat :=
  match f with
  | .fp8e4 => 3
  | .fp8e5 => 2
  | .bf16 => 7
  | .fp16 => 10
  | .fp32 => 23
  | .fp64 => 52
  | _ => 0

/-- The exponent bias (rule R60). -/
def Fmt.bias (f : Fmt) : Nat := 2 ^ (f.eb - 1) - 1

/-- The exponent of the smallest normal value. -/
def Fmt.emin (f : Fmt) : Int := 1 - (f.bias : Int)

/-- The canonical NaN (rule R60). -/
def Fmt.nan (f : Fmt) : Nat :=
  match f with
  | .fp8e4 => 0x7F
  | _ => (2 ^ f.eb - 1) * 2 ^ f.fb + 2 ^ (f.fb - 1)

/-- The encoding of the largest finite value (rule R60). -/
def Fmt.top (f : Fmt) : Nat :=
  match f with
  | .fp8e4 => 0x7E
  | _ => (2 ^ f.eb - 1) * 2 ^ f.fb - 1

/-- The encoding of +infinity; FP8E4 has none (rule R61). -/
def Fmt.inf (f : Fmt) : Nat := (2 ^ f.eb - 1) * 2 ^ f.fb

/-- The sign bit of a floating-point format, as a number. -/
def Fmt.signBit (f : Fmt) : Nat := 2 ^ (f.eb + f.fb)

/-- A decoded operand: NaN (signalling or not), an infinity, or (−1)^s × m × 2^e. -/
inductive Val where
  | nan (signalling : Bool)
  | inf (s : Bool)
  | num (s : Bool) (m : Nat) (e : Int)
deriving DecidableEq, Repr

/-- The value that the encoding `v` has (rules R60–R62); `sh` is the shift of a Q32. -/
def decodeVal (f : Fmt) (sh v : Nat) : Val :=
  match f with
  | .int8 => let x := sext 8 v; .num (decide (x < 0)) x.natAbs 0
  | .int32 => let x := sext 32 v; .num (decide (x < 0)) x.natAbs 0
  | .q32 => let x := sext 32 v; .num (decide (x < 0)) x.natAbs (-(sh : Int))
  | .carry => .nan false
  | _ =>
    let s := nbit v (f.eb + f.fb)
    let e := nfld v f.fb f.eb
    let m := v % 2 ^ f.fb
    if f = .fp8e4 then
      if e = 15 ∧ m = 7 then .nan false
      else if e = 0 then .num s m (f.emin - f.fb) else .num s (m + 2 ^ f.fb) ((e : Int) - f.bias - f.fb)
    else if e = 2 ^ f.eb - 1 then
      if m = 0 then .inf s
      else .nan (decide (m < 2 ^ (f.fb - 1)) && (f = .fp16 || f = .fp32 || f = .fp64))
    else if e = 0 then .num s m (f.emin - f.fb)
    else .num s (m + 2 ^ f.fb) ((e : Int) - f.bias - f.fb)

/-- The rounding modes (rule R65), with the drawn number of SR16 (rule R77). -/
inductive Rnd where
  | rne | sr16 (r : Nat) | rtz | rdn | rup
deriving DecidableEq, Repr

/-- A result before rounding: NaN, with whether an invalid operation made it; an infinity, with whether an infinite
operand made it; or (−1)^s × (m + t) × 2^e, where t is 0, or lies strictly between 0 and 1 when `sticky`. -/
inductive Exact where
  | nan (invalid : Bool)
  | inf (s sourced : Bool)
  | num (s : Bool) (m : Nat) (e : Int) (sticky : Bool)
deriving DecidableEq, Repr

/-- What an element counts (rule R89). -/
inductive Mark where
  | none | sat | flush | invalid
deriving DecidableEq, Repr

/-- The magnitude (m + t) × 2^e as a whole multiple of 2^q, rounded (rules R76, R77). -/
def roundMag (r : Rnd) (s : Bool) (m : Nat) (e : Int) (sticky : Bool) (q : Int) : Nat :=
  if q ≤ e then
    let n := m * 2 ^ (e - q).toNat
    match r with
    | .rdn => if sticky && s then n + 1 else n
    | .rup => if sticky && !s then n + 1 else n
    | _ => n
  else
    let d := (q - e).toNat
    let t := m / 2 ^ d
    let rem := m % 2 ^ d
    let half := 2 ^ (d - 1)
    let inexact := rem != 0 || sticky
    let up : Bool := match r with
      | .rne => decide (half < rem) || (rem == half && (sticky || t % 2 == 1))
      | .sr16 x => decide (65536 ≤ rem * 65536 / 2 ^ d + x)
      | .rtz => false
      | .rdn => s && inexact
      | .rup => !s && inexact
    if up then t + 1 else t

/-- A format's encoding with a sign. -/
def signed (f : Fmt) (s : Bool) (v : Nat) : Nat := if s then v + f.signBit else v

/-- Whether a finite overflow goes to the largest finite value although OVF is IEEE (rule R81). -/
def roundsInward (r : Rnd) (s : Bool) : Bool :=
  match r with
  | .rtz => true
  | .rdn => !s
  | .rup => s
  | _ => false

/-- The floating-point encoding of a result and what it counts (rules R76, R80–R83); `ieee` is OVF, `tensor` selects the
tensor path's treatment of subnormals. -/
def finishFp (f : Fmt) (r : Rnd) (ieee tensor : Bool) (x : Exact) : Nat × Mark :=
  match x with
  | .nan inv => (f.nan, if inv then .invalid else .none)
  | .inf s sourced =>
    if f = .fp8e4 then (if ieee then f.nan else signed f s f.top, .sat)
    else if sourced then (signed f s f.inf, .none)
    else (signed f s (if ieee then f.inf else f.top), .sat)
  | .num s m e sticky =>
    if m = 0 ∧ !sticky then (signed f (s && !tensor) 0, .none)
    else
      let low := f.emin - (f.fb : Int)
      let l := (m.log2 : Int) + e
      let q := if tensor then l - f.fb else max (l - f.fb) low
      let n := roundMag r s m e sticky q
      let l' := (n.log2 : Int) + q
      if n = 0 then (signed f s 0, .none)
      else
        let big := if f = .fp8e4 then decide (8 < l') || (l' == 8 && decide (14 * 2 ^ (n.log2) < 8 * n))
          else decide ((f.bias : Int) < l')
        if big then
          (if ieee && !roundsInward r s then (if f = .fp8e4 then f.nan else signed f s f.inf)
            else signed f s f.top, .sat)
        else if l' < f.emin then
          if tensor then (signed f s 0, .flush) else (signed f s n, .none)
        else
          let frac := if n.log2 ≤ f.fb then n * 2 ^ (f.fb - n.log2) else n / 2 ^ (n.log2 - f.fb)
          (signed f s ((l' + f.bias).toNat * 2 ^ f.fb + (frac - 2 ^ f.fb)), .none)

/-- The integer or Q32 encoding of a result in `w` bits and what it counts (rules R72, R76, R80, R81); `sh` is the shift
of a Q32. -/
def finishInt (w sh : Nat) (r : Rnd) (x : Exact) : Nat × Mark :=
  match x with
  | .nan _ => (0, .invalid)
  | .inf s _ => (if s then 2 ^ (w - 1) else 2 ^ (w - 1) - 1, .sat)
  | .num s m e sticky =>
    let n := roundMag r s m e sticky (-(sh : Int))
    let v : Int := if s then -(n : Int) else n
    let c := satS w v
    (toU w c, if c = v then .none else .sat)

/-- The encoding of a result in any format but CARRY. -/
def finish (f : Fmt) (sh : Nat) (r : Rnd) (ieee tensor : Bool) (x : Exact) : Nat × Mark :=
  match f with
  | .int8 => finishInt 8 0 r x
  | .int32 => finishInt 32 0 r x
  | .q32 => finishInt 32 sh r x
  | _ => finishFp f r ieee tensor x

/-! SR16 generators (rules R78, R79). -/

def mask64 : Nat := 2 ^ 64 - 1

/-- sr16_seed (rule R78). -/
def sr16Seed (ctxSeed step lane : Nat) : Nat :=
  let z := ctxSeed ^^^ (step * 0x9E3779B97F4A7C15 % 2 ^ 64) ^^^ (lane * 0xD1B54A32D192ED03 % 2 ^ 64)
  let z := (z ^^^ (z >>> 30)) * 0xBF58476D1CE4E5B9 % 2 ^ 64
  let z := (z ^^^ (z >>> 27)) * 0x94D049BB133111EB % 2 ^ 64
  let z := z ^^^ (z >>> 31)
  if z = 0 then 0x6A09E667F3BCC909 else z

/-- The state of a generator after one step (rule R78). -/
def sr16Step (x : Nat) : Nat :=
  let x := x ^^^ (x <<< 13 % 2 ^ 64)
  let x := x ^^^ (x >>> 7)
  x ^^^ (x <<< 17 % 2 ^ 64)

/-- The state after `n` steps. -/
def sr16Iter (n x : Nat) : Nat :=
  match n with
  | 0 => x
  | k + 1 => sr16Iter k (sr16Step x)

/-- The 16-bit output that follows the state (rule R78). -/
def sr16Out (x : Nat) : Nat := (x * 0x2545F4914F6CDD1D % 2 ^ 64) >>> 48

/-- The draw for rounding `t` of `d` of output element `i` of the command `lcn` (rule R79). -/
def sr16Draw (ctxSeed step lcn i d t : Nat) : Nat :=
  sr16Out (sr16Iter ((i / 256) * d + t + 1) (sr16Seed ctxSeed step (lcn * 256 + i % 256)))

/-- The rounding mode of a command's RND code for one rounding of one element; codes 5–7 name none (rule R65). -/
def rndOf (code ctxSeed step lcn i d t : Nat) : Rnd :=
  match code with
  | 1 => .sr16 (sr16Draw ctxSeed step lcn i d t)
  | 2 => .rtz
  | 3 => .rdn
  | 4 => .rup
  | _ => .rne

end Sys2Proof.Machine
end

