-- ==== Sys2Proof/Machine/Elem.lean ====
section
/-! DEFINITION. Machine/Elem.lean: the exact results of the vector operations on one element, the elementary functions
among them, before the one rounding of each (rules R84–R88). -/

namespace Sys2Proof.Machine

/-- Whether a value is a signalling NaN, which counts INVALID (rule R88). -/
def Val.signals (v : Val) : Bool := match v with
  | .nan b => b
  | _ => false

def Val.isNan (v : Val) : Bool := match v with
  | .nan _ => true
  | _ => false

/-- The signed integer of a dyadic magnitude at exponent `q`, where `q` is at most its own. -/
def dyad (s : Bool) (m : Nat) (e q : Int) : Int :=
  let v : Int := m * 2 ^ (e - q).toNat
  if s then -v else v

/-- A dyadic sum as an exact result; an exact zero is +0, or −0 under RDN (IEEE 754-2019, 6.3). -/
def exactSum (r : Rnd) (v q : Int) : Exact :=
  if v = 0 then .num (r == .rdn) 0 0 false else .num (decide (v < 0)) v.natAbs q false

/-- x + y (rules R84, R86–R88). -/
def addExact (r : Rnd) (x y : Val) : Exact :=
  match x, y with
  | .nan a, .nan b => .nan (a || b)
  | .nan a, _ => .nan a
  | _, .nan b => .nan b
  | .inf a, .inf b => if a = b then .inf a true else .nan true
  | .inf a, _ => .inf a true
  | _, .inf b => .inf b true
  | .num s m e, .num t n k =>
    if m = 0 ∧ n = 0 then .num (if s = t then s else r == .rdn) 0 0 false
    else
      let q := min e k
      exactSum r (dyad s m e q + dyad t n k q) q

/-- −x; a NaN stays one. -/
def Val.neg (x : Val) : Val :=
  match x with
  | .nan b => .nan b
  | .inf s => .inf (!s)
  | .num s m e => .num (!s) m e

/-- x × y (rules R84, R87). -/
def mulExact (x y : Val) : Exact :=
  match x, y with
  | .nan a, .nan b => .nan (a || b)
  | .nan a, _ => .nan a
  | _, .nan b => .nan b
  | .inf a, .inf b => .inf (a != b) true
  | .inf a, .num t n _ => if n = 0 then .nan true else .inf (a != t) true
  | .num s m _, .inf b => if m = 0 then .nan true else .inf (s != b) true
  | .num s m e, .num t n k => .num (s != t) (m * n) (e + k) false

/-- x × y + z with one rounding (rules R84, R87). Zero times infinity is invalid also beside a NaN addend. -/
def fmaExact (r : Rnd) (x y z : Val) : Exact :=
  match mulExact x y with
  | .nan inv => .nan (inv || z.signals)
  | .inf s _ =>
    match z with
    | .nan b => .nan b
    | .inf t => if s = t then .inf s true else .nan true
    | .num _ _ _ => .inf s true
  | .num s m e _ =>
    match z with
    | .nan b => .nan b
    | .inf t => .inf t true
    | .num t n k =>
      if m = 0 ∧ n = 0 then .num (if s = t then s else r == .rdn) 0 0 false
      else
        let q := min e k
        exactSum r (dyad s m e q + dyad t n k q) q

/-- Quotient bits that every rounding of the device can tell apart: 53 of the widest format, 16 of SR16, and more. -/
def workBits : Nat := 160

/-- x ÷ y (rules R81, R84, R87). -/
def divExact (x y : Val) : Exact :=
  match x, y with
  | .nan a, .nan b => .nan (a || b)
  | .nan a, _ => .nan a
  | _, .nan b => .nan b
  | .inf _, .inf _ => .nan true
  | .inf a, .num t _ _ => .inf (a != t) true
  | .num s _ _, .inf b => .num (s != b) 0 0 false
  | .num s m e, .num t n k =>
    if n = 0 then (if m = 0 then .nan true else .inf (s != t) false)
    else
      let w := workBits + n.log2
      let a := m * 2 ^ w
      .num (s != t) (a / n) (e - k - w) (a % n != 0)

/-- The integer square root, by `n` binary digits from the top. -/
def isqrtGo (n v r : Nat) : Nat :=
  match n with
  | 0 => r
  | k + 1 =>
    let c := r + 2 ^ k
    isqrtGo k v (if c * c ≤ v then c else r)

/-- ⌊√v⌋. -/
def isqrt (v : Nat) : Nat := isqrtGo (v.log2 / 2 + 1) v 0

/-- √x (rules R84, R87). -/
def sqrtExact (x : Val) : Exact :=
  match x with
  | .nan a => .nan a
  | .inf s => if s then .nan true else .inf false true
  | .num s m e =>
    if m = 0 then .num s 0 0 false
    else if s then .nan true
    else
      let w := 2 * workBits + (if (e % 2 = 0) then 0 else 1)
      let a := m * 2 ^ w
      let r := isqrt a
      .num false r ((e - w) / 2) (r * r != a)

/-- 1 ÷ √x (rules R84, R87). -/
def rsqrtExact (x : Val) : Exact :=
  match x with
  | .nan a => .nan a
  | .inf s => if s then .nan true else .num false 0 0 false
  | .num s m e =>
    if m = 0 then .inf s false
    else if s then .nan true
    else
      let w := 2 * workBits + 2 * m.log2 + (if e % 2 = 0 then 0 else 1)
      let y := 2 ^ w / m
      let r := isqrt y
      .num false r ((-e - w) / 2) (r * r * m != 2 ^ w)

/-! Elementary functions. Each value lies in an interval found at a working precision; the precision is raised until both
ends agree in all the bits that a rounding can tell apart (rule R84: the exact value rounded once). -/

/-- An interval [lo, hi] × 2^e. -/
structure Bounds where
  lo : Nat
  hi : Nat
  e : Int
deriving DecidableEq, Repr

/-- The bits that both ends of an interval agree on, if they are enough. -/
def Bounds.agree (b : Bounds) : Option Exact :=
  let d := b.lo.log2 - 80
  if 80 ≤ b.lo.log2 ∧ b.lo / 2 ^ d = b.hi / 2 ^ d then some (.num false (b.lo / 2 ^ d) (b.e + d) true) else none

/-- The first precision of a list at which the ends agree. -/
def ziv (f : Nat → Bounds) (ps : List Nat) : Exact :=
  match ps with
  | [] => let b := f 512; .num false b.lo b.e true
  | p :: r =>
    match (f p).agree with
    | some x => x
    | none => ziv f r

/-- The precisions tried. -/
def zivSteps : List Nat := [192, 320, 512, 1024]

/-- Σ t^(2i+1) ÷ (2i+1) for a fixed-point t of `p` bits, `n` terms from term `i` on; `t2` is t². -/
def atanhGo (n i p t t2 : Int) (fuel : Nat) : Int :=
  match fuel with
  | 0 => 0
  | k + 1 => t / (2 * i + 1) + atanhGo n (i + 1) p (t * t2 / 2 ^ p.toNat) t2 k

/-- atanh of a fixed-point number of `p` bits below 1/2 in magnitude. -/
def atanhFx (p : Nat) (t : Int) : Int := atanhGo 0 0 p t (t * t / 2 ^ p) (p / 2 + 2)

/-- ln 2 to `p` bits: 2 atanh(1/3). -/
def ln2Fx (p : Nat) : Int := 2 * atanhFx p (2 ^ p / 3)

/-- Σ t^i ÷ i! from term `i` on, `a` the term before, for a fixed-point t of `p` bits. -/
def expGo (p : Nat) (t a : Int) (i fuel : Nat) : Int :=
  match fuel with
  | 0 => 0
  | k + 1 =>
    let a' := a * t / 2 ^ p / (i : Int)
    a' + expGo p t a' (i + 1) k

/-- A fixed-point number squared `n` times. -/
def sqFx (p : Nat) (n : Nat) (x : Int) : Int :=
  match n with
  | 0 => x
  | k + 1 => sqFx p k (x * x / 2 ^ p)

/-- e^x for a dyadic x of modest size: (v, k) with e^x = v × 2^(k − p), v near 2^p, to within 2^32 units. -/
def expFx (p : Nat) (s : Bool) (m : Nat) (e : Int) : Int × Int :=
  let x : Int := if 0 ≤ e + p then m * 2 ^ (e + p).toNat else (m : Int) / 2 ^ (-(e + p)).toNat
  let x := if s then -x else x
  let l := ln2Fx p
  let k := x / l
  let r := (x - k * l) / 2 ^ 16
  let y := 2 ^ p + expGo p r (2 ^ p) 1 (p / 16 + 4)
  (sqFx p 16 y, k)

/-- Guard bits of a working precision. -/
def guardBits : Nat := 96

/-- The bounds around a value known to within 2^48 units. -/
def around (v : Int) (e : Int) : Bounds := { lo := (v - 2 ^ 48).toNat, hi := (v + 2 ^ 48).toNat, e := e }

/-- Whether a dyadic magnitude is below 2^b. -/
def magBelow (m : Nat) (e b : Int) : Bool := decide ((m.log2 : Int) + e < b)

/-- e^x (rules R84, R94). -/
def expExact (x : Val) : Exact :=
  match x with
  | .nan a => .nan a
  | .inf s => if s then .num false 0 0 false else .inf false true
  | .num s m e =>
    if m = 0 then .num false 1 0 false
    else if !magBelow m e 11 then (if s then .num false 1 (-5000) true else .num false 1 5000 false)
    else if magBelow m e (-90) then (if s then .num false (2 ^ 90 - 1) (-90) true else .num false (2 ^ 90) (-90) true)
    else ziv (fun p => let r := expFx (p + guardBits) s m e; around r.1 (r.2 - (p + guardBits : Nat))) zivSteps

/-- The fixed-point logarithm of a positive dyadic number, `p` bits. -/
def lnFx (p : Nat) (m : Nat) (e : Int) : Int :=
  let l := m.log2
  -- m × 2^e = y × 2^k with y in [3/4, 3/2)
  let up := decide (3 * 2 ^ l ≤ 2 * m)
  let k : Int := l + e + (if up then 1 else 0)
  let d := l + (if up then 1 else 0)
  let num : Int := (m : Int) - 2 ^ d
  let den : Int := (m : Int) + 2 ^ d
  2 * atanhFx p (num * 2 ^ p / den) + k * ln2Fx p

/-- ln x (rules R81, R84, R87). -/
def logExact (x : Val) : Exact :=
  match x with
  | .nan a => .nan a
  | .inf s => if s then .nan true else .inf false true
  | .num s m e =>
    if m = 0 then .inf true false
    else if s then .nan true
    else if m = 2 ^ m.log2 ∧ (m.log2 : Int) + e = 0 then .num false 0 0 false
    else
      let neg := decide (lnFx 256 m e < 0)
      match ziv (fun p => around (lnFx (p + guardBits) m e).natAbs (-(p + guardBits : Nat) : Int)) zivSteps with
      | .num _ n k t => .num neg n k t
      | y => y

/-- tanh x (rule R84). -/
def tanhExact (x : Val) : Exact :=
  match x with
  | .nan a => .nan a
  | .inf s => .num s 1 0 false
  | .num s m e =>
    if m = 0 then .num s 0 0 false
    else if !magBelow m e 7 then .num s (2 ^ 90 - 1) (-90) true
    else if magBelow m e (-46) then .num s (m * 2 ^ 90 - 1) (e - 90) true
    else
      match ziv (fun p =>
        let w := p + guardBits
        let r := expFx w false m (e + 1)
        -- e^(2x) = r.1 × 2^(r.2 − w), r.2 ≥ 0
        let y := r.1 * 2 ^ r.2.toNat
        around ((y - 2 ^ w) * 2 ^ w / (y + 2 ^ w)) (-(w : Int))) zivSteps with
      | .num _ n k t => .num s n k t
      | y => y

/-- 1 ÷ (1 + e^−x) (rule R84). -/
def sigmoidExact (x : Val) : Exact :=
  match x with
  | .nan a => .nan a
  | .inf s => if s then .num false 0 0 false else .num false 1 0 false
  | .num s m e =>
    if m = 0 then .num false 1 (-1) false
    else if magBelow m e (-90) then (if s then .num false (2 ^ 90 - 1) (-91) true else .num false (2 ^ 90) (-91) true)
    else if !s ∧ !magBelow m e 7 then .num false (2 ^ 90 - 1) (-90) true
    else if s ∧ !magBelow m e 11 then .num false 1 (-5000) true
    else
      ziv (fun p =>
        let w := p + guardBits
        -- E = e^−|x| = r.1 × 2^(r.2 − w), r.2 ≤ 0
        let r := expFx w true m e
        let small := r.1 / 2 ^ (-r.2).toNat
        if s then around (r.1 * 2 ^ w / (2 ^ w + small)) (r.2 - w)
        else around (2 ^ w * 2 ^ w / (2 ^ w + small)) (-(w : Int))) zivSteps

/-- 1 ÷ x (rules R81, R84). -/
def recipExact (x : Val) : Exact := divExact (.num false 1 0) x

/-- The order of two values that are no NaNs, −0 below +0 (IEEE 754-2019 minimum and maximum). -/
def Val.lt (x y : Val) : Bool :=
  match x, y with
  | .nan _, _ => false
  | _, .nan _ => false
  | .inf a, .inf b => a && !b
  | .inf a, _ => a
  | _, .inf b => !b
  | .num s m e, .num t n k =>
    if m = 0 ∧ n = 0 then s && !t
    else
      let q := min e k
      decide (dyad s m e q < dyad t n k q)

/-- A value as an exact result. -/
def Val.exact (x : Val) : Exact :=
  match x with
  | .nan b => .nan b
  | .inf s => .inf s true
  | .num s m e => .num s m e false

/-- minimum and maximum (rule R84): a NaN operand gives NaN, and −0 is less than +0. -/
def minExact (x y : Val) : Exact :=
  if x.isNan || y.isNan then .nan (x.signals || y.signals) else (if y.lt x then y else x).exact

def maxExact (x y : Val) : Exact :=
  if x.isNan || y.isNan then .nan (x.signals || y.signals) else (if x.lt y then y else x).exact

/-- x = y as numbers: −0 equals +0. -/
def Val.eqNum (x y : Val) : Bool :=
  match x, y with
  | .inf a, .inf b => a == b
  | .num s m e, .num t n k => let q := min e k; dyad s m e q == dyad t n k q
  | _, _ => false

/-- A comparison (rule R84): `op` 0 EQ, 1 NE, 2 LT, 3 LE. Answers the truth and whether INVALID counts. -/
def cmpExact (op : Nat) (x y : Val) : Bool × Bool :=
  let unordered := x.isNan || y.isNan
  let sig := x.signals || y.signals
  let eq := x.eqNum y
  match op with
  | 0 => (eq, sig)
  | 1 => (!eq, sig)
  | 2 => (!unordered && !eq && x.lt y, unordered)
  | _ => (!unordered && (eq || x.lt y), unordered)

end Sys2Proof.Machine
end

