-- ==== Sys2Proof/Machine/FieldIo.lean ====
section
/-! DEFINITION. Machine/FieldIo.lean: encoders, sigma-delta inputs, PWM and time outputs (rules R139–R145). -/

namespace Sys2Proof.Machine

/-! Encoders (rules R139, R141). -/

def encBase (e : Nat) : Nat := 0x5A100 + 0x20 * e

def State.encSt (s : State) (e : Nat) : EncSt := Cells.get encReset s.edge.enc e

def State.setEnc (s : State) (e : Nat) (x : EncSt) : State :=
  { s with edge := { s.edge with enc := Cells.put encReset s.edge.enc e x } }

/-- The place of the levels (A, B) in the quadrature cycle 00, 10, 11, 01. DEDUCED, assumption 9. -/
def quadPhase (a b : Bool) : Nat :=
  match a, b with
  | false, false => 0
  | true, false => 1
  | true, true => 2
  | false, true => 3

/-- The step of COUNT that one accepted change makes (rules R139, R141): A leading B counts up; ×4 counts every edge, ×2
the edges of A, ×1 the rising edge of A upward and its falling edge downward (DEDUCED, assumption 9). -/
def quadStep (mode : Nat) (inv : Bool) (a b a' b' : Bool) : Int :=
  let up := (quadPhase a' b' + 4 - quadPhase a b) % 4 = 1
  let dir : Int := if up then 1 else -1
  let counted : Bool := match mode with
    | 3 => true
    | 2 => a != a'
    | 1 => a != a' && (if up then a' && !b' else !a' && !b')
    | _ => false
  if counted then (if inv then -dir else dir) else 0

/-- Whether the filter of encoder `e` accepts a level change that holds for `held` ticks (rule R139). -/
def State.encAccepts (s : State) (e held : Nat) : Bool := decide (s.rf (encBase e) 3 8 + 1 ≤ held)

/-- An accepted change of the levels of encoder `e` (rules R139, R141). DEDUCED, assumption 9. -/
def State.encEdge (s : State) (e : Nat) (a b : Bool) : State :=
  let x := s.encSt e
  let base := encBase e
  let cfg := s.reg base
  let mode := fld cfg 0 2
  let s := s.setEnc e { x with a := a, b := b }
  if mode = 0 then s
  else if a ≠ x.a ∧ b ≠ x.b then s.bumpFld (base + 16) 0 16
  else
    let d := quadStep mode (bit cfg 2) x.a x.b a b
    if (a = x.a ∧ b = x.b) ∨ d = 0 then s
    else
      let s := s.setReg (base + 4) (s.reg (base + 4) + i32 d)
      let s := match x.edgeAt with
        | some t => s.setReg (base + 12) (w32 (Nat.min 0xFFFFFFFF (s.time.ns - t)))
        | none => s
      s.setEnc e { a := a, b := b, edgeAt := some s.time.ns }

/-- An index edge (rule R139): a count step accepted on the same tick is applied first. -/
def State.encIndex (s : State) (e : Nat) (step : Option (Bool × Bool)) : State :=
  let s := match step with
    | some (a, b) => s.encEdge e a b
    | none => s
  let base := encBase e
  let cfg := s.reg base
  if !bit cfg 11 then s
  else
    let s := s.setReg (base + 8) (s.reg (base + 4))
    if bit cfg 12 then s.setReg (base + 4) 0 else s

/-! Sigma-delta inputs (rules R140, R141). -/

def sdBase (d : Nat) : Nat := 0x5A200 + 0x20 * d

/-- The weight of the bit `i` places before the newest in a sinc3 filter over `n` bits: the coefficient i of
(1 + z + … + zⁿ⁻¹)³. -/
def sinc3 (n i : Nat) : Nat :=
  let c := fun m => if i < m then 0 else (i - m + 1) * (i - m + 2) / 2
  c 0 + 3 * c (2 * n) - 3 * c n - c (3 * n)

/-- The filter's output over the bits held, newest last; a bit not yet received contributes nothing (rule R140). -/
def sdY (n : Nat) (bits : List Bool) : Int :=
  (bits.reverse.zipIdx).foldl (fun (acc : Int) p =>
    let w : Int := sinc3 n p.2
    if p.1 then acc + w else acc - w) 0

/-- SD_OUTPUT (rules R140, R141): the OSR bits since the last output enter the filter, which writes OUT and its stamp. The filter keeps its
bits while EN is 0 and through a change of OSR. DESIGN CHOICE, assumption 60. -/
def State.sdOutput (s : State) (d : Nat) (bits : List Bool) : State :=
  let base := sdBase d
  let cfg := s.reg base
  if !bit cfg 0 then s
  else
    let k := 4 + fld cfg 3 3
    let n := 2 ^ k
    let all := Cells.get [] s.edge.sdBits d ++ bits
    let keep := all.drop (all.length - (3 * n - 2))
    let s := { s with edge := { s.edge with sdBits := Cells.put [] s.edge.sdBits d keep } }
    let out := satS 32 (sdY n keep * ((2 ^ (31 - 3 * k) : Nat) : Int))
    (s.setReg (base + 4) (i32 out)).setReg (base + 8) s.stamp

/-- STUCK and its end (rule R140). -/
def State.sdStuck (s : State) (d : Nat) (v : Bool) : State :=
  if bit (s.reg (sdBase d)) 0 then s.setReg (sdBase d + 12) (w32 v.toNat) else s

/-! PWM and time outputs (rules R142–R145). -/

def pwmBase (k : Nat) : Nat := 0x5A300 + 0x20 * k

def State.pwm (s : State) (k : Nat) : PwmSt := Cells.get pwmReset s.edge.pwm k

def State.setPwm (s : State) (k : Nat) (x : PwmSt) : State :=
  { s with edge := { s.edge with pwm := Cells.put pwmReset s.edge.pwm k x } }

/-- Whether the compare of output `k` holds it active (rule R142). -/
def State.pwmActive (s : State) (k : Nat) : Bool :=
  let b := pwmBase k
  let x := s.pwm k
  let c := x.ctr.toNat
  let d := x.duty.toNat
  let period := (s.reg (b + 4)).toNat
  match s.rf b 0 2 with
  | 1 => c < d
  | 2 => if period ≤ d then true else
      let a := (period - d) / 2
      a ≤ c && c < a + d
  | _ => false

/-- ACT_EN bit `k` and a mode that is not off: the mode sets the pad (rules R144, R145). -/
def State.pwmDriving (s : State) (k : Nat) : Bool := s.rf (pwmBase k) 0 2 != 0 && bit (s.reg 0x5A600) k

/-- The pad level of output `k` (rules R142, R144, R145). -/
def State.pwmPad (s : State) (k : Nat) : Bool :=
  let cfg := s.reg (pwmBase k)
  let idle := bit cfg 2
  if !s.pwmDriving k then idle
  else if fld cfg 0 2 = 3 then
    match (s.pwm k).edge with
    | none => idle
    | some l => l != bit cfg 3
  else s.pwmActive k != bit cfg 3

/-- PSTAT of output `k` (rule R145). -/
def State.pstat (s : State) (k : Nat) : Word := w32 ((s.pwmDriving k).toNat + (s.pwmPad k).toNat * 2)

/-- The pad level of TOUT `t` (rule R145). -/
def State.toutPad (s : State) (t : Nat) : Bool := (Cells.get none s.edge.tout t).getD (bit (s.reg 0x5A604) t)

/-- A new duty value of output `k`, from a register write or a loop channel (rules R142, R143). -/
def State.pwmDuty (s : State) (k : Nat) (v : Nat) : State :=
  let b := pwmBase k
  let s := s.setReg (b + 8) (w32 (v % 2 ^ 24))
  let cfg := s.reg b
  let x := s.pwm k
  if fld cfg 0 2 = 1 ∧ bit cfg 4 ∧ x.ctr < x.duty then s.setPwm k { x with next := some (BitVec.ofNat 24 v) } else s

/-- A new period begins: the counter is 0 and the DUTY written last applies (rules R142, R143). -/
def State.pwmRestart (s : State) (k : Nat) : State :=
  s.setPwm k { s.pwm k with ctr := 0, next := none, duty := BitVec.ofNat 24 (s.reg (pwmBase k + 8)).toNat }

/-- Whether the counter of output `k` ends its period at this tick (rule R142). -/
def State.pwmEnds (s : State) (k : Nat) : Bool :=
  let x := s.pwm k
  !x.sync && (s.reg (pwmBase k + 4)).toNat ≤ x.ctr.toNat + 1

/-- PWM_PERIOD_END (rule R142): a counter that stands at PERIOD − 1 or above restarts. -/
def State.pwmPeriodEnd (s : State) (k : Nat) : State := if s.pwmEnds k then s.pwmRestart k else s

/-- One tick of the counter of output `k`: a duty that waited for it applies, and a PWM_SYNC load or one count; the end of a period is a
command of its own. A PWM_SYNC load begins no new period. DESIGN CHOICE, assumption 60. -/
def State.pwmTick (s : State) (k : Nat) : State :=
  let x := s.pwm k
  let x := { x with duty := x.next.getD x.duty, next := none }
  if x.sync then s.setPwm k { x with ctr := BitVec.ofNat 24 (s.reg (pwmBase k + 12)).toNat, sync := false }
  else if s.pwmEnds k then s.setPwm k x
  else s.setPwm k { x with ctr := x.ctr + 1 }

/-- PWM_SYNC (rule R145): the counters of the mask load PHASE on the next tick. -/
def State.pwmSyncWrite (s : State) (mask : Nat) : State :=
  (ones 24 mask).foldl (fun s k => s.setPwm k { s.pwm k with sync := true }) s

/-- A write of PCFG (rules R142, R145): entering timed-edge mode forgets the last edge. -/
def State.writePcfg (s : State) (k : Nat) (v : Word) : Nat × State :=
  let b := pwmBase k
  if !s.grade.loops.getLsbD (fld v 6 5) then (cARG, s)
  else
    let s := if fld v 0 2 = 3 ∧ s.rf b 0 2 ≠ 3 then s.setPwm k { s.pwm k with edge := none } else s
    (cOK, s.setReg b (v &&& 0x7FF))

/-- A register write of DUTY (rules R143, R145): the loop owns DUTY while LOOP is 1. -/
def State.writeDuty (s : State) (k : Nat) (v : Word) : Nat × State :=
  if bit (s.reg (pwmBase k)) 5 then (cARG, s) else (cOK, s.pwmDuty k (fld v 0 24))

/-- The OUTPUT_EDGE action (rule R111). -/
def State.outputEdge (s : State) (idx : Nat) (level : Bool) : Nat × State :=
  if !(idx < 24 || (32 ≤ idx && idx < 40)) then (cARG, s)
  else if s.domain 31 ≠ 2 then (cOFF_DOMAIN, s)
  else if idx < 24 then
    if s.rf (pwmBase idx) 0 2 = 3 then (cOK, s.setPwm idx { s.pwm idx with edge := some level }) else (cARG, s)
  else (cOK, { s with edge := { s.edge with tout := Cells.put none s.edge.tout (idx - 32) (some level) } })

end Sys2Proof.Machine
end

