-- ==== Sys2Proof/Machine/Crypto.lean ====
section
/-! DEFINITION. Machine/Crypto.lean: CRC-32C (RFC 3720), SHA-256 (FIPS 180-4) and HMAC-SHA-256 (RFC 2104), as rules R367,
R385, R389, R395–R403 and R448 name them. -/

namespace Sys2Proof.Machine

/-- Eight steps of the reflected CRC-32C register. -/
def crcBits (n c : Nat) : Nat :=
  match n with
  | 0 => c
  | k + 1 => crcBits k (if c % 2 = 1 then c / 2 ^^^ 0x82F63B78 else c / 2)

/-- CRC-32C of a list of bytes (RFC 3720). -/
def crc32c (bs : List Byte) : Nat :=
  bs.foldl (fun c b => crcBits 8 (c ^^^ b.toNat)) 0xFFFFFFFF ^^^ 0xFFFFFFFF

/-- The eight 32-bit words of a 256-bit number, the most significant first. -/
def octet (x : Nat) : List Word := (List.range 8).map fun i => BitVec.ofNat 32 (x >>> (32 * (7 - i)))

/-- The constants of SHA-256's 64 rounds, eight to a row. -/
def shaK : List Word := [
  0x428A2F9871374491B5C0FBCFE9B5DBA53956C25B59F111F1923F82A4AB1C5ED5,
  0xD807AA9812835B01243185BE550C7DC372BE5D7480DEB1FE9BDC06A7C19BF174,
  0xE49B69C1EFBE47860FC19DC6240CA1CC2DE92C6F4A7484AA5CB0A9DC76F988DA,
  0x983E5152A831C66DB00327C8BF597FC7C6E00BF3D5A7914706CA635114292967,
  0x27B70A852E1B21384D2C6DFC53380D13650A7354766A0ABB81C2C92E92722C85,
  0xA2BFE8A1A81A664BC24B8B70C76C51A3D192E819D6990624F40E3585106AA070,
  0x19A4C1161E376C082748774C34B0BCB5391C0CB34ED8AA4A5B9CCA4F682E6FF3,
  0x748F82EE78A5636F84C878148CC7020890BEFFFAA4506CEBBEF9A3F7C67178F2].flatMap octet

/-- The hash value before the first block. -/
def shaH : List Word := octet 0x6A09E667BB67AE853C6EF372A54FF53A510E527F9B05688C1F83D9AB5BE0CD19

/-- A word's rotations to the right by some amounts, added bit by bit. -/
def turns (x : Word) (rs : List Nat) : Word := rs.foldl (fun acc r => acc ^^^ x.rotateRight r) 0

/-- One round with the constant and the message word already summed into `kw`: two of the eight words are new, and the others
move on by one. -/
def shaRound (kw : Word) (h : List Word) : List Word :=
  let v := fun i => h.getD i 0
  let choice := v 6 ^^^ (v 4 &&& (v 5 ^^^ v 6))
  let most := (v 0 &&& v 1) ||| (v 2 &&& (v 0 ||| v 1))
  let t := kw + v 7 + choice + turns (v 4) [6, 11, 25]
  (t + most + turns (v 0) [2, 13, 22]) :: h.take 3 ++ (v 3 + t) :: (h.drop 4).take 3

/-- The rounds of a block, one for each constant: the message schedule runs beside them as the next sixteen words, the oldest first. -/
def shaRounds (ks : List Word) (next : List Word) (h : List Word) : List Word :=
  match ks with
  | [] => h
  | k :: rest =>
    let m := fun i => next.getD i 0
    let new := m 0 + m 9 + (turns (m 1) [7, 18] ^^^ m 1 >>> 3) + (turns (m 14) [17, 19] ^^^ m 14 >>> 10)
    shaRounds rest (next.tail ++ [new]) (shaRound (k + m 0) h)

/-- The big-endian words of a block. -/
def blockWords (block : List Byte) : List Word :=
  (List.range 16).map fun i => BitVec.ofNat 32 (beNat ((block.drop (4 * i)).take 4))

/-- The hash value after `n` blocks more. -/
def shaBlocks (n : Nat) (h : List Word) (bs : List Byte) : List Word :=
  match n with
  | 0 => h
  | k + 1 => shaBlocks k (List.zipWith (· + ·) (shaRounds shaK (blockWords bs) h) h) (bs.drop 64)

/-- SHA-256 (FIPS 180-4). -/
def sha256 (bs : List Byte) : List Byte :=
  let n := bs.length
  let pad := (119 - n % 64) % 64
  let m := bs ++ [0x80] ++ List.replicate pad 0 ++ beBytes 8 (8 * n)
  (shaBlocks (m.length / 64) shaH m).flatMap fun w => beBytes 4 w.toNat

/-- HMAC-SHA-256 (RFC 2104). -/
def hmac (key msg : List Byte) : List Byte :=
  let k := if 64 < key.length then sha256 key else key
  let k := k ++ List.replicate (64 - k.length) 0
  sha256 (k.map (· ^^^ 0x5C) ++ sha256 (k.map (· ^^^ 0x36) ++ msg))

end Sys2Proof.Machine
end

