-- ==== Sys2Proof/Machine/Headgate.lean ====
section
/-! DEFINITION. Machine/Headgate.lean: contexts, command lists, completion records, the replay ledger, invocations,
teardown and accounting (rules R198, R199, R321–R328, R342–R353, R361–R367). -/

namespace Sys2Proof.Machine

/-! Per-context registers and accounts (rules R351, R354, R366). -/

/-- A context's register after reset: sixteen slots in each ring, and no INVALID capture. -/
def hgInit (off : Nat) : Word :=
  if off = 0x148 ∨ off = 0x30C then 16 else if 0x200 ≤ off ∧ off ≤ 0x210 then 0xFFFFFFFF else 0

def State.hg (s : State) (c off : Nat) : Word := Cells.get (hgInit off) s.head.hg (0x1000 * c + off)

def State.setHg (s : State) (c off : Nat) (v : Word) : State :=
  { s with head := { s.head with hg := Cells.put (hgInit off) s.head.hg (0x1000 * c + off) v } }

/-- Accounting word `w` of a context (rule R351). -/
def acctOff (w : Nat) : Nat := 0x180 + 4 * w

/-- The 64-bit accounting field at words `w` and `w + 1` raised by `n`, saturating. -/
def State.acct64 (s : State) (c w n : Nat) : State :=
  let v := satAdd (2 ^ 64 - 1) ((s.hg c (acctOff w)).toNat + 2 ^ 32 * (s.hg c (acctOff (w + 1))).toNat) n
  (s.setHg c (acctOff w) (w32 v)).setHg c (acctOff (w + 1)) (w32 (v / 2 ^ 32))

/-- The 32-bit accounting word `w` raised by `n`, saturating. -/
def State.acct32 (s : State) (c w n : Nat) : State := s.setHg c (acctOff w) (satInc (s.hg c (acctOff w)) n)

/-- The 16-bit accounting field at bit `lo` of word `w` raised by one, saturating. -/
def State.acct16 (s : State) (c w lo : Nat) : State :=
  let v := s.hg c (acctOff w)
  s.setHg c (acctOff w) (setFld v lo 16 (satAdd 0xFFFF (fld v lo 16) 1))

/-! Descriptors (rules R181, R200, R235, R258, R326). -/

/-- The classes of engines (rule R326). -/
inductive EngClass where
  | tile | vector | pump | solver | map
deriving DecidableEq, Repr

/-- The class of an engine code, if it names an engine. -/
def engClass (e : Nat) : Option EngClass :=
  if e < 0x10 then some .tile else if e < 0x20 then some .vector else if e < 0x40 then some .pump
  else if e < 0x48 then some .solver else if e = 0x48 then some .map else none

/-- The words of a descriptor of a class. -/
def EngClass.words (k : EngClass) : Nat := if k = .pump then 8 else 16

/-- Word `i` of a descriptor. -/
def dw (d : List Word) (i : Nat) : Word := d.getD i 0

/-- The wait words of a descriptor and its signal words. -/
def EngClass.waitAt (k : EngClass) : List Nat :=
  match k with
  | .pump => [4]
  | .solver => [6, 7]
  | _ => [12, 13]

def EngClass.sigAt (k : EngClass) : List Nat :=
  match k with
  | .pump => [5]
  | .solver => [8, 9]
  | _ => [14, 15]

/-- The enabled gates with their counts at some words of a descriptor (rule R181, words 12–15). -/
def gatesAt (d : List Word) (ws : List Nat) : List (Nat × Nat) :=
  (ws.filter fun i => bit (dw d i) 17).map fun i => (fld (dw d i) 0 17, fld (dw d i) 18 14)

/-- The LCN of a descriptor. -/
def EngClass.lcn (k : EngClass) (d : List Word) : Nat := fld (dw d (if k = .pump then 7 else 1)) 0 24

/-- The INT bit of a descriptor. -/
def EngClass.int (k : EngClass) (d : List Word) : Bool :=
  bit (dw d 0) (match k with
    | .pump | .solver => 4
    | _ => 22)

/-- OPCODE of a descriptor's completion record (rules R198, R237, R260). -/
def EngClass.opcode (k : EngClass) (d : List Word) : Nat :=
  match k with
  | .pump => 0x80 + fld (dw d 0) 0 4
  | .solver => 0xC0 + fld (dw d 0) 0 4
  | _ => fld (dw d 0) 0 8

/-! Completion records (rules R198, R199). -/

/-- A completion record before its context, step and stamps. -/
structure Rec where
  code : Nat
  opcode : Nat
  lcn : Nat
  phys : Nat
  skipped : Bool
  w4 : Nat
  w5 : Nat
  w6 : Nat
  row : Nat
  col : Nat
  run : Nat
  start : Word
  stop : Word
  bytes : Nat
deriving DecidableEq, Repr

/-- A record of a command that was refused, or faulted, or did not run (rule R199). -/
def recOf (code opcode lcn : Nat) (start stop : Word) : Rec :=
  { code := code, opcode := opcode, lcn := lcn, phys := 0, skipped := false, w4 := 0, w5 := 0, w6 := 0, row := 0xFFFF,
    col := 0xFFFF, run := 0xFFFF, start := start, stop := stop, bytes := 0 }

/-- The sixteen words of a record. -/
def Rec.words (r : Rec) (c : Nat) (step : DWord) : List Word :=
  let sat := fun n => w32 (Nat.min n 0xFFFFFFFF)
  [w32 (r.code + r.opcode * 256 + c * 65536 + r.phys * 2 ^ 24 + r.skipped.toNat * 2 ^ 29), w32 r.lcn, w32 step.toNat,
    w32 (step.toNat / 2 ^ 32), sat r.w4, sat r.w5, sat r.w6, w32 (r.row + r.col * 65536), w32 r.run, r.start, r.stop,
    sat r.bytes, 0, 0, 0, 0]

/-- The bytes of a list of words. -/
def wordBytes (ws : List Word) : List Byte := ws.flatMap fun w => leBytes 4 w.toNat

/-- The word of a list of bytes at `i`. -/
def wordAt (bs : List Byte) (i : Nat) : Word := w32 (leNat ((bs.drop i).take 4))

/-- The words that `4n` bytes hold. -/
def bytesWords (n : Nat) (bs : List Byte) : List Word :=
  match n with
  | 0 => []
  | k + 1 => wordAt bs 0 :: bytesWords k (bs.drop 4)

/-- One 64-byte slot written to a ring of the context: the completion ring's registers start at 0x140, those of the
ledger stand at 0x304 (rules R119, R120, R354, R361). Answers whether it was written. DESIGN CHOICE, assumption 53. -/
def State.slotWrite (s : State) (base slots wc rc : Nat) (bs : List Byte) : Option State :=
  if slots ≤ (wc + 2 ^ 32 - rc) % 2 ^ 32 then none
  else
    let r := s.dramSet none (base + wc % slots * 64) bs
    if r.1 = cOK then some r.2 else none

/-- A record written to the completion ring (rule R354). -/
def State.crWrite (s : State) (c : Nat) (ws : List Word) : State :=
  let base := fld (s.hg c 0x144) 0 4 * 2 ^ 32 + (s.hg c 0x140).toNat
  let wc := s.hg c 0x14C
  match s.slotWrite base (s.hg c 0x148).toNat wc.toNat (s.hg c 0x150).toNat (wordBytes ws) with
  | some s => s.setHg c 0x14C (wc + 1)
  | none => (s.setHg c 0x154 (satInc (s.hg c 0x154) 1)).intRaise .headgate 8

/-- An entry written to the replay ledger (rule R363); one that is not written counts in RP_LOST and, unless it is the END
entry, in the invocation's LOST. -/
def State.ledgerWrite (s : State) (c : Nat) (ws : List Word) : State :=
  let base := fld (s.hg c 0x308) 0 4 * 2 ^ 32 + (s.hg c 0x304).toNat
  let wc := s.hg c 0x310
  match s.slotWrite base (s.hg c 0x30C).toNat wc.toNat (s.hg c 0x314).toNat (wordBytes ws) with
  | some s => s.setHg c 0x310 (wc + 1)
  | none =>
    let s := s.setHg c 0x318 (satInc (s.hg c 0x318) 1)
    let x := s.ctx c
    s.setCtx c { x with ledgerLost := x.ledgerLost + 1 }

/-- A ledger entry (rule R362): KIND, CODE, LCN, PART and the words from word 4 on. -/
def ledgerEntry (c kind code lcn part : Nat) (step : DWord) (ws : List Word) : List Word :=
  let l := [w32 (kind + code * 256 + c * 65536), w32 (lcn + part * 2 ^ 24), w32 step.toNat, w32 (step.toNat / 2 ^ 32)] ++ ws
  l ++ List.replicate (16 - l.length) 0

/-- RP_CTRL.MODE of a context: 0 OFF, 1 RECORD, 2 REPLAY. -/
def State.rpMode (s : State) (c : Nat) : Nat := fld (s.hg c 0x300) 0 2

/-- The first logged entry of a kind, a command and a part, taken out of the invocation's entries (rule R364). -/
def State.replayTake (s : State) (c kind lcn part : Nat) : Option (List Word × State) :=
  let x := s.ctx c
  match x.replay.findIdx? fun e => fld (dw e 0) 0 4 = kind ∧ dw e 1 = w32 (lcn + part * 2 ^ 24) with
  | none => none
  | some i => some (x.replay.getD i [], s.setCtx c { x with replay := x.replay.eraseIdx i })

/-- One entry written in RECORD mode (rule R363). -/
def State.logEntry (s : State) (c kind code lcn part : Nat) (ws : List Word) : State :=
  if s.rpMode c = 1 then s.ledgerWrite c (ledgerEntry c kind code lcn part (s.ctx c).step ws) else s

/-- The audit contribution of a record (rule R367): word 0 without PHYS and SKIPPED, words 1 to 8. -/
def auditCrc (ws : List Word) : Word :=
  w32 (crc32c (wordBytes ((dw ws 0 &&& 0xC0FFFFFF) :: (ws.drop 1).take 8)))

/-- The INVALID capture of a context takes a record with INV_CNT above 0 whose (step, LCN) is lower (rule R92). -/
def State.invCapture (s : State) (c : Nat) (r : Rec) : State :=
  if r.w6 = 0 then s
  else
    let step := (s.ctx c).step
    let held := s.hg c 0x208
    let key := step.toNat * 2 ^ 24 + r.lcn
    let old := ((s.hg c 0x204).toNat * 2 ^ 32 + (s.hg c 0x200).toNat) * 2 ^ 24 + held.toNat
    if held ≠ 0xFFFFFFFF ∧ old ≤ key then s
    else
      let s := (s.setHg c 0x200 (w32 step.toNat)).setHg c 0x204 (w32 (step.toNat / 2 ^ 32))
      let s := (s.setHg c 0x208 (w32 r.lcn)).setHg c 0x20C (w32 (r.row + r.col * 65536))
      s.setHg c 0x210 (w32 r.run)

/-- The completion record of a command of a context (rules R90, R92, R198, R325, R367). `flush` is its FLUSH_CNT, which word 5
of a map, estimation or solve record is not (rules R230, R237, R280). -/
def State.record (s : State) (c : Nat) (r : Rec) (flush : Nat) : State :=
  let x := s.ctx c
  let ws := r.words c x.step
  let s := s.crWrite c ws
  let x := s.ctx c
  let add := fun a b => satAdd 0xFFFFFFFF a (Nat.min b 0xFFFFFFFF)
  let s := s.setCtx c { x with
    digest := x.digest + auditCrc ws
    sums := (add x.sums.1 r.w4, add x.sums.2.1 flush, add x.sums.2.2 r.w6) }
  let s := ((s.acct64 c 20 r.w4).acct64 c 22 flush).acct64 c 24 r.w6
  s.invCapture c r

/-! Heads of lists (rules R327, R328, R335, R340). -/

/-- The members that a context's lists run for: one pass for a fixed context, one for each latched member otherwise. DEDUCED, assumption 47. -/
def State.members (s : State) (c : Nat) : List Nat :=
  if (s.ctx c).batch then ones 24 (s.hg c 0x138).toNat else [0]

/-- The descriptors that one invocation issues from list `i`. -/
def State.listTotal (s : State) (c i : Nat) : Nat :=
  match (s.ctx c).lists[i]? with
  | some l => l.descs.length * (s.members c).length
  | none => 0

/-- The engine code of a list under the placement in force (rule R335). -/
def State.listEngine (s : State) (c i : Nat) : Nat :=
  let x := s.ctx c
  match x.lists[i]? with
  | none => 0x49
  | some l =>
    if l.code < 0x20 then (l.code / 16) * 16 + (x.places.getD x.placement []).getD (l.code % 16) 0 else l.code

/-- The next descriptor of list `i` with its member. -/
def State.listHead (s : State) (c i : Nat) : Option (List Word × Nat) :=
  let x := s.ctx c
  let n := x.issued.getD i 0
  match x.lists[i]? with
  | none => none
  | some l =>
    if l.descs.length = 0 then none
    else
      match (s.members c)[n / l.descs.length]? with
      | none => none
      | some m => (l.descs[n % l.descs.length]?).map fun d => (d, m)

/-- The contexts that issue commands: RUNNING and not in teardown, with their numbers. -/
def State.live (s : State) : List (Nat × Ctx) :=
  s.head.ctxs.filter fun p => p.2.state = .running ∧ p.2.tearing = none

/-- The class of a list's engine. -/
def listClass (code : Nat) : EngClass := (engClass code).getD .tile

/-- The enabled waits of the head of list `i`. DEDUCED, assumption 29. -/
def State.headWaits (s : State) (c i : Nat) : List (Nat × Nat) :=
  match (s.ctx c).lists[i]?, s.listHead c i with
  | some l, some (d, _) => gatesAt d (listClass l.code).waitAt
  | _, _ => []

/-- Whether a wait holds the command back: neither satisfied nor on a free gate, which refuses it (rules R342, R346). -/
def State.waitHolds (s : State) (w : Nat × Nat) : Bool :=
  s.gateOwner w.1 ≠ 0x7E ∧ (s.gate w.1).count.toNat < w.2

/-- Whether the head of list `i` is ready (rule R328). -/
def State.headReady (s : State) (c i : Nat) : Bool :=
  (s.listHead c i).isSome && (s.headWaits c i).all fun w => !s.waitHolds w

/-- The next pointer of list `i` advances. -/
def State.issue (s : State) (c i : Nat) : State :=
  let x := s.ctx c
  s.setCtx c { x with issued := x.issued.set i (x.issued.getD i 0 + 1), waits := Cells.put none x.waits i none }

/-! The end of an invocation (rules R325, R363, R365, R367). -/

/-- Whether every command of the context's lists has been issued. -/
def State.allIssued (s : State) (c : Nat) : Bool :=
  (List.range (s.ctx c).lists.length).all fun i => s.listTotal c i ≤ (s.ctx c).issued.getD i 0

/-- The end record's CODE (rule R325). -/
def endCode (x : Ctx) : Nat :=
  if x.abandoned then cABANDONED else if x.timedOut then cTIMEOUT else if x.missed then cDEADLINE_MISS else cOK

/-- The comparison of a replayed invocation with its END entry (rule R365). -/
def State.replayEnd (s : State) (c code : Nat) : State :=
  let x := s.ctx c
  match x.replayEnd with
  | none => s
  | some e =>
    if fld (dw e 0) 8 8 = code ∧ dw e 4 = x.digest ∧ dw e 5 = 0 then s.setHg c 0x328 (s.hg c 0x328 + 1)
    else
      let s := if bit (s.hg c 0x31C) 0 then s
        else (s.setHg c 0x320 (w32 x.step.toNat)).setHg c 0x324 (w32 (x.step.toNat / 2 ^ 32))
      (s.setHg c 0x31C (s.hg c 0x31C ||| 1)).intRaise .headgate 10

/-- What every end of an invocation does, by its last command or by teardown: the END entry or the comparison with the logged one,
AUDIT_LAST and INVOCATIONS (rules R323, R351, R363, R365, R367); `code` is the end CODE. -/
def State.closeInvocation (s : State) (c code : Nat) : State :=
  let x := s.ctx c
  let s := if s.rpMode c = 1
    then s.ledgerWrite c (ledgerEntry c 6 code 0xFFFFFF 0 x.step [x.digest, w32 (s.ctx c).ledgerLost]) else s
  let s := if s.rpMode c = 2 then s.replayEnd c code else s
  let s := (s.setHg c 0x32C x.digest).acct64 c 2 1
  s.setCtx c { s.ctx c with replay := [], replayEnd := none }

/-- The invocation ends: end record, ledger, accounts, ADMITTED (rules R321, R325). -/
def State.endInvocation (s : State) (c : Nat) : State :=
  let x := s.ctx c
  let mask := if x.batch then (s.hg c 0x138).toNat else 0
  let r := { recOf (endCode x) 0xF0 0xFFFFFF s.stamp s.stamp with
    w4 := x.sums.1, w5 := x.sums.2.1, w6 := x.sums.2.2, row := mask % 65536, col := mask / 65536 }
  let s := (s.crWrite c (r.words c x.step)).closeInvocation c (endCode x)
  s.setCtx c { s.ctx c with state := .admitted }

/-- Whether an engine runs a command of context `c`. -/
def State.ctxRuns (s : State) (c : Nat) : Bool :=
  s.head.running.any fun p => p.2.any fun q => q.head.c == c

/-- The invocation ends once every command of it has been issued and none runs (rule R323). -/
def State.maybeEnd (s : State) (c : Nat) : State :=
  let x := s.ctx c
  if x.state = .running ∧ x.tearing = none ∧ s.allIssued c ∧ !s.ctxRuns c then s.endInvocation c else s

/-! Abandonment and timeouts (rules R343, R344). -/

/-- ABANDON set on a gate that is no system gate. -/
def State.abandonGate (s : State) (g : Nat) : State :=
  match s.gateCtx g with
  | none => s
  | some _ => if g < 1024 then s else s.setGate g { s.gate g with abandon := true }

/-- The head of list `i` of context `c` does not run: it writes its record with `code`, ABANDONED or TIMEOUT, and abandons
the gates it would have signalled. -/
def State.skipHead (s : State) (c i code : Nat) : State :=
  match (s.ctx c).lists[i]?, s.listHead c i with
  | some l, some (d, _) =>
    let k := listClass l.code
    let s := s.record c (recOf code (k.opcode d) (k.lcn d) s.stamp s.stamp) 0
    let s := if k.int d then s.intRaise .headgate 0 else s
    let s := (gatesAt d k.sigAt).foldl (fun s g => s.abandonGate g.1) s
    let x := s.ctx c
    let s := s.setCtx c (if code = cABANDONED then { x with abandoned := true } else { x with timedOut := true })
    let s := s.acct16 c 28 (if code = cABANDONED then 0 else 16)
    let s := (s.intRaise .headgate (if code = cABANDONED then 4 else 5)).lastCode .headgate code
    (s.issue c i).maybeEnd c
  | _, _ => s

/-- A head that waits on an abandoned gate, if there is one. DEDUCED, assumption 29. -/
def State.abandonedHead (s : State) : Option (Nat × Nat) :=
  s.live.findSome? fun p =>
    ((List.range p.2.lists.length).find? fun i => (s.headWaits p.1 i).any fun w => s.gateAbandoned w.1).map fun i => (p.1, i)

/-- Every head that waits on an abandoned gate is passed over, `n` heads at most. -/
def State.sweepGo (n : Nat) (s : State) : State :=
  match n with
  | 0 => s
  | k + 1 =>
    match s.abandonedHead with
    | none => s
    | some (c, i) => State.sweepGo k (s.skipHead c i cABANDONED)

/-- Every head that waits on an abandoned gate ends with ABANDONED, and so on along the graph (rule R344). DEDUCED, assumption 29. -/
def State.sweep (s : State) : State :=
  s.sweepGo (s.live.foldl (fun n p =>
    n + (List.range p.2.lists.length).foldl (fun n i => n + (s.listTotal p.1 i - p.2.issued.getD i 0)) 0) 0)

/-! Starts (rules R323, R337, R340, R361–R364, R368). -/

/-- The gates that an invocation start or a RESTART restores (rules R323, R350); unlisted gates hold 0, which is also
their G_INIT. -/
def State.restoreGates (s : State) (c : Nat) (all : Bool) : State :=
  let x := s.ctx c
  let s := s.gates.foldl (fun s p =>
    let g := s.gate p.1
    if x.gateBase ≤ p.1 ∧ p.1 < x.gateBase + x.gateCnt ∧ (all ∨ g.resetInv ∨ g.abandon ∨ x.abandonAll) then
      s.setGate p.1 { g with count := g.init, abandon := false }
    else s) s
  s.setCtx c { s.ctx c with abandonAll := false }

/-- The image basins that a context uses. -/
def usedBasins (x : Ctx) : List Nat :=
  (List.range 16).filter fun b => x.lists.any (fun l => l.code < 0x20 && l.code % 16 == b) || x.regions.any (·.basin == b)

/-- The logical basin of an image basin under placement `p`. -/
def placed (x : Ctx) (p b : Nat) : Nat := (x.places.getD p []).getD b 0

/-- The physical unit that serves a logical basin or lane: the word of the repair map with STATE MAPPED and that LOGICAL
(rules R174, R285, R448). -/
def State.physOf (s : State) (lane : Bool) (logical : Nat) : Option Nat :=
  (List.range (if lane then 9 else 18)).find? fun p =>
    let w := s.rm (if lane then laneWord p else basinWord p)
    fld w 0 2 == 1 && fld w 8 4 == logical

/-- The key of a fenced basin, or of a fenced lane. -/
def fenceKey (lane : Bool) (logical : Nat) : Nat := if lane then 16 + logical else logical

def State.isFenced (s : State) (lane : Bool) (logical : Nat) : Bool := s.head.fenced.contains (fenceKey lane logical)

/-- The source address of a resident-skippable load from LPDDR6 into a cistern (rule R160) and the destination basin and range. -/
def loadOf (x : Ctx) (d : List Word) (member : Nat) : Option (Nat × Nat × Nat × Nat) :=
  let w := dw d 0
  let win := fun n => (Cells.get none x.bound (n + member * x.wpm))
  if (fld w 0 4 = 1 ∨ fld w 0 4 = 2) ∧ bit w 5 then
    match win (fld (dw d 1) 0 8), win (fld (dw d 1) 8 8) with
    | some a, some b =>
      match a.basin, b.basin with
      | none, some lb => some (a.base + (dw d 2).toNat, lb, b.base + (dw d 3).toNat, fld (dw d 1) 16 16 * fld (dw d 6) 16 16 + fld w 8 24)
      | _, _ => none
    | _, _ => none
  else none

/-- The region of a context that holds a range of a logical basin under placement `p`. -/
def regionAt (x : Ctx) (p lb ofs n : Nat) : Option Region :=
  x.regions.find? fun r => placed x p r.basin = lb ∧ r.ofs ≤ ofs ∧ ofs + n ≤ r.ofs + r.size

/-- The image that holds a context. -/
def State.imageOf (s : State) (c : Nat) : Option Image := s.head.images.find? fun i => i.ctxs.contains c

/-- The tag that a load of a context would leave, if it lies in one of the context's regions. -/
def State.loadTag (s : State) (c p : Nat) (l : Nat × Nat × Nat × Nat) : Option Tag :=
  (regionAt (s.ctx c) p l.2.1 l.2.2.1 l.2.2.2).map fun r =>
    { ctx := c, basin := l.2.1, ofs := r.ofs, size := r.size, digest := ((s.imageOf c).map (·.digest)).getD [], src := l.1 }

/-- Whether a load is resident: its region's tag still holds the same image, context, region and source. -/
def State.resident (s : State) (c p : Nat) (l : Nat × Nat × Nat × Nat) : Bool :=
  match s.loadTag c p l with
  | some t => s.head.tags.contains t
  | none => false

/-- The resident-skippable loads of a context whose tag holds under placement `p` (rule R337). -/
def State.residentCount (s : State) (c p : Nat) : Nat :=
  let x := s.ctx c
  (x.lists.flatMap fun l => if listClass l.code = .pump then l.descs else []).countP fun d =>
    match loadOf x d 0 with
    | some l => s.resident c p l
    | none => false

/-- The placement of an invocation (rule R337). -/
def State.pickPlacement (s : State) (c : Nat) : Nat :=
  let x := s.ctx c
  let ok := (List.range x.places.length).filter fun p =>
    (usedBasins x).all fun b => (s.physOf false (placed x p b)).isSome && !s.isFenced false (placed x p b)
  (ok.foldl (fun (best : Option (Nat × Nat)) p =>
    let n := s.residentCount c p
    match best with
    | none => some (p, n)
    | some (q, k) => if k < n then some (p, n) else some (q, k)) none).map (·.1) |>.getD 0

/-- The ledger entries from RP_RCOUNT to the next END entry, `n` at most, with the state that has read them (rules R207,
R364). -/
def State.ledgerTake (n : Nat) (s : State) (c rc : Nat) : Option (List (List Word)) × State :=
  match n with
  | 0 => (none, s)
  | k + 1 =>
    if rc = (s.hg c 0x310).toNat then (none, s)
    else
      let base := fld (s.hg c 0x308) 0 4 * 2 ^ 32 + (s.hg c 0x304).toNat
      let a := base + rc % (s.hg c 0x30C).toNat * 64
      let r := s.dramGet none a 64
      if r.1 ≠ cOK then (none, r.2.2)
      else
        let e := bytesWords 16 r.2.1
        if fld (dw e 0) 0 4 = 6 then (some [e], r.2.2)
        else
          let t := State.ledgerTake k r.2.2 c ((rc + 1) % 2 ^ 32)
          (t.1.map fun l => e :: l, t.2)

/-- The invocation begins (rule R323); `t7` is the arrival of its start on TC7. -/
def State.begin (s : State) (c t7 : Nat) : Nat × State :=
  let x := s.ctx c
  let step := x.step + 1
  let replayed := s.rpMode c == 2
  let taken := if replayed then s.ledgerTake 256 c (s.hg c 0x314).toNat else (none, s)
  let entries := taken.1
  let s := taken.2
  let good : Bool := match entries with
    | none => false
    | some l => l.all fun e => dw e 2 = w32 step.toNat ∧ dw e 3 = w32 (step.toNat / 2 ^ 32)
  if replayed && !good then (cARG, s.setHg c 0x31C (s.hg c 0x31C ||| 2))
  else
    let l := if replayed then entries.getD [] else []
    let s := if replayed then s.setHg c 0x314 (s.hg c 0x314 + w32 l.length) else s
    let s := s.setCtx c { x with
      state := .running, step := step, pend := none, missed := false, abandoned := false, timedOut := false,
      sums := (0, 0, 0), digest := 0, issued := x.lists.map fun _ => 0, waits := [], deadline := t7 + (s.hg c 0x130).toNat,
      replay := l.dropLast, replayEnd := l.getLast?, ledgerLost := 0 }
    let s := s.restoreGates c false
    let s := s.setCtx c { s.ctx c with placement := s.pickPlacement c }
    let mask := match l.find? fun e => fld (dw e 0) 0 4 = 5 with
      | some e => dw e 4 &&& 0xFFFFFF
      | none => s.hg c 0x134
    let s := if x.batch then s.setHg c 0x138 mask else s
    let s := ((s.setHg c (acctOff 0) (w32 step.toNat)).setHg c (acctOff 1) (w32 (step.toNat / 2 ^ 32)))
    let s := if x.batch ∧ s.rpMode c = 1 then s.ledgerWrite c (ledgerEntry c 5 0 0xFFFFFF 0 step [mask]) else s
    (cOK, (s.maybeEnd c).sweep)

/-- CK_STAT.BUSY (rule R368). DESIGN CHOICE, assumption 32. -/
def State.ckBusy (s : State) : Bool := bit (s.reg 0x10358) 0

/-- A start of context `c` arrives (rules R323, R368). -/
def State.start (s : State) (c : Nat) : Nat × State :=
  let x := s.ctx c
  if x.state = .free ∨ x.state = .faulted ∨ x.tearing ≠ none then (cARG, s)
  else if x.state = .running ∨ s.ckBusy ∨ x.pend ≠ none then
    if x.pend ≠ none then (cOK, s.acct16 c 29 16)
    else (cOK, s.setCtx c { x with pend := some (s.now 7) })
  else s.begin c (s.now 7)

/-- A pending start begins once its context is ADMITTED (rule R323). -/
def State.startPending (s : State) (c : Nat) : State :=
  let x := s.ctx c
  match x.pend with
  | none => s
  | some t =>
    if x.state = .admitted ∧ x.tearing = none ∧ !s.ckBusy then ((s.setCtx c { x with pend := none }).begin c t).2 else s

/-- TC7 reaches the deadline of a running invocation (rule R324). -/
def State.deadlineMiss (s : State) (c : Nat) : State :=
  let x := s.ctx c
  if x.state = .running ∧ !x.missed ∧ x.deadline ≤ s.now 7 then
    (((s.setCtx c { x with missed := true }).acct16 c 27 0).intRaise .headgate 2).lastCode .headgate cDEADLINE_MISS
  else s

/-! Teardown (rules R344, R348, R349). -/

/-- The teardown of a context begins: issue stops, PENDING is cleared, and what has not started is discarded. DEDUCED, assumption 29. -/
def State.tearDown (s : State) (c cause lcn : Nat) : State :=
  let x := s.ctx c
  if x.tearing ≠ none ∨ x.state = .free ∨ x.state = .faulted then s
  else
    let left := if x.state = .running
      then (List.range x.lists.length).foldl (fun n i => n + (s.listTotal c i - x.issued.getD i 0)) 0 else 0
    s.setCtx c { x with pend := none, cause := BitVec.ofNat 8 cause,
                        tearing := some { cause := cause, lcn := lcn, discarded := left } }

/-- Every residency tag of a context is invalidated (rule R160). -/
def State.dropTags (s : State) (keep : Tag → Bool) : State :=
  { s with head := { s.head with tags := s.head.tags.filter keep } }

/-- A context is freed: its gates, windows and admission go (rules R321, R346). -/
def State.freeCtx (s : State) (c : Nat) : State :=
  let x := s.ctx c
  let gates := s.gates.filter fun p => p.1 < x.gateBase || x.gateBase + x.gateCnt ≤ p.1
  let s := { s with gates := gates }
  (s.dropTags fun t => t.ctx ≠ c).setCtx c ctxReset

/-- The teardown of a context completes, once no command of it runs (rule R349); an invocation that it ends has the end CODE
TEARDOWN. DEDUCED, assumption 29. -/
def State.tornDown (s : State) (c : Nat) : State :=
  let x := s.ctx c
  match x.tearing with
  | none => s
  | some t =>
    if s.ctxRuns c then s else
    let s := s.setCtx c { x with abandonAll := true }
    let s := s.intRaise .headgate 4
    let s := s.dropTags fun g => g.ctx ≠ c
    let r := { recOf cTEARDOWN 0xF1 t.lcn s.stamp s.stamp with w4 := t.discarded, w5 := t.cause }
    let s := s.crWrite c (r.words c x.step)
    let s := if x.state = .running then s.closeInvocation c cTEARDOWN else s
    let s := s.setCtx c { s.ctx c with state := .faulted, tearing := none }
    let s := s.acct16 c 29 0
    let s := (s.errCapture .headgate cTEARDOWN 0 c 0).lastCode .headgate cTEARDOWN
    let s := s.intRaise .headgate 3
    let s := s.faultEvent .headgate 2 cTEARDOWN 0 c 0 0
    let s := s.sweep
    if x.revoke then s.freeCtx c else s

/-- RESTART of a FAULTED context (rule R350). -/
def State.restartCtx (s : State) (c : Nat) : Nat × State :=
  if (s.ctx c).state ≠ .faulted then (cARG, s)
  else
    let s := s.restoreGates c true
    (cOK, (s.setCtx c { s.ctx c with state := .admitted }).sweep)

/-- The starts of slots when some entries of the table go: `keep` says for each entry whether it stays. -/
def keptSlots (keep : List Bool) (m : Cells Nat) : Cells Nat :=
  m.filterMap fun p =>
    let i := p.1 / 128
    if keep.getD i false then some (128 * (keep.take i).countP id + p.1 % 128, p.2) else none

/-- Revocation of the images in a list (rules R321, R329); the slots of the others keep their starts (rule R332). -/
def State.revokeImages (s : State) (gone : Image → Bool) : State :=
  let dead := s.head.images.filter gone
  let keep := s.head.images.flatMap fun i => i.slots.map fun _ => !gone i
  let s := { s with head := { s.head with images := s.head.images.filter (fun i => !gone i), slotAt := keptSlots keep s.head.slotAt } }
  let s := (dead.flatMap (·.ctxs)).foldl (fun s c =>
    let x := s.ctx c
    if x.state = .running ∨ x.tearing ≠ none then
      (s.setCtx c { x with revoke := true, bound := [] }).tearDown c cTEARDOWN 0xFFFFFF
    else s.freeCtx c) s
  if s.head.images.isEmpty then ((s.setReg 0x10100 0).setReg 0x10104 0).setReg 0x10108 0 else s

/-- Every context that was RUNNING is torn down for a supply or temperature excursion, and every residency tag goes (rule
R454). -/
def State.excursionTear (s : State) : State :=
  (s.live.foldl (fun s p => s.tearDown p.1 cDEGRADED 0xFFFFFF) s).dropTags fun _ => false

/-! Accounting (rules R351, R353). -/

/-- The first `n` accounting words from word 20 on, which begin with the accumulators, and the INVALID capture are cleared: six at
admission (rules R90, R92), eleven by ACCT_SNAP.CLEAR (rule R353). -/
def State.clearSums (s : State) (c n : Nat) : State :=
  let s := (List.range n).foldl (fun s w => s.setHg c (acctOff (20 + w)) 0) s
  (List.range 5).foldl (fun s w => s.setHg c (0x200 + 4 * w) 0xFFFFFFFF) s

/-- ACCT_SNAP (rule R353). DEDUCED, assumption 47. -/
def State.acctSnap (s : State) (c : Nat) (clear : Bool) : State :=
  let s := s.setHg c (acctOff 31) s.stamp
  let s := (List.range 32).foldl (fun s w => s.setReg (0x10180 + 4 * w) (s.hg c (acctOff w))) s
  let s := (List.range 5).foldl (fun s w => s.setReg (0x10200 + 4 * w) (s.hg c (0x200 + 4 * w))) s
  let s := s.bumpWrap 0x10164 1
  if clear then s.clearSums c 11 else s

end Sys2Proof.Machine
end

