-- ==== Sys2Proof/Machine/Units.lean ====
section
/-! DEFINITION. Machine/Units.lean: cisterns and lane memories with SECDED and row sparing, and the retirement and
substitution of basins and lanes (rules R153–R160, R174–R177, R284, R285, R448, R449, R457–R461, R482, R483). -/

namespace Sys2Proof.Machine

/-- The unit number of a physical basin or lane. -/
def unitNo (lane : Bool) (p : Nat) : Nat := if lane then 18 + p else p

/-- The page of a unit. -/
def unitPage (u : Nat) : Page := if u < 18 then .basin u else .lane (u - 18)

/-- The repair-map word of a unit. -/
def unitWord (u : Nat) : Nat := if u < 18 then basinWord u else laneWord (u - 18)

/-- The size of a unit's memory in bytes (rules R153, R284). -/
def unitSize (u : Nat) : Nat := if u < 18 then 0xC00000 else 0x100000

/-- The bank and the row in the bank of a 64-byte row (rules R153, R284). -/
def rowPlace (u r : Nat) : Nat × Nat := if u < 18 then (r % 32, r / 32) else (r % 16, r / 16)

/-- The first repair-map entry of a group (rule R449). -/
def groupEntry (u bank group : Nat) : Nat :=
  if u < 18 then 768 * u + 2 * (12 * bank + group) else 13824 + 64 * (u - 18) + 2 * (2 * bank + group)

/-- Entry `e` of the row table (rule R448). -/
def State.rowEntry (s : State) (e : Nat) : Nat := fld (s.rm (128 + e / 2)) (16 * (e % 2)) 16

def State.setRowEntry (s : State) (e v : Nat) : State :=
  s.setRm (128 + e / 2) (setFld (s.rm (128 + e / 2)) (16 * (e % 2)) 16 v)

/-- The spare rows and the groups of a unit. -/
def unitSpares (u : Nat) : Nat := if u < 18 then 768 else 64

/-- SPARE_STAT.FREE of a unit (rule R180). -/
def State.sparesFree (s : State) (u : Nat) : Nat :=
  (List.range (unitSpares u)).countP fun i => s.rowEntry (groupEntry u 0 0 + i) < 0x8000

/-- SPARE_STAT.EXHAUSTED of a unit: groups with no free spare row. -/
def State.groupsFull (s : State) (u : Nat) : Nat :=
  (List.range (unitSpares u / 2)).countP fun i =>
    0x8000 ≤ s.rowEntry (groupEntry u 0 0 + 2 * i) && 0x8000 ≤ s.rowEntry (groupEntry u 0 0 + 2 * i + 1)

/-- The free spare entry for a row, if its group has one. -/
def State.freeSpare (s : State) (u r : Nat) : Option Nat :=
  let pl := rowPlace u r
  let e := groupEntry u pl.1 (pl.2 / 512)
  [e, e + 1].find? fun e => s.rowEntry e < 0x8000

/-! The registers of a unit's page that these events touch (rules R180, R286). -/

def corrReg (u : Nat) : Nat := (unitPage u).base + (if u < 18 then 0x100 else 0x120)
def checkReg (u : Nat) : Nat := (unitPage u).base + (if u < 18 then 0x108 else 0x128)
def limitReg (u : Nat) : Nat := (unitPage u).base + (if u < 18 then 0x114 else 0x134)
def lastRowReg (u : Nat) : Nat := (unitPage u).base + (if u < 18 then 0x118 else 0x138)

/-- An INT_RAW bit of a unit's page; lane pages hold these events four bits higher. -/
def State.unitInt (s : State) (u i : Nat) : State := s.intRaise (unitPage u) (if u < 18 then i else i + 4)

/-- The row of a unit is replaced by the spare of entry `e` (rules R157, R158, R449). -/
def State.putSpare (s : State) (u r e : Nat) (uncorr : Bool) : State :=
  let pl := rowPlace u r
  let s := s.setRowEntry e (pl.2 % 512 + uncorr.toNat * 0x4000 + 0x8000)
  let w := if u < 18 then pl.1 + pl.2 * 32 + uncorr.toNat * 2 ^ 18 + 2 ^ 19
    else pl.1 + pl.2 * 16 + uncorr.toNat * 2 ^ 14 + 2 ^ 15
  (s.setReg (lastRowReg u) (w32 w)).unitInt u 2

/-- The keys of a row's bytes, of its words and of the row itself. -/
def rowByte (u r : Nat) : Nat := 2 ^ 24 * u + 64 * r
def rowKey (u r : Nat) : Nat := 2 ^ 18 * u + r

/-- A row is zeroed (rule R158). -/
def State.zeroRow (s : State) (u r : Nat) : State :=
  { s with sram := Cells.clear s.sram (rowByte u r) 64, sramBad := Cells.clear s.sramBad (rowByte u r / 8) 8,
           rowErr := Cells.clear s.rowErr (rowKey u r) 1 }

/-- The logical number that a unit serves (rule R448); 15 where it serves none. -/
def State.logicalOf (s : State) (u : Nat) : Nat :=
  if fld (s.rm (unitWord u)) 0 2 = 1 then fld (s.rm (unitWord u)) 8 4 else 15

/-- The residency tags of regions of a unit's cistern that overlap a range go (rule R160). -/
def State.dropTagsAt (s : State) (u ofs n : Nat) : State :=
  if u < 18 ∧ fld (s.rm (unitWord u)) 0 2 = 1 then
    let lb := s.logicalOf u
    s.dropTags fun t => !(t.basin == lb && ofs < t.ofs + t.size && t.ofs < ofs + n)
  else s

/-! Retirement (rules R175, R176, R457, R482, R483). -/

/-- The domain of a unit. -/
def unitDomain (u : Nat) : Nat := (unitPage u).domain

/-- Whether a context uses a logical basin or lane: by a list of its engines or, for a basin, by a region. -/
def usesUnit (s : State) (c : Nat) (x : Ctx) (lane : Bool) (logical : Nat) : Bool :=
  (List.range x.lists.length).any (fun i =>
    let e := s.listEngine c i
    if lane then e == 0x40 + logical else decide (e < 0x20) && e % 16 == logical) ||
  (!lane && x.regions.any fun r => placed x x.placement r.basin == logical)

/-- The contexts inside an invocation on a logical unit are torn down with DEGRADED (rules R176, R349). -/
def State.tearUsers (s : State) (lane : Bool) (logical : Nat) : State :=
  s.live.foldl (fun s p => if usesUnit s p.1 p.2 lane logical then s.tearDown p.1 cDEGRADED 0xFFFFFF else s) s

/-- The lowest-numbered reserve that no substitution has taken. -/
def State.nextReserve (s : State) (lane : Bool) : Option Nat :=
  (List.range (if lane then 9 else 18)).find? fun p =>
    fld (s.rm (unitWord (unitNo lane p))) 0 2 == 2 && !s.head.subst.any fun x => x.lane == lane && x.reserve == p

/-- A fault event that carries what the unit's page has captured (rule R452). -/
def State.pageEvent (s : State) (p : Page) (cls code ctx detail : Nat) : State :=
  s.faultEvent p cls code (s.rf (p.base + 0x24) 8 8) ctx (s.reg (p.base + 0x28)).toNat detail

/-- The fence of a logical unit lifts. -/
def State.unfence (s : State) (lane : Bool) (logical : Nat) : State :=
  { s with head := { s.head with fenced := s.head.fenced.filter (· ≠ fenceKey lane logical) } }

/-- The next reserve is woken for a retired unit, or DEGRADED is reported and the logical unit stays unmapped (rules R176,
R458). -/
def State.substitute (s : State) (lane : Bool) (logical retired : Nat) : State :=
  match s.nextReserve lane with
  | some p =>
    let s := { s with head := { s.head with
      subst := s.head.subst ++ [{ lane := lane, logical := logical, retired := retired, reserve := p }] } }
    let d := unitDomain (unitNo lane p)
    if s.domain d = 0 ∧ s.rf 0x3104 0 2 = 0 ∧ s.power.phase = 0 then s.wakeDomain d else s
  | none =>
    (s.unfence lane logical).pageEvent (unitPage (unitNo lane retired)) 1 cDEGRADED 0xFF 0

/-- The commands that the engines with codes in `es` run do not run to their end (rule R457). -/
def State.cutOn (s : State) (es : Nat → Bool) : State :=
  { s with head := { s.head with running := s.head.running.map fun p =>
      (p.1, if es p.1 then p.2.map fun q => { q with cut := true } else p.2) } }

/-- Whether an engine code is one of a unit that serves a logical basin or lane. -/
def unitEngine (lane : Bool) (logical e : Nat) : Bool :=
  if lane then e == 0x40 + logical else e == logical || e == 0x10 + logical

/-- A unit is retired in service (rules R175, R176, R457, R482, R483). -/
def State.retireUnit (s : State) (u cause source : Nat) : State :=
  let lane := decide (18 ≤ u)
  let w := s.rm (unitWord u)
  if fld w 0 2 = 3 ∨ fld w 0 2 = 0 then s
  else
    let mapped := fld w 0 2 = 1
    let logical := fld w 8 4
    let p := if lane then u - 18 else u
    let s := s.setRm (unitWord u) (w32 (3 + 16 + 0xF00 + cause * 65536 + source * 2 ^ 24))
    let s := (s.unitInt u 3).lastCode (unitPage u) cause
    let s := s.setDomain (unitDomain u) 3
    let s := { s with copying := s.copying.filter fun c => c.1 ≠ u }
    if mapped then
      let s := { s with head := { s.head with fenced := s.head.fenced ++ [fenceKey lane logical] } }
      let s := (s.tearUsers lane logical).cutOn (unitEngine lane logical)
      let s := if lane then s else s.dropTags fun t => t.basin ≠ logical
      s.substitute lane logical p
    else
      match s.head.subst.find? fun x => x.lane == lane && x.reserve == p with
      | some x =>
        let s := { s with head := { s.head with subst := s.head.subst.filter (· ≠ x) } }
        s.substitute lane x.logical x.retired
      | none => s

/-- The woken reserve of the substitution in front completes its test (rules R176, R177, R458). -/
def State.reserveTested (s : State) (pass : Bool) (source : Nat) : State :=
  match s.head.subst with
  | [] => s
  | x :: rest =>
    let u := unitNo x.lane x.reserve
    if s.domain (unitDomain u) ≠ 2 then s
    else
      let s := { s with head := { s.head with subst := rest } }
      if pass then
        let s := s.setRm (unitWord u) (w32 (1 + x.logical * 256))
        let s := { s with sram := Cells.clear s.sram (2 ^ 24 * u) (2 ^ 24), sramBad := Cells.clear s.sramBad (2 ^ 21 * u) (2 ^ 21),
                          rowErr := Cells.clear s.rowErr (2 ^ 18 * u) (2 ^ 18),
                          rowLost := s.rowLost.filter fun k => k / 2 ^ 18 ≠ u }
        let s := s.unfence x.lane x.logical
        s.pageEvent (unitPage u) 1 cSPARE_IN 0xFF (x.reserve + x.logical * 256 + x.retired * 65536)
      else
        let s := s.setRm (unitWord u) (w32 (3 + 0xF00 + source * 2 ^ 24))
        let s := s.setDomain (unitDomain u) 3
        s.substitute x.lane x.logical x.retired

/-- A residue check fails during a command of context `c`: the second since self-test retires the unit. SOURCE 4 is the command
watchdog, whose expiry retires it at once (rules R175, R180, R482). -/
def State.checkFail (s : State) (u source c : Nat) : State :=
  if source = 4 then
    (((s.unitInt u 5).errCapture (unitPage u) cTEARDOWN 4 c 0).lastCode (unitPage u) cTEARDOWN).retireUnit u cTEARDOWN 4
  else
  let s := (s.bump (checkReg u) 1).unitInt u 4
  let s := (s.errCapture (unitPage u) cTEARDOWN source c 0).lastCode (unitPage u) cTEARDOWN
  if 2 ≤ (s.reg (checkReg u)).toNat then s.retireUnit u cTEARDOWN source else s

/-! Errors of a unit's memory (rules R156, R158). -/

/-- A single-bit error of a word found by a read: corrected, counted, and a row copy at the limit. -/
def State.fixWord (s : State) (u k : Nat) : State :=
  let r := k % 2 ^ 21 / 8
  let s := { s with sramBad := Cells.put 0 s.sramBad k 0 }
  let s := (s.bump (corrReg u) 1).unitInt u 0
  let n := Cells.get 0 s.rowErr (rowKey u r) + 1
  let s := { s with rowErr := Cells.put 0 s.rowErr (rowKey u r) n }
  let limit := s.rf (limitReg u) 0 8
  if limit ≠ 0 ∧ limit ≤ n ∧ (s.freeSpare u r).isSome ∧ (u, r) ∉ s.copying
    then { s with copying := s.copying ++ [(u, r)] } else s

/-- A two-bit error of a word, found by context `c` or by the scrub: captured, the row replaced and zeroed, or the unit
retired where its group has no free spare (rules R156, R158, R175, R234). -/
def State.loseWord (s : State) (u k : Nat) (c : Option Nat) : State :=
  let ofs := k % 2 ^ 21 * 8
  let r := ofs / 64
  let p := unitPage u
  let s := (s.bump (corrReg u + 4) 1).unitInt u 1
  let s := (s.errCapture p cECC_FAIL 1 (c.getD 0xFF) ofs).lastCode p cECC_FAIL
  let s := match c with
    | some x => s.faultEvent p 2 cECC_FAIL 1 x ofs 0
    | none => s
  let s := s.dropTagsAt u (64 * r) 64
  match s.freeSpare u r with
  | some e =>
    let s := { s with rowLost := (s.rowLost.filter (· ≠ rowKey u r)) ++ [rowKey u r],
                      rowPardon := s.rowPardon.filter fun q => q.1 ≠ rowKey u r, copying := s.copying.filter (· ≠ (u, r)) }
    (s.zeroRow u r).putSpare u r e true
  | none => s.retireUnit u cECC_FAIL 1

/-- The marked words that a range of a unit's memory touches. -/
def State.badWords (s : State) (u ofs n : Nat) : List (Nat × Nat) :=
  let lo := 2 ^ 21 * u + ofs / 8
  let hi := 2 ^ 21 * u + (ofs + n + 7) / 8
  if n = 0 then [] else s.sramBad.filter fun p => lo ≤ p.1 && p.1 < hi

/-- The words of a list are read by context `c`: answers whether one of them is lost. -/
def State.readWords (s : State) (u : Nat) (ws : List (Nat × Nat)) (c : Option Nat) : Bool × State :=
  ws.foldl (fun (r : Bool × State) w =>
    if Cells.get 0 r.2.sramBad w.1 = 0 then r
    else if w.2 = 1 then (r.1, r.2.fixWord u w.1)
    else (true, r.2.loseWord u w.1 c)) (false, s)

/-- `n` bytes of a unit's memory from `ofs` on, with the status code. -/
def State.sramGet (s : State) (u ofs n : Nat) (c : Option Nat) : Nat × List Byte × State :=
  let data := s.sram.bytes (2 ^ 24 * u + ofs) n
  let r := s.readWords u (s.badWords u ofs n) c
  (if r.1 then cECC_FAIL else cOK, data, r.2)

/-- Whether a word of a range is written in part only. -/
def partWord (k u ofs n : Nat) : Bool :=
  let a := (k - 2 ^ 21 * u) * 8
  a < ofs || ofs + n < a + 8

/-- Bytes stored in a unit's memory (rule R156): words written whole are clean, words written in part are read first. -/
def State.sramSet (s : State) (u ofs : Nat) (bs : List Byte) (c : Option Nat) : Nat × State :=
  let n := bs.length
  let bad := s.badWords u ofs n
  let part := bad.filter fun w => partWord w.1 u ofs n
  let s := { s with sram := s.sram.store (2 ^ 24 * u + ofs) bs,
                    sramBad := s.sramBad.filter (fun w => !bad.contains w || partWord w.1 u ofs n),
                    rowLost := s.rowLost.filter fun k =>
                      let a := (k - 2 ^ 18 * u) * 64
                      !(k / 2 ^ 18 == u && ofs ≤ a && a + 64 ≤ ofs + n) }
  let r := s.readWords u part c
  (if r.1 then cECC_FAIL else cOK, r.2)

/-- A row copy of a unit completes (rule R158): correctable words are corrected in the copy, the mapping switches to the
spare, and an uncorrectable word stays uncorrectable. The error count of the row starts again at 0. DESIGN CHOICE, assumption 61. -/
def State.rowCopied (s : State) (u : Nat) : State :=
  match s.copying.find? fun c => c.1 == u with
  | none => s
  | some (_, r) =>
    let s := { s with copying := s.copying.filter (· ≠ (u, r)) }
    match s.freeSpare u r with
    | none => s
    | some e =>
      let lo := rowByte u r / 8
      let s := { s with rowErr := Cells.clear s.rowErr (rowKey u r) 1,
                        sramBad := s.sramBad.filter fun w => !(lo ≤ w.1 && w.1 < lo + 8 && w.2 == 1) }
      s.putSpare u r e false

/-- One scrub pass of a unit (rule R159): every word is read and corrected; then the upsets of the pass strike, each a
64-bit word and its count of wrong bits. -/
def State.scrubUnit (s : State) (u : Nat) (upsets : List (Nat × Nat)) : State :=
  let p := unitPage u
  let on := bit (s.reg (p.base + 0xC)) 0 ∧ s.domain p.domain = 2
  let s := if on then
      let s := (s.readWords u (s.badWords u 0 (unitSize u)) none).2
      s.bumpWrap (p.base + (if u < 18 then 0x10C else 0x12C)) 1
    else s
  { s with sramBad := upsets.foldl (fun m x =>
      if x.2 = 0 ∨ unitSize u ≤ 8 * x.1 then m
      else Cells.put 0 m (2 ^ 21 * u + x.1) (Nat.min 2 (Cells.get 0 m (2 ^ 21 * u + x.1) + x.2))) s.sramBad }

/-! Basin references (rules R153, R154, R164). -/

/-- The logical basins or lanes of the grade (rules R174, R232): two basins and one lane of those enabled are spares. -/
def countOnes (n v : Nat) : Nat := (ones n v).length

def State.logicalBasins (s : State) : Nat := countOnes 18 s.grade.basins.toNat - 2
def State.logicalLanes (s : State) : Nat := countOnes 9 s.grade.lanes.toNat - 1

/-- The unit that serves a logical basin or lane, or the code that refuses it: BOUNDS at or above the grade's count,
OFF_DOMAIN where it is unmapped or off. -/
def State.unitOf (s : State) (lane : Bool) (logical : Nat) : Nat × Nat :=
  if (if lane then s.logicalLanes else s.logicalBasins) ≤ logical then (cBOUNDS, 0)
  else
    match s.physOf lane logical with
    | none => (cOFF_DOMAIN, 0)
    | some p => if s.domain (unitDomain (unitNo lane p)) = 2 then (cOK, unitNo lane p) else (cOFF_DOMAIN, 0)

/-! The canal (rules R161, R164, R168–R170). -/

/-- The canal node of a unit, and those of the pump ports and the grid map unit. -/
def unitNode (u : Nat) : Nat := if u < 9 then u + 1 else if u < 18 then u + 3 else u + 3

/-- The node of the port of pump `p`: PP0 for pumps 0–15, PP1 for the others (DEDUCED, assumption 14). -/
def pumpNode (p : Nat) : Nat := if p < 16 then 0 else 11

/-- The canal node's repair-map word: bit 0 BYPASS, bit 1 CW_FAIL, bit 2 CCW_FAIL (rule R448). -/
def nodeWord (n : Nat) : Nat := 63 + n

/-- Whether a path from node `a` to node `b` has no failed link, clockwise or counter-clockwise (rule R170). DEDUCED, assumption 31. -/
def State.linked (s : State) (a b : Nat) : Bool :=
  let cw := (b + 30 - a) % 30
  let ccw := (a + 30 - b) % 30
  (List.range cw).all (fun i => !bit (s.rm (nodeWord ((a + i) % 30))) 1) ||
  (List.range ccw).all (fun i => !bit (s.rm (nodeWord ((a + 30 - i) % 30))) 2)

/-- A unit that is retired while a command runs on it cannot finish that command. -/
def State.unitGone (s : State) (u : Nat) : Bool := fld (s.rm (unitWord u)) 0 2 ≠ 1

end Sys2Proof.Machine
end

