-- ==== Sys2Proof/Machine/Fold.lean ====
section
/-! DEFINITION. Machine/Fold.lean: retirement of LPDDR6 channels and the fold of the address map (rules R214, R215). -/

namespace Sys2Proof.Machine

/-- Every context is torn down, and all images are revoked (rule R215, step 1). DEDUCED, assumption 46. -/
def State.foldTear (s : State) : State :=
  (s.head.ctxs.foldl (fun s p => s.tearDown p.1 cDEGRADED 0xFFFFFF) s).revokeImages fun _ => true

/-- A ring writer discards its unit in progress and clears its EN (rules R123, R215, step 2). -/
def State.ringCut (s : State) (i : Nat) : State := s.setRf (ringGroup i + 0x10) 0 1 0 |>.ringUnbusy i

/-- Every ring is cut, and the camera frames, SPI transfers and UART messages in progress are gone with their units. DEDUCED, assumption
46. -/
def State.cutRings (s : State) : State :=
  let s := (List.range 52).foldl State.ringCut s
  { s with edge := { s.edge with csi := [], spi := [], uart := [] } }

/-- Channel `k` is retired in service, and the address map folds (rule R215). `code` and `src` are what the controller
captures (rule R482); an uncorrectable error has been captured already. DEDUCED, assumption 46. -/
def State.foldChannel (s : State) (k : Nat) : State :=
  if s.chanRetired k then s
  else
    let m := k / 2
    let s := s.foldTear
    let s := s.cutRings
    let s := s.setRf 0x64108 0 1 0
    let s := s.setRf (mcCfg m) (8 + k % 2) 1 1
    let s := (s.loadMemTop.dramLost).intRaise (.mc m) 2
    let s := s.lastCode (.mc m) (fld (s.reg (0x60024 + 0x1000 * m)) 0 8)
    s.pageEvent (.mc m) 1 cDEGRADED 0xFF 0

/-- The channels whose limit an uncorrectable error reached are folded out (rule R214). DEDUCED, assumption 46. -/
def State.foldAll (s : State) : State :=
  let due := s.foldDue
  due.foldl State.foldChannel { s with foldDue := [] }

/-- Whether the level in force lies below the highest level of the admitted images (rule R420). -/
def State.belowImage (s : State) : Bool := s.head.images.any fun i => decide (s.rf 0x73124 0 3 < i.level)

/-- PERF_STAT.BELOW_IMAGE follows its condition, whose beginning is an event. -/
def State.noteBelow (s : State) : State :=
  let b := s.belowImage
  let old := bit (s.reg 0x73124) 8
  let s := s.setReg 0x73124 (setBit (s.reg 0x73124) 8 b)
  if b && !old then s.intRaise .perf 3 else s

end Sys2Proof.Machine
end

