-- ==== Sys2Proof/Machine/Loop.lean ====
section
/-! DEFINITION. Machine/Loop.lean: the loop channels: arithmetic, control law, states, voting, detector, injection and trace
(rules R287–R320). -/

namespace Sys2Proof.Machine

/-! Fixed-point arithmetic (rules R293, R295, R299). -/

def sat32 (x : Int) : Int := satS 32 x

/-- rsh(): a rounded arithmetic shift, ties toward +∞. -/
def rsh (x : Int) (n : Nat) : Int := if n = 0 then x else asr (x + ((2 ^ (n - 1) : Nat) : Int)) n

/-- clampq(): lo wins where lo exceeds hi. -/
def clampq (x lo hi : Int) : Int := max lo (min x hi)

/-- lut() over a table of 33 entries (rule R295). -/
def lut (g : Nat → Int) (e : Int) (xsh : Nat) : Int :=
  let m := e.natAbs
  let i := m >>> xsh
  if 32 ≤ i then g 32
  else g i + asr ((g (i + 1) - g i) * ((m % 2 ^ xsh : Nat) : Int)) xsh

/-- limiter(): r and v after a step toward t (rule R299). -/
def limiter (r v t : Int) (vmax amax : Nat) : Int × Int :=
  let d := t - r
  if d.natAbs ≤ amax ∧ v.natAbs ≤ amax then (t, 0)
  else
    let vm := min (isqrt (2 * amax * d.natAbs)) vmax
    let vd : Int := if d < 0 then -(vm : Int) else vm
    let v := v + max (-(amax : Int)) (min (vd - v) amax)
    (r + v, v)

/-! Registers of a channel (rule R320). -/

def loopBase (c : Nat) : Nat := Page.base (.loop c)

def State.loop (s : State) (c : Nat) : LoopSt := Cells.get loopReset s.loops c

def State.setLoop (s : State) (c : Nat) (x : LoopSt) : State := { s with loops := Cells.put loopReset s.loops c x }

/-- A register of a channel, as a word, as a signed number, and a field of it. -/
def State.lreg (s : State) (c off : Nat) : Word := s.reg (loopBase c + off)
def State.lint (s : State) (c off : Nat) : Int := (s.lreg c off).toInt
def State.lfld (s : State) (c off lo n : Nat) : Nat := fld (s.lreg c off) lo n

/-- MODE of CTRL, and a bit of CTRL. -/
def State.lmode (s : State) (c : Nat) : Nat := s.lfld c 0xC 0 2
def State.lctl (s : State) (c i : Nat) : Bool := bit (s.lreg c 0xC) i

/-- STOP_CFG.ACT. -/
def State.lact (s : State) (c : Nat) : Nat := s.lfld c 0x15C 0 2

def LPage (c : Nat) : Page := .loop c

/-- The active replicas A, B and C, and LOST (rules R290, R291, R448). -/
def State.replicas (s : State) (c : Nat) : Nat := fld (s.rm (31 + c)) 0 3
def State.loopLost (s : State) (c : Nat) : Bool := bit (s.rm (31 + c)) 3

/-- STATUS.STATE (rule R303). -/
def State.loopState (s : State) (c : Nat) : Nat :=
  if s.loopLost c then 6 else if s.lmode c = 0 then 0 else (s.loop c).st

/-- Whether the fallback tables are in use (rules R303, R310). -/
def State.fbActive (s : State) (c : Nat) : Bool :=
  let k := s.loopState c
  (k == 2 || k == 4 || k == 5) && ((s.loop c).fbOn || s.lctl c 10)

/-- The W1C bits of STATUS: LIMITING is bit 3, MISS bit 7. -/
def State.lflag (s : State) (c i : Nat) : State := s.setRf (loopBase c + 0x10) i 1 1

/-- STATUS of a channel without LAST_CODE (rule R320). -/
def State.loopStatus (s : State) (c : Nat) : Nat :=
  let x := s.loop c
  let w := s.lreg c 0x10
  s.loopState c + fld w 3 1 * 2 ^ 3 + x.limActive.toNat * 2 ^ 4 + x.limPhase * 2 ^ 5 + fld w 7 1 * 2 ^ 7 +
    s.replicas c * 2 ^ 8 + (s.fbActive c).toNat * 2 ^ 11 + x.plan.isSome.toNat * 2 ^ 12 +
    ((x.plan.map (·.fb)).getD false).toNat * 2 ^ 13 + x.pastEnd.toNat * 2 ^ 14 + x.inj.isSome.toNat * 2 ^ 15 +
    x.tripped.toNat * 2 ^ 16

/-! Injection (rules R318, R319). -/

/-- π × 2^160, rounded down. -/
def pi160 : Nat := 4591442807048218921384805199743311128454155024418

/-- The sine of x ÷ 2^160 for x up to a quarter turn, by its series: term `t`, sum `a`, from order `k`. -/
def sinGo (n : Nat) (x t k : Nat) (neg : Bool) (a : Int) : Int :=
  match n with
  | 0 => a
  | m + 1 =>
    let t := t * x / 2 ^ 160 * x / 2 ^ 160 / ((k + 1) * (k + 2))
    sinGo m x t (k + 2) (!neg) (if neg then a - (t : Int) else a + (t : Int))

/-- S(φ): sin(2πφ ÷ 2³²) × 2³¹ to the nearest integer, 2³¹ as 2³¹ − 1 (rule R318). -/
def sineQ31 (phase : Nat) : Int :=
  let q := phase / 2 ^ 30 % 4
  let p := phase % 2 ^ 30
  let p := if q % 2 = 1 then 2 ^ 30 - p else p
  let x : Nat := pi160 * p / 2 ^ 31
  let a := sinGo 30 x x 1 true (x : Int)
  let m : Nat := (a.toNat + 2 ^ 128) / 2 ^ 129
  if 2 ≤ q then -(m : Int) else (min m (2 ^ 31 - 1) : Nat)

/-- The signal of a running injection, and the injection after the sample (rule R318). -/
def State.injNext (s : State) (c : Nat) (x : Inj) : Int × Option Inj :=
  let amp := s.lint c 0x604
  let len := s.lfld c 0x608 0 24
  let mode := s.lfld c 0x600 0 2
  let f0 := (s.lreg c 0x60C).toNat
  let f1 := (s.lreg c 0x610).toNat
  let hold := s.lfld c 0x614 0 16
  let f := (f0 : Int) + (((f1 : Int) - f0) * x.n).fdiv len
  let b := bit (w32 x.prbs) 14 != bit (w32 x.prbs) 13
  let stepped := mode == 3 && x.n % hold == 0
  let x := if stepped then { x with prbs := (x.prbs * 2 + b.toNat) % 2 ^ 15, high := b } else x
  let y : Int := match mode with
    | 1 => amp
    | 2 => sat32 (rsh (amp * sineQ31 x.phase) 31)
    | 3 => if x.high then amp else -amp
    | _ => 0
  let x := { x with n := x.n + 1, phase := toU 32 ((x.phase : Int) + f) }
  (y, if len ≤ x.n then none else some x)

/-- Whether a running injection acts in the state in force (rule R319). -/
def State.injActs (s : State) (c k : Nat) : Bool := k == 2 || k == 4 || (k == 1 && bit (s.lreg c 0x600) 2)

/-- An injection ends before its length (rule R318). -/
def State.injEnd (s : State) (c : Nat) : State :=
  let x := s.loop c
  if x.inj.isSome then (s.setLoop c { x with inj := none }).intRaise (.loop c) 9 else s

/-! The set-point (rules R298–R300). -/

/-- The stage of a plan at TC6, and whether it lies past the end. -/
def planStage (p : Plan) (t6 : Word) : Nat × Bool :=
  let dt := (t6 - p.t0).toInt
  let k := if dt ≤ 0 then 0 else dt.toNat / p.dt.toNat
  if p.h ≤ k then (p.h - 1, true) else (k, false)

/-- sp, ff and past_end of a sample. -/
def State.setpoint (s : State) (c : Nat) (t6 : Word) : Int × Int × Bool :=
  match (s.loop c).plan with
  | none => (s.lint c 0x138, 0, false)
  | some p =>
    let k := planStage p t6
    (if p.spEn then (p.sp.getD k.1 0).toInt else s.lint c 0x138, if p.ffEn then (p.ff.getD k.1 0).toInt else 0, k.2)

/-- LIM_PHASE after a limiter step: 0 SETTLED, 1 APPROACH, 2 REVERSING (rule R300). -/
def limPhaseOf (r v t : Int) : Nat :=
  if r = t ∧ v = 0 then 0 else if v ≠ 0 ∧ v.sign ≠ (t - r).sign then 2 else 1

/-! One sample (rules R294, R301, R303–R307). -/

/-- The result of a sample before it is voted: the channel after it, the output, the duty if one is written, the nodes of the
trace, and the events: LIMITING, OSC_TRIP and a limiter step with LIM_ACTIVE; whether the sample writes more state than j and y_prev, and the
repetitive memory cell that it writes. -/
structure Law where
  x : LoopSt
  u : Int
  duty : Option Nat
  full : Bool
  cell : Option Nat
  e : Int
  nodes : List Word
  limiting : Bool
  limited : Bool
  trip : Bool
  injDone : Bool
  pastNew : Bool

/-- The duty word of an output value (rule R297). -/
def State.dutyOf (s : State) (c : Nat) (u : Int) : Nat :=
  (clampq (((s.lfld c 0x12C 0 24 : Nat) : Int) + rsh u (s.lfld c 0x11C 24 5)) 0 0xFFFFFF).toNat

def loopCell (x : LoopSt) (k : Nat) : Int := (Cells.get 0 x.mem k).toInt

/-- The cell that learning at phase `j` updates (rule R301). -/
def State.repCell (s : State) (c j : Nat) : Nat :=
  let p := s.lfld c 0x144 0 13
  (j + p - s.lfld c 0x148 0 12 % p) % p

/-- rep_update() (rule R301). -/
def State.repUpdate (s : State) (c : Nat) (x : LoopSt) (e : Int) : LoopSt :=
  let p := s.lfld c 0x144 0 13
  let w := s.repCell c x.j
  let q := s.lint c 0x10C * loopCell x ((w + p - 1) % p) + s.lint c 0x110 * loopCell x w + s.lint c 0x114 * loopCell x ((w + 1) % p)
  let lim : Int := s.lfld c 0x14C 0 30
  let m := clampq (rsh q (s.lfld c 0x11C 8 5) + rsh (e * s.lint c 0x108) (s.lfld c 0x11C 0 5)) (-lim) lim
  { x with mem := Cells.put 0 x.mem w (i32 m) }

/-- The detector takes one sample: the channel and whether it trips (rule R310). -/
def State.detect (s : State) (c : Nat) (x : LoopSt) (e : Int) : LoopSt × Bool :=
  if !s.lctl c 11 then (x, false)
  else
    let x := if s.lfld c 0x154 0 16 ≤ x.win then { x with win := 0, cross := 0 } else x
    let big := decide ((s.lreg c 0x158).toNat < e.natAbs)
    let neg := decide (e < 0)
    let cross := x.cross + (big && x.sign == some (!neg)).toNat
    let x := { x with win := x.win + 1, cross := cross, sign := if big then some neg else x.sign }
    if s.lfld c 0x154 16 8 ≤ cross then ({ x with win := 0, cross := 0 }, true) else (x, false)

/-- The start from the measurement (rule R304). -/
def LoopSt.fresh (x : LoopSt) (y : Int) : LoopSt :=
  if x.fromOff || x.fromHold then
    { x with r := y * 65536, v := 0, yPrev := y, df := 0, cross := 0, i := if x.fromOff then 0 else x.i, fromOff := false,
             fromHold := false }
  else x

/-- A trip of the detector acts: on the main tables with OSC_ACT at 0 it switches to the fallback tables, and else it holds (rule R310). -/
def State.trip (s : State) (c : Nat) (x : LoopSt) : LoopSt :=
  let x := { x with tripped := true, trips := satAdd 255 x.trips 1 }
  if s.fbActive c || s.lctl c 12 then { x with held := true } else { x with fbOn := true }

/-- The phase index after a sample. -/
def State.nextPhase (s : State) (c j : Nat) : Nat := (j + 1) % s.lfld c 0x144 0 13

/-- A sample in HELD, or in STOP as in HELD: only j and y_prev advance; FIXED writes the duty of STOP_U (rules R303, R307). -/
def State.lawHold (s : State) (c : Nat) (x0 : LoopSt) (y : Int) (fixed : Bool) : Law :=
  let x := x0.fresh y
  let u := if fixed then s.lint c 0x16C else s.lint c 0x180
  let nodes := (((((x.nodes ++ List.replicate (16 - x.nodes.length) 0).set 2 (i32 y)).set 9 0).set 10 (i32 u)).set 14
    (w32 (x.cross + x.j * 256))).set 15 0
  { x := { x with j := s.nextPhase c x.j, yPrev := y }, u := u, duty := if fixed then some (s.dutyOf c u) else none,
    full := false, cell := none, e := s.lint c 0x188, nodes := if fixed then nodes.set 11 (w32 (s.dutyOf c u)) else nodes, limiting := false, limited := false,
    trip := false, injDone := false, pastNew := false }

/-- A sample in RUN, GATED, TRACK or STOP with RAMP; `k` is the state in force (rules R294, R303, R305–R307). -/
def State.lawRun (s : State) (c k : Nat) (x0 : LoopSt) (y : Int) (t6 : Word) : Law :=
  let x := x0.fresh y
  let ramp := k == 5
  let track := k == 1
  let pl := s.setpoint c t6
  let sp := if ramp then s.lint c 0x160 else pl.1
  let ff := if ramp then 0 else pl.2.1
  let past := !ramp && pl.2.2
  let limOn := ramp || s.lctl c 8
  let vmax := (s.lreg c (if ramp then 0x164 else 0x130)).toNat
  let amax := (s.lreg c (if ramp then 0x168 else 0x134)).toNat
  let t := if track then y * 65536 else sp * 65536
  let rv := if track || !limOn then (t, 0) else limiter x.r x.v t vmax amax
  let inj : Int × Option Inj := match x.inj with
    | some n => if s.injActs c k then s.injNext c n else (0, some n)
    | none => (0, none)
  let atOut := bit (s.lreg c 0x600) 2
  let r0 := sat32 (rsh rv.1 16)
  let r := if !atOut then sat32 (r0 + inj.1) else r0
  let e := sat32 (r - y)
  let fb := s.fbActive c
  let gp := lut (fun i => s.lint c ((if fb then 0x400 else 0x200) + 4 * i)) e (s.lfld c 0x120 0 5)
  let gi := lut (fun i => s.lint c ((if fb then 0x500 else 0x300) + 4 * i)) e (s.lfld c 0x120 8 5)
  let p := sat32 (rsh (e * gp) (s.lfld c 0x118 0 5))
  let di := rsh (e * gi) (s.lfld c 0x118 8 5)
  let dr := sat32 (rsh (sat32 (x.yPrev - y) * s.lint c 0x100) (s.lfld c 0x118 16 5))
  let d := sat32 (x.df + rsh (dr - x.df) (s.lfld c 0x11C 16 4))
  let f := sat32 (rsh (ff * s.lint c 0x104) (s.lfld c 0x118 24 5))
  let rp := loopCell x x.j
  let umin := s.lint c 0x124
  let umax := s.lint c 0x128
  let tu := s.lint c 0x140
  let it := sat32 (rsh x.i 16)
  let v := if track then tu + (if atOut then inj.1 else 0) else p + it + d + f + rp + (if atOut then inj.1 else 0)
  let u := clampq v umin umax
  let i := if track then clampq ((tu - d - f - rp) * 65536) (umin * 65536) (umax * 65536)
    else if k = 4 ∨ (umax < v ∧ 0 < di) ∨ (v < umin ∧ di < 0) then x.i
    else clampq (x.i + di) (umin * 65536) (umax * 65536)
  let learn := k == 2 && !fb && s.lctl c 9 && x.inj.isNone
  let duty := s.dutyOf c u
  let active := !track && limOn && rv.1 != t
  let x1 := { x with r := rv.1, v := rv.2, i := i }
  let x2 := if learn then s.repUpdate c x1 e else x1
  let q := if k = 2 ∨ ramp then s.detect c x2 e else (if track then { x2 with cross := 0 } else x2, false)
  let x3 := if q.2 then s.trip c q.1 else q.1
  let j := x.j
  let x4 := { x3 with
    j := s.nextPhase c j, yPrev := y, df := d, inj := inj.2, limActive := active,
    limPhase := if track then 0 else limPhaseOf rv.1 rv.2 t, pastEnd := x.pastEnd || past }
  { x := x4, u := u, duty := some duty, full := true,
    cell := if learn then some (s.repCell c j) else none, e := e,
    nodes := [i32 sp, i32 r0, i32 y, i32 e, i32 p, i32 it, i32 d, i32 f, i32 rp, i32 inj.1, i32 u, w32 duty, i32 gp, i32 gi,
      w32 (x4.cross + j * 256), w32 (learn.toNat * 64)],
    limiting := active && !x.limActive, limited := active, trip := q.2, injDone := x.inj.isSome && inj.2.isNone,
    pastNew := past && !x.pastEnd }

/-- The sample of the state in force. -/
def State.law (s : State) (c : Nat) (y : Int) (t6 : Word) : Law :=
  let x := s.loop c
  let k := s.loopState c
  if k = 3 then s.lawHold c x y false
  else if k = 5 ∧ (s.lact c ≠ 0 ∨ x.held) then s.lawHold c x y (s.lact c == 2)
  else s.lawRun c k x y t6

/-! Trace (rules R315, R316). -/

/-- What the trigger of the trace may wait for, as TR_CFG.TRIG numbers them. -/
structure Happened where
  inj : Bool := false
  trip : Bool := false
  miss : Bool := false
  limiting : Bool := false
  retire : Bool := false
  stop : Bool := false

/-- The flags word (rule R315). -/
def State.traceFlags (s : State) (c : Nat) (miss : Bool) (learn : Nat) : Word :=
  let x := s.loop c
  w32 (miss.toNat + x.limActive.toNat * 2 + (s.fbActive c).toNat * 4 + s.loopState c * 8 + learn + x.pastEnd.toNat * 128 +
    s.replicas c * 256 + (s.lreg c 0x198).toNat % 65536 * 65536)

/-- One sample reaches the trace buffer. -/
def State.traceStep (s : State) (c : Nat) (h : Happened) (miss : Bool) : State :=
  let x := s.loop c
  let t := x.trace
  if !t.armed || t.done then s
  else
    let cfg := s.lreg c 0x700
    let hit : Bool := match fld cfg 0 3 with
      | 0 => true
      | 1 => h.inj
      | 2 => h.trip
      | 3 => h.miss
      | 4 => h.limiting
      | 5 => h.retire
      | 6 => h.stop
      | _ => false
    let fire := hit && !t.triggered
    if !fire && t.skip ≠ 0 then s.setLoop c { x with trace := { t with skip := t.skip - 1 } }
    else
      let sel := s.lreg c 0x704
      let learn := if miss then 0 else fld (dw' x.nodes 15) 0 32
      let node := fun k => if k = 15 then s.traceFlags c miss learn else dw' x.nodes k
      let recs := (List.range 8).foldl (fun m w => Cells.put 0 m (8 * t.next + w) (node (fld sel (4 * w) 4))) t.recs
      let left := if fire then 4096 - fld cfg 16 12 else t.left
      let on := t.triggered || fire
      let last := on && left ≤ 1
      let t := { t with
        recs := recs, next := (t.next + 1) % 4096, skip := fld cfg 8 8, left := left - 1, triggered := on,
        trigIdx := if fire then t.next else t.trigIdx, stamp := if fire then s.stamp else t.stamp,
        armed := !last, done := last }
      let s := s.setLoop c { x with trace := t }
      if last then s.intRaise (.loop c) 10 else s
where
  dw' (l : List Word) (i : Nat) : Word := l.getD i 0

/-! Misses, retirement and LOST (rules R289–R291, R309). -/

/-- A sample misses (rule R309). -/
def State.loopMiss (s : State) (c cause : Nat) (h : Happened) : State :=
  let x := s.loop c
  let s := s.setLoop c { x with j := s.nextPhase c x.j }
  let s := ((s.lflag c 7).intRaise (.loop c) 0).bump (loopBase c + 0x19C) 1
  let s := (s.setReg (loopBase c + 0x1A0) (w32 cause)).lastCode (.loop c) cMISS
  s.traceStep c { h with miss := true } true

/-- Replica `k` of a channel is retired (rule R290). -/
def State.loopRetire (s : State) (c k : Nat) : State :=
  let s := s.setRm (31 + c) (setFld (s.rm (31 + c)) k 1 0)
  let s := (s.errCapture (.loop c) cDEGRADED (k + 1) 0xFF 0).intRaise (.loop c) 2
  (s.lastCode (.loop c) cDEGRADED).faultEvent (.loop c) 1 cDEGRADED (k + 1) 0xFF 0 0

/-- The duty word reaches every output that names the channel (rule R297). -/
def State.loopDuty (s : State) (c duty : Nat) : State :=
  (List.range 24).foldl (fun s k =>
    let cfg := s.reg (pwmBase k)
    if bit cfg 5 ∧ fld cfg 6 5 = c then s.pwmDuty k duty else s) s

/-- A channel enters LOST (rule R291). -/
def State.loopLose (s : State) (c : Nat) : State :=
  let s := s.setRm (31 + c) (setFld (s.rm (31 + c)) 3 1 1)
  let s := s.injEnd c
  let s := s.setLoop c { s.loop c with nodes := ((s.loop c).nodes.set 9 0).set 15 0 }
  let s := if s.lact c = 2 then s.loopDuty c (s.dutyOf c (s.lint c 0x16C)) else s
  let s := (s.errCapture (.loop c) cDEGRADED 4 0xFF 0).intRaise (.loop c) 3
  (s.lastCode (.loop c) cDEGRADED).faultEvent (.loop c) 3 cDEGRADED 4 0xFF 0 0

/-- The outputs of a channel: whether some output names it and none of them is enabled (rule R306). -/
def State.loopGated (s : State) (c : Nat) : Bool :=
  let named := (List.range 24).filter fun k => bit (s.reg (pwmBase k)) 5 && s.rf (pwmBase k) 6 5 == c
  !named.isEmpty && named.all fun k => !bit (s.reg 0x5A600) k

/-! The sample boundary (rules R298, R302, R303, R307, R308, R310–R312). -/

/-- The effects on the detector of OSC_CLR and of a change of mode (rule R311). A hold that ended the ramp of STOP lasts until the
channel leaves STOP (rule R310). DEDUCED, assumption 36. -/
def State.oscClear (s : State) (c : Nat) : State :=
  let x := s.loop c
  s.setLoop c { x with tripped := false, fbOn := false, held := x.held && x.stop,
                       fromHold := x.fromHold || (x.held && !x.stop) }

/-- The mode becomes `m`: a change clears the detector, and a channel that leaves OFF starts from its measurement; while the stop line is
raised it enters STOP at its first boundary (rule R307), and a channel that no STOP_REL has released is in STOP still (rule R308).
DEDUCED, assumption 36. -/
def State.loopMode (s : State) (c m : Nat) : State :=
  let old := s.lmode c
  if m = old then s
  else
    let s := (s.oscClear c).setRf (loopBase c + 0xC) 0 2 m
    if m = 0 then
      let s := s.injEnd c
      s.setLoop c { s.loop c with st := 0, fromOff := false, fromHold := false }
    else if old = 0 then
      let x := s.loop c
      let stop := x.stop && !s.stopLine
      s.setLoop c { x with fromOff := true, stop := stop, held := x.held && stop,
                           st := if stop then 5 else if m = 1 then 1 else if s.loopGated c then 4 else 2 }
    else s

/-- The channel leaves STOP (rule R308): its output in force, STOP_U under FIXED, becomes TRACK_U, and it enters TRACK. DEDUCED, assumption 36. -/
def State.stopRelease (s : State) (c : Nat) : State :=
  let x := s.loop c
  if !x.stop then s
  else
    let s := s.setLoop c { x with stop := false, held := false }
    let s := (s.setReg (loopBase c + 0x140) (s.lreg c (if s.lact c = 2 then 0x16C else 0x180))).loopMode c 1
    s.setLoop c { s.loop c with st := 1 }

/-- A plan is taken or discarded (rules R298, R303). -/
def State.takePlan (s : State) (c : Nat) (p : Plan) : State :=
  if s.lmode c ≠ 0 ∧ (s.stopLine ∨ (s.loop c).stop) then (s.bump (loopBase c + 0x1AC) 1).intRaise (.loop c) 7
  else
    let s := s.setLoop c { s.loop c with plan := some p, pastEnd := false }
    ((s.bumpWrap (loopBase c + 0x1A8) 1).setReg (loopBase c + 0x1B0) p.seq).intRaise (.loop c) 6

/-- The bits of CMD act in ascending order (rule R320). DEDUCED, assumption 36. -/
def State.loopCmd (s : State) (c : Nat) (v : Word) : State :=
  let s := if bit v 0 then s.oscClear c else s
  let s := if bit v 1 then s.setLoop c { s.loop c with mem := [], j := 0 } else s
  let s := if bit v 2 then s.setLoop c { s.loop c with plan := none, pastEnd := false } else s
  let s := if bit v 3 then
      s.setLoop c { s.loop c with inj := some { n := 0, phase := 0, prbs := s.lfld c 0x614 16 15, high := false } }
    else s
  let s := if bit v 4 then s.injEnd c else s
  let s := if bit v 6 then (s.setReg (loopBase c + 0x140) (s.lreg c 0x180)).loopMode c 1 else s
  if bit v 7 then s.stopRelease c else s

/-- A write takes effect. -/
def State.loopApply (s : State) (c off : Nat) (v : Word) : State :=
  if off = 0x170 then s.loopCmd c v
  else if off = 0xC then
    let s := s.loopMode c (fld v 0 2)
    s.setReg (loopBase c + 0xC) v
  else
    let s := s.setReg (loopBase c + off) v
    if off = 0x144 ∧ fld v 0 13 ≤ (s.loop c).j then s.setLoop c { s.loop c with j := 0 } else s

/-- What waits takes effect in order. -/
def State.loopWaiting (s : State) (c : Nat) : State :=
  let l := (s.loop c).waiting
  let s := s.setLoop c { s.loop c with waiting := [] }
  l.foldl (fun s e =>
    match e with
    | .write off v => s.loopApply c off v
    | .plan p => s.takePlan c p) s

/-- The sample boundary: what waits, then the state in force. Answers whether STOP is entered. DEDUCED, assumption 36. -/
def State.loopBoundary (s : State) (c : Nat) : Bool × State :=
  let s := s.loopWaiting c
  if s.lmode c = 0 then (false, s)
  else
    let enter := s.stopLine && !(s.loop c).stop
    let s := if enter then
        let s := s.injEnd c
        let x := s.loop c
        (s.setLoop c { x with stop := true, held := false, fromHold := x.fromHold || x.held }).intRaise (.loop c) 8
      else s
    let x := s.loop c
    let st := if x.stop then 5 else if s.lmode c = 1 then 1 else if x.held then 3 else if s.loopGated c then 4 else 2
    (enter, s.setLoop c { x with st := st })

/-! Triggers and the vote (rules R287, R289, R296, R309). -/

/-- The measurement at the trigger tick (rule R296). -/
def State.measure (s : State) (c : Nat) : Int :=
  let i := s.lfld c 0xC 4 3
  let y := match s.lfld c 0xC 2 2 with
    | 0 => (s.reg (encBase i + 4)).toInt
    | 1 => (s.reg (sdBase i + 4)).toInt
    | _ => s.lint c 0x13C
  if s.lctl c 7 then sat32 (-y) else y

/-- A SAMPLE_TRIGGER names the channel: a sample starts, or is missed, or nothing happens in OFF and LOST. -/
def State.loopTrigger (s : State) (c : Nat) : State :=
  if s.loopLost c ∨ s.lmode c = 0 then s
  else
    let x := s.loop c
    let soon : Bool := match x.trigAt with
      | some t => decide (s.time.ns < t + 5000)
      | none => false
    if soon then s.loopMiss c 2 {}
    else if x.busy.isSome then s.loopMiss c 1 {}
    else
      let q := s.loopBoundary c
      let s := q.2
      if s.lmode c = 0 then s
      else
        let x := s.loop c
        s.setLoop c { x with busy := some { y := s.measure c, t6 := w32 (s.now 6), stop := q.1, j := x.j }, trigAt := some s.time.ns }

/-- A number of `n` bits with some of them changed. -/
def flipBits {n : Nat} (x : Int) (m : BitVec n) : Int := (BitVec.ofInt n x ^^^ m).toInt

/-- The pending result of a replica that computed wrong: the words that the sample writes, changed (rule R288). DEDUCED, assumption 36. -/
def Law.flip (l : Law) (f : Flips) : Law :=
  let x := { l.x with yPrev := flipBits l.x.yPrev f.yPrev, j := l.x.j ^^^ f.j.toNat }
  let l := if l.full ∨ l.duty.isSome then { l with u := flipBits l.u f.u, duty := l.duty.map fun d => d ^^^ f.duty.toNat } else l
  if !l.full then { l with x := x }
  else
    let x := { x with r := flipBits x.r f.r, v := flipBits x.v f.v, i := flipBits x.i f.i, df := flipBits x.df f.df,
                      cross := x.cross ^^^ f.cross.toNat }
    { l with x := match l.cell with
        | some w => { x with mem := Cells.put 0 x.mem w (Cells.get 0 x.mem w ^^^ f.cell) }
        | none => x }

/-- What the voter compares bit for bit: the output, the duty word and the state words (rule R288). -/
def Law.words (l : Law) : List Int :=
  [l.u, ((l.duty.getD 0 : Nat) : Int), l.x.r, l.x.v, l.x.i, l.x.yPrev, l.x.df, (l.x.j : Int), (l.x.cross : Int)] ++
    (l.cell.map fun w => (Cells.get 0 l.x.mem w).toInt).toList

/-- The result of a replica: none if it is late. DEDUCED, assumption 36. -/
def replicaOut (r : Replica) (l : Law) : Option Law :=
  match r with
  | .ok => some l
  | .wrong x => some (l.flip x)
  | .late => none

/-- The committed sample reaches the channel, its outputs and its trace. -/
def State.loopCommit (s : State) (c : Nat) (l : Law) (h : Happened) : State :=
  let b := loopBase c
  let u := i32 l.u
  let nodes := (l.nodes.set 10 u).set 11 (match l.duty with
    | some d => w32 d
    | none => l.nodes.getD 11 0)
  let x := if l.x.held && l.trip && l.x.st ≠ 5 then { l.x with st := 3 } else l.x
  let s := s.setLoop c { x with busy := none, nodes := nodes }
  let s := ((s.setReg (b + 0x180) u).setReg (b + 0x188) (i32 l.e)).bumpWrap (b + 0x198) 1
  let s := match l.duty with
    | some d => s.loopDuty c d
    | none => s
  let s := if l.limited then s.bump (b + 0x1A4) 1 else s
  let s := if l.limiting then ((s.lflag c 3).intRaise (.loop c) 1).lastCode (.loop c) cLIMITING else s
  let s := if l.pastNew then s.intRaise (.loop c) 5 else s
  let s := if l.trip then (s.intRaise (.loop c) 4).lastCode (.loop c) cOSC_TRIP else s
  let s := if l.injDone then s.intRaise (.loop c) 9 else s
  let s := if l.trip && x.held then s.injEnd c else s
  s.traceStep c { h with trip := l.trip, limiting := l.limiting } false

/-- The vote on a sample (rules R288, R289): `outs` are the results of replicas A, B and C. DEDUCED, assumption 36. -/
def State.loopVote (s : State) (c : Nat) (outs : List (Option Law)) (h : Happened) : State :=
  let active := ones 3 (s.replicas c)
  let done := active.filterMap fun k => (outs.getD k none).map fun l => (k, l)
  let pair := done.find? fun p => done.any fun q => q.1 ≠ p.1 && q.2.words == p.2.words
  let s := s.setLoop c { s.loop c with busy := none }
  match active.length, pair with
  | 3, some (_, l) =>
    let bad := active.filter fun k => (outs.getD k none).map Law.words ≠ some l.words
    bad.foldl (fun s k => s.loopRetire c k) (s.loopCommit c l { h with retire := !bad.isEmpty })
  | 2, some (_, l) => s.loopCommit c l h
  | n, _ =>
    if done.length = n ∧ 2 ≤ n then (s.loopLose c).traceStep c { h with retire := true } false
    else s.loopMiss c 0 h

/-- What the sample at hand does for the trace: it starts an injection, or enters STOP. -/
def State.happened (s : State) (c : Nat) : Happened :=
  let x := s.loop c
  { inj := (x.inj.map fun n => n.n == 0).getD false && s.injActs c (s.loopState c), stop := (x.busy.map (·.stop)).getD false }

/-- The control law of the sample in progress: at the phase of its trigger, from which the misses since have advanced j (rules R302, R309).
DEDUCED, assumption 36. -/
def State.sampleLaw (s : State) (c : Nat) (q : Sample) : Law :=
  let l := (s.setLoop c { s.loop c with j := q.j }).law c q.y q.t6
  { l with x := { l.x with j := s.nextPhase c (s.loop c).j } }

/-- Whether the deadline of the sample in progress has passed (rule R309). -/
def State.pastDeadline (s : State) (c : Nat) : Bool :=
  (s.loop c).trigAt.any fun t => t + 2 * s.lfld c 0x150 0 12 < s.time.ns

/-- The replicas of the sample in progress end it (rules R288, R289); after its deadline none of them has completed in time (rule R309). -/
def State.loopSample (s : State) (c : Nat) (a b d : Replica) : State :=
  match (s.loop c).busy with
  | none => s
  | some q =>
    let l := s.sampleLaw c q
    let outs := if s.pastDeadline c then [none, none, none] else [replicaOut a l, replicaOut b l, replicaOut d l]
    s.loopVote c outs (s.happened c)

/-- The sample deadline passes with no vote (rule R309). -/
def State.loopDeadline (s : State) (c : Nat) : State :=
  let x := s.loop c
  match x.busy, x.trigAt with
  | some _, some t =>
    if t + 2 * s.lfld c 0x150 0 12 ≤ s.time.ns then (s.setLoop c { x with busy := none }).loopMiss c 0 (s.happened c) else s
  | _, _ => s

/-- A plan arrives at a channel (rules R277, R298, R303). DEDUCED, assumption 36. -/
def State.planArrives (s : State) (c : Nat) (p : Plan) : State :=
  if s.loopLost c then s
  else if s.lmode c = 0 then s.takePlan c p
  else if s.loopState c = 5 then (s.bump (loopBase c + 0x1AC) 1).intRaise (.loop c) 7
  else s.setLoop c { s.loop c with waiting := (s.loop c).waiting ++ [.plan p] }

/-! Register writes (rules R312, R316–R320). -/

/-- TR_ARM: recording starts (rule R316). -/
def State.traceArm (s : State) (c : Nat) : State :=
  s.setLoop c { s.loop c with trace := { traceReset with armed := true } }

/-- The value that a register of the channel stores (rules R14, R312): the last one written, which may still wait for its
boundary. DEDUCED, assumption 36. -/
def State.lstored (s : State) (c off : Nat) : Word :=
  (s.loop c).waiting.foldl (fun v e =>
    match e with
    | .write o x => if o = off then x else v
    | .plan _ => v) (s.lreg c off)

/-- Whether the channel refuses a value of a register with ARG. -/
def State.loopRefuses (s : State) (c off : Nat) (v : Word) : Bool :=
  let k := s.loopState c
  let stopRegs := off = 0x15C ∨ off = 0x160 ∨ off = 0x164 ∨ off = 0x168 ∨ off = 0x16C
  let injRegs := off = 0x600 ∨ off = 0x604 ∨ off = 0x608 ∨ off = 0x60C ∨ off = 0x610 ∨ off = 0x614
  (k = 5 ∧ stopRegs) || ((s.loop c).inj.isSome && injRegs) ||
  ((s.loop c).trace.armed && (off = 0x700 ∨ off = 0x704)) ||
  (match off with
  | 0xC => fld v 0 2 == 3 || fld v 2 2 == 3
  | 0x120 => 26 < fld v 0 5 || 26 < fld v 8 5
  | 0x130 | 0x134 | 0x164 | 0x168 => v == 0
  | 0x144 => fld v 0 13 < 2 || 4096 < fld v 0 13
  | 0x150 => fld v 0 12 < 87 || 2500 < fld v 0 12
  | 0x154 => fld v 0 16 < 16 || fld v 16 8 == 0
  | 0x15C => fld v 0 2 == 3
  | 0x170 => bit v 3 && !(fld (s.lstored c 0x600) 0 2 != 0 && (k == 2 || (k == 1 && bit (s.lstored c 0x600) 2)))
  | 0x608 => fld v 0 24 == 0
  | 0x614 => fld v 0 16 == 0 || fld v 16 15 == 0
  | 0x700 => fld v 0 3 == 7
  | _ => false)

/-- A write of CTRL, of CMD or of an RW register of a channel page; `v` has the register's writable bits only. -/
def State.loopWrite (s : State) (r : Requester) (c off : Nat) (v : Word) : Nat × State :=
  if r ≠ .mgmt ∨ s.loopRefuses c off v then (cARG, s)
  else
    let s := if off = 0x170 ∧ bit v 5 then s.traceArm c else s
    if s.lmode c = 0 ∧ !s.loopLost c then (cOK, s.loopApply c off v)
    else (cOK, s.setLoop c { s.loop c with waiting := (s.loop c).waiting ++ [.write off v] })

/-- A read of TR_DATA (rule R317): the code, the word and the advanced pointer. -/
def State.traceRead (s : State) (r : Requester) (c : Nat) : Nat × Word × State :=
  let t := (s.loop c).trace
  let a := loopBase c + 0x710
  let p := s.own r a
  if t.armed && !t.done then (cARG, 0, s)
  else
    let n := (fld p 0 12 * 8 + fld p 12 3 + 1) % 32768
    (cOK, Cells.get 0 t.recs (8 * fld p 0 12 + fld p 12 3), s.setOwn r a (w32 (n / 8 + n % 8 * 4096)))

end Sys2Proof.Machine
end

