-- ==== Sys2Proof/Config.lean ====
section
/-! DEFINITION. Config.lean: the values that the manual leaves open (rules R25, R398–R401 and the assumption log name
each). A constant here has no body: nothing evaluates it and no proof sees a value of it. -/

namespace Sys2Proof

/-- The bytes that the silicon's random generators deliver, by the count of draws so far (rule R401: ephemeral keys and
nonces). A free value: DESIGN CHOICE, assumption 6. -/
opaque Config.random : Nat → List Byte

/-- Choices of the silicon that the manual leaves open bit by bit, by the count of draws so far: which rows of a result
range hold the new bytes after a command fails (rules R457, R482). A free value: DESIGN CHOICE, assumption 6. -/
opaque Config.freeBit : Nat → Bool

/-- The values that an iterate holds for a side or a slack that a problem does not have. A free value: DESIGN CHOICE, assumption 11. -/
opaque Config.absentSide : Nat → Nat

/-- What the WCET of a context declaration takes from the slot table in a way that the manual does not fix (rules R28, R167, R173), each
from the number of the declaration and the image's bytes: its share of the sustained LPDDR6 bound in MB/s, the largest number of
transfers in flight at once in one direction, and the interleaving terms in ns. Free values: DESIGN CHOICE, assumption 12. -/
opaque Config.share : List Nat → Nat
opaque Config.inFlight : List Nat → Nat
opaque Config.interleave : List Nat → Nat

/-- K_root, which the physically unclonable function gives from the grade record's HELPER bytes (rule R399). A free
value: DESIGN CHOICE, assumption 6. -/
opaque Config.rootKey : List Byte → List Byte

/-- Which basins and lanes the grade record of an ET-840 or ET-820 leaves out (rule R3); the record's layout (rule R397) gives
no place for their names. From the record, the n-th unit left out, as an index among those still there. A free value:
DESIGN CHOICE, assumption 15. -/
opaque Config.gradeDrop : List Byte → Nat → Nat

/-- The root key hash in mask ROM (rule R412). A free value: DESIGN CHOICE, assumption 6. -/
opaque Config.rootHash : List Byte

end Sys2Proof
end

