-- ==== Sys2Proof/Machine/Engine.lean ====
section
/-! DEFINITION. Machine/Engine.lean: how an engine chooses, starts and ends a command (rules R185, R328–R333, R342, R345,
R351, R457, R482). -/

namespace Sys2Proof.Machine

/-! Slots (rules R329–R332). -/

/-- The slot entries of every admitted image, in order of admission. -/
def State.slotEntries (s : State) : List (List Word) := s.head.images.flatMap (·.slots)

/-- Whether a slot entry covers an engine. -/
def slotCovers (w : List Word) (e : Nat) : Bool :=
  if e < 0x20 then bit (dw w 3) e else if e < 0x40 then bit (dw w 4) (e - 0x20) else bit (dw w 5) (e - 0x40)

def slotOpen (w : List Word) : Bool := bit (dw w 2) 31

/-- The contexts of a slot entry. -/
def slotCtxs (w : List Word) : List Nat :=
  ((List.range 4).filter fun k => bit (dw w 2) (8 * k + 6)).map fun k => fld (dw w 2) (8 * k) 6

/-- The frame's origin on TC7. -/
def State.frameOrigin (s : State) : Nat := (s.reg 0x10104).toNat + 2 ^ 32 * (s.reg 0x10108).toNat

/-- The command that an engine runs. -/
def State.running (s : State) (e : Nat) : Option Running := Cells.get none s.head.running e

def State.setRunning (s : State) (e : Nat) (q : Option Running) : State :=
  { s with head := { s.head with running := Cells.put none s.head.running e q } }

/-- The TC7 time at which the command on an engine ends; 0 on an idle engine. -/
def State.busyUntil (s : State) (e : Nat) : Nat :=
  match s.running e with
  | some q => q.start + q.dur
  | none => 0

/-- Slot `i` reaches its nominal start: on each engine it covers, it starts then or when the running command ends (rule
R332). -/
def State.slotStart (s : State) (i : Nat) : State :=
  match s.slotEntries[i]? with
  | none => s
  | some w =>
    let first := s.frameOrigin + (dw w 0).toNat
    let frame := (s.reg 0x10100).toNat
    if s.now 7 < first ∨ frame = 0 then s
    else
      let nominal := first + (s.now 7 - first) / frame * frame
      (List.range 0x49).foldl (fun s e =>
        if slotCovers w e then
          { s with head := { s.head with slotAt := Cells.put 0 s.head.slotAt (128 * i + e) (max nominal (s.busyUntil e) + 1) } }
        else s) s

/-- The slots in force on an engine at a time, each with its end. DEDUCED, assumption 29. -/
def State.slotsAt (s : State) (e t : Nat) : List (List Word × Nat) :=
  (s.slotEntries.zipIdx.filterMap fun p =>
    let a := Cells.get 0 s.head.slotAt (128 * p.2 + e)
    let stop := a - 1 + (dw p.1 1).toNat
    if slotCovers p.1 e ∧ a ≠ 0 ∧ a - 1 ≤ t ∧ t < stop then some (p.1, stop) else none)

/-- The contexts of the slots in force, of static or of open ones, in the order that follows context `last`: fixed contexts in static
slots, continuous ones in open slots (rules R331, R341). -/
def State.slotOrder (s : State) (act : List (List Word × Nat)) (isOpen : Bool) (last : Nat) : List Nat :=
  let l := (List.range 64).filter fun c =>
    (s.ctx c).batch == isOpen && act.any fun w => slotOpen w.1 == isOpen && (slotCtxs w.1).contains c
  l.filter (fun c => last < c) ++ l.filter (fun c => c ≤ last)

/-! The choice of a head (rules R328, R345). -/

/-- The list of a context whose head stands on engine `e`. -/
def State.listOn (s : State) (c e : Nat) : Option Nat :=
  let x := s.ctx c
  if x.state = .running ∧ x.tearing = none then
    (List.range x.lists.length).find? fun i => s.listEngine c i == e && (s.listHead c i).isSome
  else none

/-- The ready head of a context on an engine. -/
def State.readyOn (s : State) (e c : Nat) : Option Head :=
  match s.listOn c e with
  | none => none
  | some i =>
    if s.headReady c i then (s.listHead c i).map fun d => { c := c, list := i, desc := d.1, member := d.2, yieldBy := none }
    else none

/-- The declared producer of a gate of context `c` (rule R335). -/
def producerOf (x : Ctx) (g : Nat) : Option Nat :=
  (x.imports.find? fun i => !i.sys && i.first ≤ g && g < i.first + i.count).map (·.producer)

/-- The open-slot context to which the blocked head of static context `c` yields engine `e` (rule R345). DEDUCED, assumption 29. -/
def State.yieldOn (s : State) (e : Nat) (opens : List Nat) (c : Nat) : Option Head :=
  match s.listOn c e with
  | none => none
  | some i =>
    ((s.headWaits c i).filter s.waitHolds).findSome? fun w =>
      match producerOf (s.ctx c) w.1 with
      | some p => if opens.contains p then (s.readyOn e p).map fun h => { h with yieldBy := some c } else none
      | none => none

/-- The contexts of the descriptors that hold a credit of pump engine `e`, from their issue to their completion record; an engine
runs one command at a time (rules R328, R345). -/
def State.credits (s : State) (e : Nat) : List Nat := ((s.running e).map fun q => q.head.c).toList

/-- The open-slot context to which the static context `c` yields a pump whose four credits descriptors of that context hold (rule R345). -/
def State.yieldCredits (s : State) (e : Nat) (opens : List Nat) (c : Nat) : Option Head :=
  if 0x20 ≤ e ∧ e < 0x40 ∧ (s.listOn c e).isSome then
    opens.findSome? fun o =>
      if 4 ≤ (s.credits e).length ∧ (s.credits e).all (· == o) then (s.readyOn e o).map fun h => { h with yieldBy := some c } else none
  else none

/-- Whether the headgate fences the unit of an engine (rules R176, R285, R457, R460). -/
def State.engFenced (s : State) (e : Nat) : Bool :=
  if e < 0x20 then s.isFenced false (e % 16)
  else if e < 0x40 then false
  else if e < 0x48 then s.isFenced true (e - 0x40)
  else false

/-- The head that engine `e` takes now, if it runs no command and is not fenced (rules R328, R331, R345). DESIGN CHOICE, assumption 28. -/
def State.pickHead (s : State) (e : Nat) : Option Head :=
  if s.engFenced e ∨ (s.running e).isSome then none
  else
    let act := s.slotsAt e (s.now 7)
    let last := Cells.get 63 s.head.last e
    let stat := s.slotOrder act false last
    let opens := s.slotOrder act true last
    ((stat.findSome? fun c => s.yieldCredits e opens c).or <| (stat.findSome? (s.readyOn e)).or <|
      (stat.findSome? (s.yieldOn e opens)).or <| opens.findSome? (s.readyOn e))

/-! Running a command. -/

/-- What running a command gives: its code, whether the command is refused or fails with what teardown cause, what its record
counts, the LPDDR6 bytes and the data flits it moved, and the words from word 4 on of the ledger entries of an ND command that came
to its value, one list for each PART (rule R363). -/
structure Run where
  code : Nat
  tear : Option Nat
  skipped : Bool
  w4 : Nat
  w5 : Nat
  w6 : Nat
  row : Nat
  col : Nat
  run : Nat
  bytes : Nat
  rd : Nat
  wr : Nat
  flits : Nat
  ledger : Option (List (List Word))
  s : State

/-- A command that ends with `code` and does nothing else. DESIGN CHOICE, assumption 28. -/
def runEnd (code : Nat) (s : State) : Run :=
  { code := code, tear := none, skipped := false, w4 := 0, w5 := 0, w6 := 0, row := 0xFFFF, col := 0xFFFF, run := 0xFFFF,
    bytes := 0, rd := 0, wr := 0, flits := 0, ledger := none, s := s }

/-- A command refused at its engine, or stopped by an error of its own reads (rules R156, R185, R209). -/
def runRefuse (code : Nat) (s : State) : Run := { runEnd code s with tear := some code }

/-- The gates a context may name (rule R336). -/
def gateInRange (x : Ctx) (g : Nat) : Bool :=
  (x.gateBase ≤ g && g < x.gateBase + x.gateCnt) ||
  x.imports.any fun i => i.first ≤ g && g < i.first + i.count && (!i.sys || g < 1024)

/-- The grant of a start consumes the counts of gates in CONSUME mode (rule R342). -/
def State.grant (s : State) (ws : List (Nat × Nat)) : State :=
  ws.foldl (fun s w =>
    let g := s.gate w.1
    if g.consume then s.setGate w.1 { g with count := w32 (g.count.toNat - w.2) } else s) s

/-- The accounting word of a class's engine time (rule R351). -/
def EngClass.acctWord (k : EngClass) : Nat :=
  match k with
  | .tile => 4
  | .vector => 6
  | .pump => 8
  | .solver => 10
  | .map => 12

/-- The head leaves its list, its gates are consumed, and YIELD counts (rules R327, R342, R345). DESIGN CHOICE, assumption 28. -/
def State.takeHead (s : State) (e : Nat) (k : EngClass) (h : Head) : State :=
  let s := s.grant (gatesAt h.desc k.waitAt)
  let s := s.issue h.c h.list
  let s := { s with head := { s.head with last := Cells.put 63 s.head.last e h.c } }
  match h.yieldBy with
  | some c => ((s.acct16 c 27 16).acct16 h.c 27 16).intRaise .headgate 6
  | none => s

/-- The newest record of ring `i`, its slot and the SEQ of its header, if the ring is enabled and not empty (rule R196). -/
def State.newestSlot (s : State) (i : Nat) : Option (Nat × Word) :=
  let wc := (s.reg (ringGroup i + 0x18)).toNat
  if !s.ringOn i ∨ wc = (s.reg (ringGroup i + 0x1C)).toNat then none
  else
    let slot := (wc + 2 ^ 32 - 1) % 2 ^ 32 % s.ringSlots i
    some (slot, w32 (s.dram.nat (s.ringBase i + slot * s.ringSlotBytes i + 4) 4))

/-- The latest end of the slots that list context `c` on engine `e` now. -/
def State.slotEndOf (s : State) (e c : Nat) : Option Nat :=
  ((s.slotsAt e (s.now 7)).filter fun w => (slotCtxs w.1).contains c).foldl (fun (m : Option Nat) w => some (max (m.getD 0) w.2)) none

/-- Engine `e` starts the head `h` on unit `phys`: the head is taken, and what a command reads at its start is latched (rules R185,
R196, R328). DESIGN CHOICE, assumption 28. -/
def State.launch (s : State) (e : Nat) (k : EngClass) (phys : Nat) (h : Head) (env : LaneEnv) (order : List Bool) : State :=
  (s.takeHead e k h).setRunning e (some
    { head := h, phys := phys, dur := env.dur.toNat, residue := env.residue, tc7 := env.tc7, order := order, start := s.now 7,
      stamp := s.stamp, tc0 := s.tc 0, ring := if k = .vector ∧ fld (dw h.desc 0) 0 8 = 0x39 then s.newestSlot (dw h.desc 11).toNat else none,
      slotEnd := s.slotEndOf e h.c, cut := false })

/-- Engine time, bytes, flits and overrun of a command from `t` to `stop` are charged to its context (rules R332, R351). DESIGN CHOICE, assumption 28. -/
def State.charge (s : State) (e : Nat) (k : EngClass) (dom c t stop : Nat) (r : Run) (slotEnd : Option Nat) : State :=
  let s := ((s.acct64 c k.acctWord (stop - t)).acct64 c 14 r.rd).acct64 c 16 r.wr
  let s := s.acct32 c 30 r.flits
  let s := { s with head := { s.head with
    flits := Cells.put 0 s.head.flits c (Cells.get 0 s.head.flits c + r.flits),
    work := if t < stop then s.head.work ++ [{ eng := e, dom := dom, ctx := c, start := t, stop := stop }] else s.head.work } }
  match slotEnd with
  | some z => if z < stop then (s.acct32 c 26 (stop - z)).intRaise .headgate 7 else s
  | none => s

/-- The KIND and the number of the ledger entries of an ND command (rules R362, R363). -/
def ndLedger (k : EngClass) (d : List Word) : Option (Nat × Nat) :=
  let op := fld (dw d 0) 0 8
  if k = .vector ∧ op = 0x38 then some (1, 1)
  else if k = .vector ∧ op = 0x39 then some (2, 1)
  else if k = .map ∧ op = 0x64 then some (3, ceilDiv (fld (dw d 6) 0 16) 352)
  else none

/-- The ledger entries of an ND command that ends (rules R363, R364): in RECORD they are written, those of a command that came to no
value with zeros; in REPLAY a command that took no logged value uses up the entries that its recorded run wrote. DEDUCED, assumption 54. -/
def State.ndLog (s : State) (k : EngClass) (h : Head) (r : Run) : State :=
  match ndLedger k h.desc with
  | none => s
  | some (kind, n) =>
    (List.range n).foldl (fun s p =>
      if s.rpMode h.c = 2 ∧ r.ledger = none then ((s.replayTake h.c kind (k.lcn h.desc) p).map (·.2)).getD s
      else s.logEntry h.c kind r.code (k.lcn h.desc) p ((r.ledger.getD []).getD p (if kind = 2 then [dw h.desc 11] else []))) s

/-- The end of a command (rules R185, R198, R199): ledger, record, INT, charges, then its signals, or the teardown of its context; the
end of the invocation. DESIGN CHOICE, assumption 28. -/
def State.endRun (e : Nat) (k : EngClass) (p : Page) (q : Running) (r : Run) : State :=
  let h := q.head
  let lcn := k.lcn h.desc
  let zero := recOf r.code (k.opcode h.desc) lcn q.stamp r.s.stamp
  let rc : Rec := match r.tear with
    | some _ => { zero with phys := q.phys }
    | none => { zero with phys := q.phys, skipped := r.skipped, w4 := r.w4, w5 := r.w5, w6 := r.w6, row := r.row, col := r.col,
                          run := r.run, bytes := r.bytes }
  let s := (r.s.ndLog k h r).record h.c rc (if k = .map ∨ k = .solver then 0 else rc.w5)
  let s := s.lastCode p r.code
  let s := if k.int h.desc then s.intRaise .headgate 0 else s
  let s := s.charge e k p.domain h.c q.start (s.now 7) r q.slotEnd
  match r.tear with
  | some cause => (s.tearDown h.c cause lcn).sweep
  | none =>
    let s := if (s.ctx h.c).tearing = none ∧ (s.ctx h.c).state = .running
      then (gatesAt h.desc k.sigAt).foldl (fun s g => s.signal g.1 g.2) s else s
    (s.maybeEnd h.c).sweep

/-- A free choice of the silicon (rule R457), with the state that has drawn it. DESIGN CHOICE, assumption 6. -/
def State.freeBit (s : State) : Bool × State := (Config.freeBit s.freeCtr, { s with freeCtr := s.freeCtr + 1 })

/-! Checks that every descriptor shares (rules R181, R183, R342, R346). -/

/-- An enabled wait or signal has a count and names a gate of the context's range. -/
def gateWordOk (inRange : Nat → Bool) (w : Word) : Bool := !bit w 17 || (fld w 18 14 != 0 && inRange (fld w 0 17))

/-- Whether all gate words of a descriptor pass. -/
def gatesOk (k : EngClass) (inRange : Nat → Bool) (d : List Word) : Bool :=
  (k.waitAt ++ k.sigAt).all fun i => gateWordOk inRange (dw d i)

/-- Whether a wait of a head names a free gate, which its engine refuses (rule R346). -/
def State.waitsFree (s : State) (k : EngClass) (d : List Word) : Bool :=
  (gatesAt d k.waitAt).any fun w => s.gateOwner w.1 == 0x7E

end Sys2Proof.Machine
end

