-- ==== Sys2Proof/Machine/Tensor.lean ====
section
/-! DEFINITION. Machine/Tensor.lean: the tensor path: exact products, runs in the 96-bit window, the carry format and its
tree, the final conversion, and the vector operations on one element with their counts (rules R66–R75, R84–R94, R189–R194). -/

namespace Sys2Proof.Machine

/-- A carry value (rules R70, R75): a finite one is (−1)^s × m × 2^(x − 63) with bit 63 of m set. -/
inductive Carry where
  | zero
  | fin (s : Bool) (x : Int) (m : Nat)
  | inf (s : Bool)
  | nan
deriving DecidableEq, Repr

/-- An integer multiple of 2^q rounded to the carry format with RNE (rule R70). -/
def toCarry (v q : Int) : Carry :=
  if v = 0 then .zero
  else
    let s := decide (v < 0)
    let m := v.natAbs
    let l := m.log2
    if l ≤ 63 then .fin s (l + q) (m * 2 ^ (63 - l))
    else
      let n := roundMag .rne s m 0 false ((l : Int) - 63)
      if n = 2 ^ 64 then .fin s (l + 1 + q) (2 ^ 63) else .fin s (l + q) n

/-- A product of the tensor path (rule R67): a NaN with whether it is zero times infinity, an infinity, or a finite
value. -/
def tensorProduct (x y : Val) : Exact :=
  match mulExact x y with
  | .nan _ => .nan (!x.isNan && !y.isNan)
  | z => z

/-- ⌊log₂|p|⌋ of the finite non-zero products of a run, the largest (rule R69). -/
def runExp (ps : List Exact) : Option Int :=
  ps.foldl (fun e p =>
    match p with
    | .num _ m k _ =>
      if m = 0 then e
      else
        let l := (m.log2 : Int) + k
        match e with
        | none => some l
        | some h => some (max h l)
    | _ => e) none

/-- The window sum of the finite products (rule R69), in units of 2^(E − 88): each product is floored onto the grid. -/
def windowSum (e : Int) (ps : List Exact) : Int :=
  ps.foldl (fun acc p =>
    match p with
    | .num s m k _ =>
      let q := e - 88
      let v : Int := if s then -(m : Int) else m
      acc + (if q ≤ k then v * 2 ^ (k - q).toNat else v.fdiv (2 ^ (q - k).toNat))
    | _ => acc) 0

/-- One run (rules R68–R70): its carry value, and whether an invalid operation occurred inside it (rules R87, R91). -/
def runSum (ps : List Exact) : Carry × Bool :=
  let nan := ps.any fun p => match p with
    | .nan _ => true
    | _ => false
  let bad := ps.any fun p => match p with
    | .nan i => i
    | _ => false
  let infP := ps.any fun p => match p with
    | .inf s _ => !s
    | _ => false
  let infN := ps.any fun p => match p with
    | .inf s _ => s
    | _ => false
  let invalid := bad || (infP && infN)
  if nan || (infP && infN) then (.nan, invalid)
  else if infP then (.inf false, false)
  else if infN then (.inf true, false)
  else
    match runExp ps with
    | none => (.zero, false)
    | some e => (toCarry (windowSum e ps) (e - 88), false)

/-- A node of the tree (rule R71), with whether it is an invalid operation. -/
def carryNode (a b : Carry) : Carry × Bool :=
  match a, b with
  | .nan, _ => (.nan, false)
  | _, .nan => (.nan, false)
  | .inf s, .inf t => if s = t then (.inf s, false) else (.nan, true)
  | .inf s, _ => (.inf s, false)
  | _, .inf t => (.inf t, false)
  | .zero, y => (y, false)
  | x, .zero => (x, false)
  | .fin s x m, .fin t y n =>
    let q := min x y
    (toCarry (dyad s m x q + dyad t n y q) (q - 63), false)

/-- One level of the tree. A missing right child is +0, which changes nothing. -/
def carryLevel (n : Nat) (l : List Carry) : List Carry × Bool :=
  match n, l with
  | k + 1, a :: b :: r =>
    let c := carryNode a b
    let t := carryLevel k r
    (c.1 :: t.1, c.2 || t.2)
  | _, l => (l, false)

/-- The root of the tree over the leaves, in `n` levels at most (rule R71), with whether a node was invalid. -/
def carryTree (n : Nat) (l : List Carry) : Carry × Bool :=
  match n, l with
  | _, [] => (.zero, false)
  | _, [x] => (x, false)
  | 0, x :: _ => (x, false)
  | k + 1, l =>
    let v := carryLevel l.length l
    let t := carryTree k v.1
    (t.1, v.2 || t.2)

/-- The runs of 64 products, `n` at most. -/
def runsOf (n : Nat) (ps : List Exact) : List (List Exact) :=
  match n with
  | 0 => []
  | k + 1 => if ps.isEmpty then [] else ps.take 64 :: runsOf k (ps.drop 64)

/-- A result element with what it counts, and INV_RUN where that is INVALID (rules R89, R91). -/
structure Elt where
  bits : Nat
  mark : Mark
  run : Nat
deriving DecidableEq, Repr

/-- A carry value as an exact result. -/
def Carry.exact (c : Carry) : Exact :=
  match c with
  | .zero => .num false 0 0 false
  | .fin s x m => .num s m (x - 63) false
  | .inf s => .inf s true
  | .nan => .nan false

/-- A carry value multiplied by 2^k (rule R189, ATTN_SCORE). -/
def Carry.scale (c : Carry) (k : Int) : Carry :=
  match c with
  | .fin s x m => .fin s (x + k) m
  | c => c

/-- The 16 bytes of a carry value as a number (rules R70, R75); an exponent outside the 18-bit range wraps modulo 2¹⁸. DESIGN CHOICE,
assumption 57. -/
def Carry.bits (c : Carry) : Nat :=
  match c with
  | .zero => 0
  | .fin s x m => m + toU 18 x * 2 ^ 64 + s.toNat * 2 ^ 82 + 2 ^ 83
  | .inf s => s.toNat * 2 ^ 82 + 2 * 2 ^ 83
  | .nan => 3 * 2 ^ 83

/-- A carry operand, unless rule R75 refuses it. -/
def carryOf (v : Nat) : Option Carry :=
  let m := v % 2 ^ 64
  let x := nfld v 64 18
  let s := nbit v 82
  let cls := nfld v 83 3
  if 2 ^ 86 ≤ v then none
  else if cls = 1 then (if 2 ^ 63 ≤ m then some (.fin s (sext 18 x) m) else none)
  else if m ≠ 0 ∨ x ≠ 0 then none
  else if cls = 0 then (if s then none else some .zero)
  else if cls = 2 then some (.inf s)
  else if cls = 3 then (if s then none else some .nan)
  else none

/-- The final conversion of a root (rule R72); `bad` is the lowest run with an invalid operation, `node` whether a node was
invalid. -/
def carryFinish (f : Fmt) (r : Rnd) (ieee : Bool) (c : Carry) (bad : Option Nat) (node : Bool) : Elt :=
  let e : Nat × Mark := match f with
    | .carry => (c.bits, .none)
    | _ => finish f 0 r ieee true c.exact
  match bad with
  | some k => { bits := e.1, mark := .invalid, run := k }
  | none => if node then { bits := e.1, mark := .invalid, run := 0xFFFE } else { bits := e.1, mark := e.2, run := 0xFFFD }

/-- A dot product of the tensor path over its products in order of k (rules R67–R72), scaled by 2^k. -/
def dotProduct (f : Fmt) (r : Rnd) (ieee : Bool) (k : Int) (ps : List Exact) : Elt :=
  let runs := (runsOf (ps.length / 64 + 1) ps).map runSum
  let bad := runs.findIdx? fun x => x.2
  let root := carryTree runs.length (runs.map (·.1))
  carryFinish f r ieee (root.1.scale k) bad root.2

/-- The root of rules R67–R71 over a list of values, in carry format (rule R192). -/
def sumRoot (xs : List Val) : Carry :=
  let runs := (runsOf (xs.length / 64 + 1) (xs.map fun x => tensorProduct x (.num false 1 0))).map runSum
  (carryTree runs.length (runs.map (·.1))).1

/-! Vector operations on one element (rules R84–R88, R191, R194). -/

/-- An element of the vector path. -/
def vecElt (x : Nat × Mark) : Elt := { bits := x.1, mark := x.2, run := 0xFFFF }

/-- The encoding of 1 in a vector format. -/
def oneBits (f : Fmt) : Nat := if f.isFp then f.bias * 2 ^ f.fb else 1

/-- An INT32 result with saturation (rule R85). -/
def int32Sat (x : Int) : Nat × Mark :=
  let c := satS 32 x
  (toU 32 c, if c = x then .none else .sat)

/-- The INT32 operations (rules R85, R191, R197). -/
def intOp (op aux a b : Nat) : Nat × Mark :=
  let x := sext 32 a
  let y := sext 32 b
  if op = 0x10 then int32Sat (x + y)
  else if op = 0x11 then int32Sat (x - y)
  else if op = 0x15 then (toU 32 (min x y), .none)
  else if op = 0x16 then (toU 32 (max x y), .none)
  else if op = 0x17 then
    let t : Bool := match aux % 4 with
      | 0 => x == y
      | 1 => decide (x < y)
      | 2 => decide (x ≤ y)
      | _ => x != y
    (t.toNat, .none)
  else
    let n := aux % 32
    if nbit aux 5 then (toU 32 (asr x n), .none) else int32Sat (x * 2 ^ n)

/-- The exact result of a floating-point operation (rules R84, R191). -/
def fpExact (op : Nat) (r : Rnd) (x y z : Val) : Exact :=
  if op = 0x10 then addExact r x y
  else if op = 0x11 then addExact r x y.neg
  else if op = 0x12 then mulExact x y
  else if op = 0x13 then divExact x y
  else if op = 0x14 then fmaExact r x y z
  else if op = 0x15 then minExact x y
  else if op = 0x16 then maxExact x y
  else if op = 0x18 then sqrtExact x
  else if op = 0x19 then expExact x
  else if op = 0x1A then logExact x
  else if op = 0x1B then recipExact x
  else if op = 0x1C then rsqrtExact x
  else if op = 0x1D then tanhExact x
  else sigmoidExact x

/-- The relation that CMP's AUX names (rule R197), as cmpExact numbers them. -/
def cmpCode (aux : Nat) : Nat :=
  match aux % 4 with
  | 0 => 0
  | 1 => 2
  | 2 => 3
  | _ => 1

/-- One element of an elementwise operation (rule R191). -/
def elementwise (op : Nat) (f : Fmt) (r : Rnd) (ieee : Bool) (aux a b c : Nat) : Elt :=
  if f = .int32 then vecElt (intOp op aux a b)
  else
    let x := decodeVal f 0 a
    let y := decodeVal f 0 b
    if op = 0x17 then
      let t := cmpExact (cmpCode aux) x y
      vecElt (if t.1 then oneBits f else 0, if t.2 then .invalid else .none)
    else vecElt (finish f 0 r ieee false (fpExact op r x y (decodeVal f 0 c)))

/-- One element of CONVERT (rule R194); `sa` and `sb` are the Q32 shifts of source and target. -/
def convertElt (fin fout : Fmt) (sa sb : Nat) (r : Rnd) (ieee : Bool) (a : Nat) : Elt :=
  let x := decodeVal fin sa a
  if fin = fout ∧ sa = sb ∧ !x.isNan then vecElt (a, .none)
  else vecElt (finish fout sb r ieee false x.exact)

/-- The maximum or minimum of a row (rule R193). -/
def reduceElt (maxi : Bool) (f : Fmt) (row : List Nat) : Elt :=
  match row with
  | [] => vecElt (0, .none)
  | a :: rest =>
    if f = .int32 then
      vecElt (rest.foldl (fun m b => if maxi then (if sext 32 m < sext 32 b then b else m)
        else (if sext 32 b < sext 32 m then b else m)) a, .none)
    else
      let vals := row.map (decodeVal f 0)
      if vals.any Val.isNan then vecElt (f.nan, if vals.any Val.signals then .invalid else .none)
      else
        vecElt (rest.foldl (fun m b =>
          let x := decodeVal f 0 m
          let y := decodeVal f 0 b
          if maxi then (if x.lt y then b else m) else (if y.lt x then b else m)) a, .none)

/-- The stronger of two counts of one element (rule R89): INVALID before SAT. -/
def Mark.join (a b : Mark) : Mark :=
  match a, b with
  | .invalid, _ => .invalid
  | _, .invalid => .invalid
  | .sat, _ => .sat
  | _, .sat => .sat
  | .flush, _ => .flush
  | _, b => b

/-- One row of SOFTMAX (rule R192); `rnd j t` is the rounding t of element j. -/
def softmaxRow (f : Fmt) (rnd : Nat → Nat → Rnd) (ieee : Bool) (row : List Nat) : List Elt :=
  let m := decodeVal f 0 (reduceElt true f row).bits
  let es := row.zipIdx.map fun p =>
    let r0 := rnd p.2 0
    let t := finish f 0 r0 ieee false (addExact r0 (decodeVal f 0 p.1) m.neg)
    let e := finish f 0 (rnd p.2 1) ieee false (expExact (decodeVal f 0 t.1))
    (e.1, t.2.join e.2)
  let s := sumRoot (es.map fun e => decodeVal f 0 e.1)
  match s with
  | .zero => es.map fun _ => vecElt (f.nan, .invalid)
  | .nan => es.map fun _ => vecElt (f.nan, .invalid)
  | _ =>
    let sv : Val := match s with
      | .fin n x k => .num n k (x - 63)
      | .inf n => .inf n
      | _ => .nan false
    es.zipIdx.map fun p =>
      let y := finish f 0 (rnd p.2 2) ieee false (divExact (decodeVal f 0 p.1.1) sv)
      vecElt (y.1, p.1.2.join y.2)

end Sys2Proof.Machine
end

