-- ==== Sys2Proof/Machine/TileDesc.lean ====
section
/-! DEFINITION. Machine/TileDesc.lean: the tile command descriptor, its checks and its worst-case waves (rules R63–R66, R74,
R153–R155, R181–R183, R186–R191, R193–R197). -/

namespace Sys2Proof.Machine

/-! The operation list (rules R186, R191). -/

/-- The engine class of an opcode. -/
def opClass (op : Nat) : Option EngClass :=
  if 1 ≤ op ∧ op ≤ 6 then some .tile
  else if (0x10 ≤ op ∧ op ≤ 0x1F) ∨ op ∈ [0x20, 0x21, 0x24, 0x28, 0x30, 0x31, 0x38, 0x39] then some .vector
  else if 0x60 ≤ op ∧ op ≤ 0x64 then some .map
  else none

/-- Whether an operation takes an operand format. -/
def fmtInOk (op fin : Nat) : Bool :=
  if op ≤ 4 then fin ≤ 5
  else if op ≤ 6 then fin == 9
  else if op = 0x1F then fin == 7
  else if op ∈ [0x10, 0x11, 0x15, 0x16, 0x17, 0x20, 0x21] then 5 ≤ fin && fin ≤ 7
  else if op ≤ 0x1E ∨ op = 0x24 then fin == 5 || fin == 6
  else if op = 0x28 then fin ≤ 8
  else if op = 0x30 ∨ op = 0x31 then fin ≤ 9
  else fin == 0

/-- The result formats of a tensor operation on an operand format (rule R64). -/
def tensorOut (fin fout : Nat) : Bool :=
  match fin with
  | 0 => fout == 7 || fout == 5 || fout == 9
  | 1 => fout == 1 || fout == 4 || fout == 3 || fout == 5 || fout == 9
  | 2 => fout == 2 || fout == 4 || fout == 3 || fout == 5 || fout == 9
  | 3 => fout == 3 || fout == 5 || fout == 9
  | 4 => fout == 4 || fout == 5 || fout == 9
  | 5 => fout == 5 || fout == 9
  | _ => false

/-- Whether an operation writes a result format. -/
def fmtOutOk (op fin fout aux : Nat) : Bool :=
  if op ≤ 4 then tensorOut fin fout
  else if op = 5 then tensorOut (aux % 16) fout
  else if op = 6 then tensorOut (aux % 16) fout && fout != 9
  else if op = 0x28 then fout ≤ 8
  else fout == fin

/-- The operations that the list marks ND. -/
def opNd (op : Nat) : Bool := op == 0x38 || op == 0x39 || op == 0x64

/-- Whether an operation uses operand A, B, C or the result. -/
def usesA (op : Nat) : Bool := op != 0x38 && op != 0x39
def usesB (op : Nat) : Bool := op ∈ [1, 2, 3, 5, 0x10, 0x11, 0x12, 0x13, 0x14, 0x15, 0x16, 0x17, 0x31]
def usesC (op : Nat) : Bool := op == 0x14

/-- Whether an operation has no reduction, so that K_M1 is 0 (rules R181, R186). -/
def noReduction (op : Nat) : Bool := op == 6 || (0x10 ≤ op && op ≤ 0x1F) || op == 0x28 || 0x30 ≤ op

/-- Whether AUX holds a value that rule R197 allows. -/
def auxOk (op fin fout aux : Nat) : Bool :=
  if op = 2 then aux < 2 ^ 24 && aux % 16 == 0
  else if op = 3 then aux < 256
  else if op = 5 ∨ op = 6 then aux < 6
  else if op = 0x17 then aux < 4
  else if op = 0x1F then aux < 64
  else if op = 0x28 then
    aux / 8192 == 0 && nfld aux 5 3 == 0 && (fin == 8 || aux % 32 == 0) && (fout == 8 || aux / 256 == 0)
  else if op = 0x31 then aux != 0
  else if op = 0x39 then aux ≤ 51
  else aux == 0

/-! Fields (rule R181). -/

def tM (d : List Word) : Nat := fld (dw d 6) 0 16
def tN (d : List Word) : Nat := fld (dw d 6) 16 16
def tK (d : List Word) : Nat := fld (dw d 7) 0 24 + 1
def tRef (d : List Word) (i : Nat) : Nat := (dw d (2 + i)).toNat
def tPitch (d : List Word) (i : Nat) : Nat :=
  64 * (match i with
    | 0 => fld (dw d 8) 0 16
    | 1 => fld (dw d 8) 16 16
    | 2 => fld (dw d 9) 16 16
    | _ => fld (dw d 9) 0 16)
def tAux (d : List Word) : Nat := (dw d 11).toNat

/-- The format of a descriptor's operands and of its result. -/
def tFin (d : List Word) : Fmt := (fmtOf (fld (dw d 0) 8 4)).getD .int8
def tFout (d : List Word) : Fmt := (fmtOf (fld (dw d 0) 12 4)).getD .int8

/-- Whether every bit that the table marks 0 is 0. -/
def tileZeros (d : List Word) : Bool :=
  !bit (dw d 0) 21 && fld (dw d 0) 23 9 == 0 && fld (dw d 1) 28 4 == 0 && fld (dw d 7) 26 6 == 0 && fld (dw d 10) 23 9 == 0

/-- The tiles of a command, operands A, B, C and the result as 0 to 3: rows, bytes of a logical row. CONV2D's operand A
follows its parameter block, and the result of RING_LATEST its ring; neither is listed. -/
def tileShapes (op : Nat) (d : List Word) : List (Nat × Nat × Nat) :=
  let m := tM d
  let n := tN d
  let k := tK d
  let wi := (tFin d).bytes
  let wo := (tFout d).bytes
  let a := if bit (dw d 7) 24 then (k, m * wi) else (m, k * wi)
  let b := if bit (dw d 7) 25 ∨ op = 3 then (n, k * wi) else (k, n * wi)
  if op = 1 ∨ op = 3 then [(0, a), (1, b), (3, m, n * wo)]
  else if op = 2 then [(1, b), (3, m, n * wo)]
  else if op = 4 ∨ op = 0x20 ∨ op = 0x21 then [(0, a), (3, m, wo)]
  else if op = 0x31 then [(0, tAux d, n * wi), (1, m, 4), (3, m, n * wo)]
  else if op = 0x38 then [(3, 1, 16)]
  else if op = 0x39 then []
  else
    [(0, m, n * wi)] ++ (if usesB op then [(1, m, n * wi)] else []) ++ (if usesC op then [(2, m, n * wi)] else []) ++
      [(3, m, n * wo)]

/-- The first byte of a reference in one space of addresses: logical basins apart from each other and from LPDDR6; `pl` gives
the logical basin of an image basin (rules R154, R182, R335). -/
def refPlace (pl : Nat → Nat) (r : Nat) : Nat :=
  if nbit r 31 then r % 2 ^ 30 * 64 else 2 ^ 60 + pl (nfld r 24 4) * 2 ^ 48 + r % 2 ^ 24

/-- The bytes from the first to the last of a tile. DEDUCED, assumption 30. -/
def spanOf (rows pitch rowBytes : Nat) : Nat := (rows - 1) * pitch + rowBytes

/-- Whether a reference is well formed: bit [30] of an LPDDR6 reference is 0, and a cistern reference has its upper bits 0
and a 64-byte boundary (rules R154, R155, R182). -/
def refOk (r : Nat) : Bool := if nbit r 31 then !nbit r 30 else nfld r 28 3 == 0 && r % 64 == 0

/-- Whether the operand tile `x` of a command overlaps its result tile in a way that rule R183 refuses. DEDUCED, assumption 30. -/
def overlapBad (pl : Nat → Nat) (op : Nat) (d : List Word) (x o : Nat × Nat × Nat) : Bool :=
  let a := refPlace pl (tRef d x.1)
  let b := refPlace pl (tRef d 3)
  let meets := a < b + spanOf o.2.1 (tPitch d 3) o.2.2 && b < a + spanOf x.2.1 (tPitch d x.1) x.2.2
  meets && !(0x10 ≤ op && op ≤ 0x1F && tRef d x.1 == tRef d 3 && tPitch d x.1 == tPitch d 3)

/-- Whether the run fields are allowed (rules R74, R183, R190). -/
def runsOk (op : Nat) (d : List Word) : Bool :=
  let j := fld (dw d 10) 18 5
  let a := fld (dw d 10) 0 18
  let fout := fld (dw d 0) 12 4
  (j ≤ 18 || j == 31) && (j != 31 || a == 0) && (j == 31 || a % 2 ^ j == 0) &&
  (op > 4 || j == 31 || (tK d ≤ 64 * 2 ^ j && fout == 9)) &&
  (op != 5 || j != 0) && ((op != 5 && op != 6) || fout == 9 || j == 31 || a == 0)

/-! Worst-case waves (rules R186–R188). -/

/-- ⌈log₂ n⌉. -/
def clog2 (n : Nat) : Nat := if n ≤ 1 then 0 else (n - 1).log2 + 1

/-- W and D of an array or vector command. That of RING_LATEST is unknown before it runs and stands as its D alone. -/
def tileWaves (op : Nat) (d : List Word) : Nat × Nat :=
  let m := tM d
  let n := tN d
  let k := tK d
  let wi := (tFin d).bytes
  let wo := (tFout d).bytes
  let e := m * n
  let f := if wi = 8 ∨ wo = 8 then 2 else 1
  if op ≤ 4 then
    let r := match tFin d with
      | .bf16 | .fp16 => 2
      | .fp32 => 16
      | _ => 1
    let k64 := ceilDiv k 64 * 64
    let b := ceilDiv m 128 * (if op = 4 then 1 else ceilDiv n 64)
    (r * k64 * b, 48 + 4 * clog2 (k64 / 64))
  else if op = 5 then (ceilDiv (3 * e) 64, 32)
  else if op = 6 then (ceilDiv e 32, 32)
  else if op ≤ 0x1F then
    let c := if op = 0x13 ∨ op = 0x18 ∨ op = 0x1B then 6 else if op ∈ [0x19, 0x1A, 0x1C, 0x1D, 0x1E] then 10 else 1
    let b := wi * (1 + (usesB op).toNat + (usesC op).toNat) + wo
    (ceilDiv e 256 * max (c * f) (ceilDiv b 4), 32)
  else if op = 0x20 ∨ op = 0x21 then (ceilDiv (m * n) 256 * max f (ceilDiv (wi + wo) 4), 32 + 8 * clog2 k)
  else if op = 0x24 then (20 * f * ceilDiv e 256, 64 + 8 * clog2 n)
  else if op = 0x28 then (ceilDiv e 256 * max f (ceilDiv (wi + wo) 4), 32)
  else if op = 0x30 then (ceilDiv (2 * e * wi) 1024, 32)
  else if op = 0x31 then (ceilDiv m 256 + m * ceilDiv (2 * n * wi) 1024, 32)
  else if op = 0x38 then (8, 32)
  else (0, 32)

/-! The checks. -/

/-- The conditions that refuse an array or vector descriptor with ARG (rules R63–R66, R74, R155, R181–R183, R188, R190,
R193–R197). DEDUCED, assumption 30. -/
def tileArg (k : EngClass) (inRange : Nat → Bool) (pl : Nat → Nat) (d : List Word) : Bool :=
  let w0 := dw d 0
  let op := fld w0 0 8
  let fin := fld w0 8 4
  let fout := fld w0 12 4
  let rnd := fld w0 16 3
  let aux := tAux d
  let sh := tileShapes op d
  let used := fun i => if i = 0 then usesA op else if i = 1 then usesB op else if i = 2 then usesC op else true
  !(opClass op == some k) || !tileZeros d || !fmtInOk op fin || !fmtOutOk op fin fout aux ||
  4 < rnd || (k == .tile && 1 < rnd) || (0x38 ≤ op && (rnd != 0 || bit w0 19)) ||
  bit w0 20 != opNd op || !auxOk op fin fout aux || !gatesOk k inRange d || !runsOk op d ||
  tM d == 0 || tN d == 0 || (noReduction op && tK d != 1) ||
  ((op == 4 || op == 0x20 || op == 0x21) && tN d != 1) || (op == 3 && bit (dw d 7) 25) || (op == 2 && bit (dw d 7) 24) ||
  (List.range 4).any (fun i => (used i == (tRef d i == 0)) || (used i && !refOk (tRef d i))) ||
  nbit (tRef d 3) 31 ||
  sh.any (fun x => tPitch d x.1 < x.2.2) || tPitch d 3 == 0 ||
  (match sh.getLast? with
    | some o => sh.dropLast.any fun x => overlapBad pl op d x o
    | none => false) ||
  9920 < (tileWaves op d).1 + (tileWaves op d).2

/-- The tiles whose place in a cistern a descriptor fixes: of CONV2D's operand A its first row, and of the result of RING_LATEST the
128 bytes of the smallest record; the rest of those two is checked when they run. -/
def boundShapes (op : Nat) (d : List Word) : List (Nat × Nat × Nat) :=
  tileShapes op d ++ (if op = 2 then [(0, 1, 64)] else if op = 0x39 then [(3, 1, 128)] else [])

/-- Whether a cistern tile passes the end of its cistern or names a basin at or above the grade's count (rules R153,
R154). DEDUCED, assumption 30. -/
def tileBounds (pl : Nat → Nat) (n : Nat) (d : List Word) : Bool :=
  n ≤ pl (fld (dw d 1) 24 4) ||
  (boundShapes (fld (dw d 0) 0 8) d).any fun x =>
    let r := tRef d x.1
    !nbit r 31 && (n ≤ pl (nfld r 24 4) || 0xC00000 < r % 2 ^ 24 + spanOf x.2.1 (tPitch d x.1) x.2.2)

/-- The checks of an array or vector descriptor that depend only on it, its list and its declaration (rule R184). DEDUCED, assumption 30. -/
def tileCheck (k : EngClass) (inRange : Nat → Bool) (pl : Nat → Nat) (n : Nat) (d : List Word) : Nat :=
  if tileArg k inRange pl d then cARG else if tileBounds pl n d then cBOUNDS else cOK

end Sys2Proof.Machine
end

