-- ==== Sys2Proof/Machine/Tile.lean ====
section
/-! DEFINITION. Machine/Tile.lean: the commands of the MAC arrays and vector units (rules R75, R79, R89, R91, R154, R156,
R182, R185, R189–R197). -/

namespace Sys2Proof.Machine

/-! Operands (rules R154–R156, R164, R182, R184, R206, R209, R218). -/

/-- The state of reading operands: the first failing code, the state, LPDDR6 bytes and data flits. -/
structure Fetch where
  code : Nat
  rd : Nat
  flits : Nat
  s : State

/-- Whether a tile of `span` bytes at a reference can be reached: its code, and its unit where it is a cistern. -/
def State.refReach (s : State) (pl : Nat → Nat) (r span : Nat) : Nat × Nat :=
  if nbit r 31 then
    let a := r % 2 ^ 30 * 64
    if s.dramCode a span ≠ cOK then (s.dramCode a span, 0) else if s.inMap a span then (cBOUNDS, 0) else (cOK, 0)
  else
    let u := s.unitOf false (pl (nfld r 24 4))
    if u.1 ≠ cOK then u else if 0xC00000 < r % 2 ^ 24 + span then (cBOUNDS, 0) else u

/-- `n` bytes at offset `o` from a reference whose unit is `u`. -/
def Fetch.read (f : Fetch) (c u r o n : Nat) : List Byte × Fetch :=
  if f.code ≠ cOK then ([], f)
  else if nbit r 31 then
    let q := f.s.dramGet (some c) (r % 2 ^ 30 * 64 + o) n
    (q.2.1, { code := q.1, rd := f.rd + n, flits := f.flits + ceilDiv n 64, s := q.2.2 })
  else
    let q := f.s.sramGet u (r % 2 ^ 24 + o) n (some c)
    (q.2.1, { f with code := q.1, s := q.2.2 })

/-- The elements of `w` bytes that a row holds, `n` at most. -/
def elemsOf (w n : Nat) (bs : List Byte) : List Nat :=
  match n with
  | 0 => []
  | k + 1 => leNat (bs.take w) :: elemsOf w k (bs.drop w)

/-- Rows `from`, `from + 1`, … of a tile, as elements of `w` bytes. -/
def Fetch.rows (f : Fetch) (c u r pitch cols w i n : Nat) : List (List Nat) × Fetch :=
  match n with
  | 0 => ([], f)
  | k + 1 =>
    let q := f.read c u r (i * pitch) (cols * w)
    let t := q.2.rows c u r pitch cols w (i + 1) k
    (elemsOf w cols q.1 :: t.1, t.2)

/-- A tile of `rows` rows of `cols` elements of `w` bytes, read after its reach is checked. -/
def Fetch.tile (f : Fetch) (c : Nat) (pl : Nat → Nat) (r pitch rows cols w : Nat) : List (List Nat) × Fetch :=
  let q := f.s.refReach pl r (spanOf rows pitch (cols * w))
  if f.code ≠ cOK then ([], f)
  else if q.1 ≠ cOK then ([], { f with code := q.1 })
  else f.rows c q.2 r pitch cols w 0 rows

/-- The columns of a matrix of `n` columns. -/
def columns (n : Nat) (rows : List (List Nat)) : List (List Nat) :=
  (List.range n).map fun j => rows.map fun r => r.getD j 0

/-! Results (rules R79, R89–R91, R198). -/

/-- The counts of a result in order of its elements: SAT, FLUSH, INVALID and the first invalid element with its run. -/
def countElts (es : List Elt) : Nat × Nat × Nat × Option (Nat × Nat) :=
  (es.countP fun e => e.mark == .sat, es.countP fun e => e.mark == .flush, es.countP fun e => e.mark == .invalid,
    (es.zipIdx.find? fun p => p.1.mark == .invalid).map fun p => (p.2, p.1.run))

/-- Rows of bytes stored in a cistern from `ofs` on, `pitch` apart: the first failing code. Every write ends the residency
of the regions it touches (rule R160). -/
def State.putRows (s : State) (c u ofs pitch : Nat) (rows : List (List Byte)) : Nat × State :=
  match rows with
  | [] => (cOK, s)
  | bs :: rest =>
    let q := (s.dropTagsAt u ofs bs.length).sramSet u ofs bs (some c)
    let t := State.putRows q.2 c u (ofs + pitch) pitch rest
    (if q.1 = cOK then t.1 else q.1, t.2)

/-- The pieces of some bytes at an offset that lie in one 64-byte row each, with their offsets. -/
def rowPieces (n ofs : Nat) (bs : List Byte) : List (Nat × List Byte) :=
  match n with
  | 0 => []
  | k + 1 =>
    let m := 64 - ofs % 64
    if bs.isEmpty then [] else (ofs, bs.take m) :: rowPieces k (ofs + m) (bs.drop m)

/-- Some of the 64-byte rows of a result stored, as the silicon leaves them (rules R457, R482): row by row the old bytes or the
new ones. -/
def State.putSome (s : State) (c u ofs pitch : Nat) (rows : List (List Byte)) : State :=
  let ps := rows.zipIdx.flatMap fun r => rowPieces (r.1.length / 64 + 2) (ofs + r.2 * pitch) r.1
  ps.foldl (fun s p =>
    let b := s.freeBit
    if b.1 then (b.2.putRows c u p.1 0 [p.2]).2 else b.2) s

/-- The rows of `n` elements each of a flat result. -/
def rowsOf (w n m : Nat) (es : List Nat) : List (List Byte) :=
  match m with
  | 0 => []
  | k + 1 => ((es.take n).flatMap (leBytes w)) :: rowsOf w n k (es.drop n)

/-- What an array or vector command computes: its code; whether it is refused; its rows; its elements for the counts; and the
words from word 4 on of the ledger entry of an ND command (rule R363). -/
structure Result where
  ledger : Option (List Word) := none
  code : Nat
  refused : Bool
  rows : List (List Byte)
  elts : List Elt
  f : Fetch

/-- A command refused while it reads. -/
def Result.refuse (f : Fetch) : Result := { code := f.code, refused := true, rows := [], elts := [], f := f }

/-- A refusal with a code. -/
def Result.stop (f : Fetch) (code : Nat) : Result := .refuse { f with code := code }

/-- The rounding that a descriptor names; `i` is the logical index of the element, `d` the roundings per element and `t` the
one at hand (rule R79). DEDUCED, assumption 44. -/
def tileRnd (x : Ctx) (d : List Word) (i dn t : Nat) : Rnd :=
  rndOf (fld (dw d 0) 16 3) x.seed.toNat x.step.toNat (fld (dw d 1) 0 24) i dn t

/-- A result of elements in the format of `w` bytes. DEDUCED, assumption 44. -/
def Result.ofElts (f : Fetch) (w m n : Nat) (es : List Elt) : Result :=
  if f.code ≠ cOK then .refuse f
  else { code := cOK, refused := false, rows := rowsOf w n m (es.map (·.bits)), elts := es, f := f }

/-- The elements of an M × N result in row-major order. -/
def eltsOf (m n : Nat) (g : Nat → Nat → Elt) : List Elt :=
  (List.range m).flatMap fun r => (List.range n).map fun c => g r c

/-- The products of two rows of operands. -/
def products (fin : Fmt) (a b : List Nat) : List Exact :=
  List.zipWith (fun x y => tensorProduct (decodeVal fin 0 x) (decodeVal fin 0 y)) a b

/-- A tensor result from its rows of A and its columns of B (rules R189, R190). -/
def tensorElts (x : Ctx) (d : List Word) (scale : Int) (as bs : List (List Nat)) : List Elt :=
  let n := bs.length
  (as.zipIdx.flatMap fun a => bs.zipIdx.map fun b =>
    dotProduct (tFout d) (tileRnd x d (a.2 * n + b.2) 1 0) (bit (dw d 0) 19) scale (products (tFin d) a.1 b.1))

/-- The operand A of a reduction, as M rows of K. -/
def Fetch.opA (f : Fetch) (c : Nat) (pl : Nat → Nat) (d : List Word) : List (List Nat) × Fetch :=
  let w := (tFin d).bytes
  if bit (dw d 7) 24 then
    let q := f.tile c pl (tRef d 0) (tPitch d 0) (tK d) (tM d) w
    (columns (tM d) q.1, q.2)
  else f.tile c pl (tRef d 0) (tPitch d 0) (tM d) (tK d) w

/-- The operand B of a reduction, as N columns of K; `nk` where it is stored as [N, K]. -/
def Fetch.opB (f : Fetch) (c : Nat) (pl : Nat → Nat) (d : List Word) (nk : Bool) : List (List Nat) × Fetch :=
  let w := (tFin d).bytes
  if nk then f.tile c pl (tRef d 1) (tPitch d 1) (tN d) (tK d) w
  else
    let q := f.tile c pl (tRef d 1) (tPitch d 1) (tK d) (tN d) w
    (columns (tN d) q.1, q.2)

/-- An operand of the size of the result. -/
def Fetch.same (f : Fetch) (c : Nat) (pl : Nat → Nat) (d : List Word) (i w : Nat) : List (List Nat) × Fetch :=
  f.tile c pl (tRef d i) (tPitch d i) (tM d) (tN d) w

/-! Array operations (rules R189, R190). -/

def doMatmul (x : Ctx) (c : Nat) (pl : Nat → Nat) (d : List Word) (f : Fetch) : Result :=
  let a := f.opA c pl d
  let b := a.2.opB c pl d (bit (dw d 7) 25)
  .ofElts b.2 (tFout d).bytes (tM d) (tN d) (tensorElts x d 0 a.1 b.1)

def doAttn (x : Ctx) (c : Nat) (pl : Nat → Nat) (d : List Word) (f : Fetch) : Result :=
  let a := f.opA c pl d
  let b := a.2.opB c pl d true
  .ofElts b.2 (tFout d).bytes (tM d) (tN d) (tensorElts x d (sext 8 (tAux d)) a.1 b.1)

def doSumReduce (x : Ctx) (c : Nat) (pl : Nat → Nat) (d : List Word) (f : Fetch) : Result :=
  let a := f.opA c pl d
  let es := a.1.zipIdx.map fun r => dotProduct (tFout d) (tileRnd x d r.2 1 0) (bit (dw d 0) 19) 0
    (r.1.map fun v => tensorProduct (decodeVal (tFin d) 0 v) (.num false 1 0))
  .ofElts a.2 (tFout d).bytes (tM d) 1 es

/-- The parameter block of CONV2D (rule R190). -/
structure Conv where
  inH : Nat
  inW : Nat
  ch : Nat
  kh : Nat
  kw : Nat
  sy : Nat
  sx : Nat
  dy : Nat
  dx : Nat
  padT : Nat
  padL : Nat
  zeros : Bool

def convOf (w : List Word) : Conv :=
  let p := dw w 2
  { inH := fld (dw w 0) 0 16, inW := fld (dw w 0) 16 16, ch := fld (dw w 1) 0 24, kh := fld p 0 4 + 1, kw := fld p 4 4 + 1,
    sy := fld p 8 4 + 1, sx := fld p 12 4 + 1, dy := fld p 16 4 + 1, dx := fld p 20 4 + 1, padT := fld p 24 4,
    padL := fld p 28 4, zeros := fld (dw w 1) 24 8 == 0 && dw w 3 == 0 }

/-- ⌊(size + 2 · pad − dilation · (kernel − 1) − 1) ÷ stride⌋ + 1, or 0 where the kernel does not fit. -/
def convOut (size pad dil k st : Nat) : Nat :=
  if size + 2 * pad < dil * (k - 1) + 1 then 0 else (size + 2 * pad - dil * (k - 1) - 1) / st + 1

/-- The terms of one output position of CONV2D in the order of rule R66: the element of A, or none in the padding. -/
def Conv.terms (p : Conv) (ow pos : Nat) (a : List (List Nat)) : List (Option Nat) :=
  let oy := pos / ow
  let ox := pos % ow
  (List.range p.ch).flatMap fun c => (List.range p.kh).flatMap fun ky => (List.range p.kw).map fun kx =>
    let y := oy * p.sy + ky * p.dy
    let x := ox * p.sx + kx * p.dx
    if p.padT ≤ y ∧ y - p.padT < p.inH ∧ p.padL ≤ x ∧ x - p.padL < p.inW then
      some ((a.getD ((y - p.padT) * p.inW + (x - p.padL)) []).getD c 0)
    else none

def doConv2d (x : Ctx) (c lb : Nat) (pl : Nat → Nat) (d : List Word) (f : Fetch) : Result :=
  let aux := tAux d
  let u := f.s.unitOf false lb
  let blk := ({ f with code := u.1 } : Fetch).read c u.2 aux 0 16
  if u.1 ≠ cOK then .stop f u.1
  else if 0xC00000 < aux + 16 then .stop f cBOUNDS
  else if blk.2.code ≠ cOK then .refuse blk.2
  else
    let p := convOf (bytesWords 4 blk.1)
    let f := blk.2
    let w := (tFin d).bytes
    let oh := convOut p.inH p.padT p.dy p.kh p.sy
    let ow := convOut p.inW p.padL p.dx p.kw p.sx
    let rows := p.inH * p.inW
    let shape := (0, rows, p.ch * w)
    if !p.zeros ∨ p.inH = 0 ∨ p.inW = 0 ∨ p.ch = 0 ∨ tM d ≠ oh * ow ∨ tK d ≠ p.ch * p.kh * p.kw ∨
        tPitch d 0 < p.ch * w ∨ overlapBad pl 2 d shape (3, tM d, tN d * (tFout d).bytes) then .stop f cARG
    else
      let a := f.tile c pl (tRef d 0) (tPitch d 0) rows p.ch w
      let b := a.2.opB c pl d (bit (dw d 7) 25)
      let n := tN d
      let es := (List.range (tM d)).flatMap fun pos =>
        let ts := p.terms ow pos a.1
        b.1.zipIdx.map fun col =>
          dotProduct (tFout d) (tileRnd x d (pos * n + col.2) 1 0) (bit (dw d 0) 19) 0
            (List.zipWith (fun (t : Option Nat) y => match t with
              | some v => tensorProduct (decodeVal (tFin d) 0 v) (decodeVal (tFin d) 0 y)
              | none => .num false 0 0 false) ts col.1)
      .ofElts b.2 (tFout d).bytes (tM d) n es

/-- CARRY operands, or none where rule R75 refuses one. -/
def carries (rows : List (List Nat)) : Option (List Carry) := rows.flatten.mapM carryOf

def doCombine (x : Ctx) (c : Nat) (pl : Nat → Nat) (d : List Word) (f : Fetch) : Result :=
  let a := f.same c pl d 0 16
  let b := a.2.same c pl d 1 16
  if b.2.code ≠ cOK then .refuse b.2
  else
    match carries a.1, carries b.1 with
    | some as, some bs =>
      let es := (List.zip as bs).zipIdx.map fun p =>
        let v := carryNode p.1.1 p.1.2
        carryFinish (tFout d) (tileRnd x d p.2 1 0) (bit (dw d 0) 19) v.1 none v.2
      .ofElts b.2 (tFout d).bytes (tM d) (tN d) es
    | _, _ => .stop b.2 cARG

def doFinal (x : Ctx) (c : Nat) (pl : Nat → Nat) (d : List Word) (f : Fetch) : Result :=
  let a := f.same c pl d 0 16
  if a.2.code ≠ cOK then .refuse a.2
  else
    match carries a.1 with
    | some as =>
      .ofElts a.2 (tFout d).bytes (tM d) (tN d) (as.zipIdx.map fun p =>
        carryFinish (tFout d) (tileRnd x d p.2 1 0) (bit (dw d 0) 19) p.1 none false)
    | none => .stop a.2 cARG

/-! Vector operations (rules R191–R196). -/

def doElementwise (op : Nat) (x : Ctx) (c : Nat) (pl : Nat → Nat) (d : List Word) (f : Fetch) : Result :=
  let w := (tFin d).bytes
  let a := f.same c pl d 0 w
  let b := if usesB op then a.2.same c pl d 1 w else ([], a.2)
  let z := if usesC op then b.2.same c pl d 2 w else ([], b.2)
  let bs := b.1.flatten
  let zs := z.1.flatten
  let es := a.1.flatten.zipIdx.map fun p =>
    elementwise op (tFin d) (tileRnd x d p.2 1 0) (bit (dw d 0) 19) (tAux d) p.1 (bs.getD p.2 0) (zs.getD p.2 0)
  .ofElts z.2 w (tM d) (tN d) es

def doReduce (maxi : Bool) (c : Nat) (pl : Nat → Nat) (d : List Word) (f : Fetch) : Result :=
  let a := f.opA c pl d
  .ofElts a.2 (tFin d).bytes (tM d) 1 (a.1.map fun r => reduceElt maxi (tFin d) r)

/-- DEDUCED, assumption 44. -/
def doSoftmax (x : Ctx) (c : Nat) (pl : Nat → Nat) (d : List Word) (f : Fetch) : Result :=
  let w := (tFin d).bytes
  let a := f.same c pl d 0 w
  let n := tN d
  .ofElts a.2 w (tM d) n (a.1.zipIdx.flatMap fun r =>
    softmaxRow (tFin d) (fun j t => tileRnd x d (r.2 * n + j) 3 t) (bit (dw d 0) 19) r.1)

def doConvert (x : Ctx) (c : Nat) (pl : Nat → Nat) (d : List Word) (f : Fetch) : Result :=
  let a := f.same c pl d 0 (tFin d).bytes
  let sa := nfld (tAux d) 0 5
  let sb := nfld (tAux d) 8 5
  .ofElts a.2 (tFout d).bytes (tM d) (tN d) (a.1.flatten.zipIdx.map fun p =>
    convertElt (tFin d) (tFout d) sa sb (tileRnd x d p.2 1 0) (bit (dw d 0) 19) p.1)

/-- A result of rows moved unchanged. -/
def Result.ofRows (f : Fetch) (rows : List (List Byte)) : Result :=
  if f.code ≠ cOK then .refuse f else { code := cOK, refused := false, rows := rows, elts := [], f := f }

def doCopy (c : Nat) (pl : Nat → Nat) (d : List Word) (f : Fetch) : Result :=
  let w := (tFin d).bytes
  let a := f.same c pl d 0 w
  .ofRows a.2 (a.1.map fun r => r.flatMap (leBytes w))

/-- An outcome of the command's own: BOUNDS, captured on the basin page, with nothing written (rules R195, R196). DEDUCED, assumption 48. -/
def Result.ownBounds (f : Fetch) (u c addr : Nat) : Result :=
  { code := cBOUNDS, refused := false, rows := [], elts := [],
    f := { f with s := f.s.errCapture (unitPage u) cBOUNDS 3 c addr } }

/-- The rows of GATHER_ROWS at a list of indices. DEDUCED, assumption 48. -/
def Fetch.gather (f : Fetch) (c u r pitch cols w : Nat) (idx : List Nat) : List (List Byte) × Fetch :=
  match idx with
  | [] => ([], f)
  | i :: rest =>
    let q := f.rows c u r pitch cols w i 1
    let t := q.2.gather c u r pitch cols w rest
    ((q.1.flatMap fun row => row.flatMap (leBytes w)) :: t.1, t.2)

/-- DEDUCED, assumption 48. -/
def doGather (u c : Nat) (pl : Nat → Nat) (d : List Word) (f : Fetch) : Result :=
  let w := (tFin d).bytes
  let ix := f.tile c pl (tRef d 1) (tPitch d 1) (tM d) 1 4
  let q := ix.2.s.refReach pl (tRef d 0) (spanOf (tAux d) (tPitch d 0) (tN d * w))
  if ix.2.code ≠ cOK then .refuse ix.2
  else if q.1 ≠ cOK then .stop ix.2 q.1
  else
    let idx := ix.1.flatten
    match idx.findIdx? fun v => 2 ^ 31 ≤ v ∨ tAux d ≤ v with
    | some i => .ownBounds ix.2 u c i
    | none =>
      let g := ix.2.gather c q.2 (tRef d 0) (tPitch d 0) (tN d) w idx
      .ofRows g.2 g.1

/-- A time counter in the layout of a snapshot (rules R109, R196). -/
def timeRow (t : Tc) : List Byte :=
  wordBytes [w32 t.ns.toNat, w32 t.sec.toNat, w32 (t.sec.toNat / 2 ^ 32), t.frac]

/-- TIME_READ of the counter `t` that its start read, or its logged value in a replay (rules R196, R363, R364). -/
def doTimeRead (c : Nat) (t : Tc) (d : List Word) (f : Fetch) : Result :=
  let log := fun (f : Fetch) row => { Result.ofRows f [row] with ledger := some (bytesWords 4 row) }
  if f.s.rpMode c = 2 then
    match f.s.replayTake c 1 (fld (dw d 1) 0 24) 0 with
    | some e => log { f with s := e.2 } (wordBytes ((e.1.drop 4).take 4))
    | none => .stop f cARG
  else log f (timeRow t)

/-- The record in a slot of a ring. -/
def Fetch.ringSlot (f : Fetch) (c i slot : Nat) : List Byte × Fetch :=
  let n := f.s.ringSlotBytes i
  let q := f.s.dramGet (some c) (f.s.ringBase i + slot * n) n
  (q.2.1, { code := q.1, rd := f.rd + n, flits := f.flits + ceilDiv n 64, s := q.2.2 })

/-- RING_LATEST copies the newest record of its ring, which its start found in `start`, or in a replay the logged one; when the
record's SEQ has changed since its start, it copies from the slot that is now the newest (rules R121, R196, R363, R364). A record wider
than the result's pitch, or than the bound of rule R188 allows, is refused with ARG. DEDUCED, assumption 48. -/
def doRingLatest (u c : Nat) (d : List Word) (start : Option (Nat × Word)) (f : Fetch) : Result :=
  let i := tAux d
  let n := f.s.ringSlotBytes i
  let log := fun slot (row : List Byte) => some [w32 i, w32 slot, wordAt row 4]
  if tPitch d 3 < n ∨ 9920 < ceilDiv (2 * n) 1024 + 32 then .stop f cARG
  else if f.s.rpMode c = 2 then
    match f.s.replayTake c 2 (fld (dw d 1) 0 24) 0 with
    | none => .stop f cARG
    | some e =>
      let f := { f with s := e.2 }
      let slot := fld (dw e.1 5) 0 17
      if fld (dw e.1 0) 8 8 = cBOUNDS then { Result.ownBounds f u c i with ledger := some [w32 i] }
      else
        let q := f.ringSlot c i slot
        if q.2.code = cOK ∧ wordAt q.1 4 ≠ dw e.1 6 then { Result.stop q.2 cARG with ledger := some [w32 i, w32 slot, dw e.1 6] }
        else { Result.ofRows q.2 [q.1] with ledger := log slot q.1 }
  else
    match start with
    | none => { Result.ownBounds f u c i with ledger := some [w32 i] }
    | some (old, seq) =>
      let moved := w32 (f.s.dram.nat (f.s.ringBase i + old * n + 4) 4) != seq
      let slot := if moved then ((f.s.newestSlot i).getD (old, seq)).1 else old
      let q := f.ringSlot c i slot
      { Result.ofRows q.2 [q.1] with ledger := log slot q.1 }

/-- The work of a command by its opcode. `u` is the unit that runs it and `lb` its logical basin. -/
def runOp (op : Nat) (x : Ctx) (c u lb : Nat) (pl : Nat → Nat) (d : List Word) (q : Running) (f : Fetch) : Result :=
  if op = 1 then doMatmul x c pl d f
  else if op = 2 then doConv2d x c lb pl d f
  else if op = 3 then doAttn x c pl d f
  else if op = 4 then doSumReduce x c pl d f
  else if op = 5 then doCombine x c pl d f
  else if op = 6 then doFinal x c pl d f
  else if op ≤ 0x1F then doElementwise op x c pl d f
  else if op = 0x20 then doReduce true c pl d f
  else if op = 0x21 then doReduce false c pl d f
  else if op = 0x24 then doSoftmax x c pl d f
  else if op = 0x28 then doConvert x c pl d f
  else if op = 0x30 then doCopy c pl d f
  else if op = 0x31 then doGather u c pl d f
  else if op = 0x38 then doTimeRead c q.tc0 d f
  else doRingLatest u c d q.ring f

/-- The record and effects of a computed command: its result written, or left row by row where its check fails (rules R89,
R91, R156, R175, R185, R195, R199, R482). -/
def finishTile (c u : Nat) (pl : Nat → Nat) (d : List Word) (source : Nat) (residue : Bool) (r : Result) : Run :=
  let dest := r.f.s.refReach pl (tRef d 3) (spanOf (r.rows.length) (tPitch d 3) ((r.rows.headD []).length))
  let ofs := tRef d 3 % 2 ^ 24
  let base := fun code s => { runRefuse code s with rd := r.f.rd, flits := r.f.flits }
  let lcn := fld (dw d 1) 0 24
  let log := r.ledger.map fun l => [l]
  if r.refused then { base r.code r.f.s with ledger := log }
  else if r.code ≠ cOK then { runEnd r.code r.f.s with rd := r.f.rd, flits := r.f.flits, ledger := log }
  else if dest.1 ≠ cOK then base dest.1 r.f.s
  else if residue then
    let s := r.f.s.putSome c dest.2 ofs (tPitch d 3) r.rows
    { base cTEARDOWN ((s.tearDown c cTEARDOWN lcn).checkFail u source c) with ledger := log }
  else
    let q := r.f.s.putRows c dest.2 ofs (tPitch d 3) r.rows
    if q.1 ≠ cOK then { base q.1 q.2 with ledger := log }
    else
      let k := countElts r.elts
      let at_ := k.2.2.2.getD (0, 0xFFFF)
      let inv := k.2.2.2.isSome
      { runEnd cOK q.2 with
        ledger := log, w4 := k.1, w5 := k.2.1, w6 := k.2.2.1, row := if inv then at_.1 / tN d else 0xFFFF,
        col := if inv then at_.1 % tN d else 0xFFFF, run := if inv then at_.2 else 0xFFFF,
        bytes := (r.rows.map List.length).sum, rd := r.f.rd, flits := r.f.flits }

/-- The logical basin of an image basin for a context. -/
def placeFn (x : Ctx) (b : Nat) : Nat := placed x x.placement b

/-- Whether a reference can be reached over the canal from a node: a cistern by its basin's node, LPDDR6 by a pump port that is in
service; `out` where the transfer leaves the node for it (rules R164, R170, R182). A basin that is not mapped is left to its own check.
DEDUCED, assumption 31. -/
def State.refLinked (s : State) (pl : Nat → Nat) (node : Nat) (out : Bool) (r : Nat) : Bool :=
  if nbit r 31 then [0, 11].any fun n => !bit (s.rm (nodeWord n)) 0 && s.linked n node
  else
    match s.physOf false (pl (nfld r 24 4)) with
    | none => true
    | some p => if out then s.linked node (unitNode p) else s.linked (unitNode p) node

/-- The references that an array or vector operation uses, operands A, B, C and the result as 0 to 3. -/
def tileRefs (op : Nat) : List Nat :=
  (if usesA op then [0] else []) ++ (if usesB op then [1] else []) ++ (if usesC op then [2] else []) ++ [3]

/-- Whether the operands and the result of a tile command on unit `u` are reachable over the canal (rules R164, R170, R182). DEDUCED, assumption 31. -/
def State.tileLinked (s : State) (pl : Nat → Nat) (u op : Nat) (d : List Word) : Bool :=
  (tileRefs op).all fun i => s.refLinked pl (unitNode u) (i = 3) (tRef d i)

/-- Whether a reference lies on a fenced basin, transfers to which wait (rule R176). -/
def State.refWaits (s : State) (pl : Nat → Nat) (r : Nat) : Bool := !nbit r 31 && s.isFenced false (pl (nfld r 24 4))

/-- A tile command runs on its basin (rules R164, R183, R184, R346). -/
def State.tileRun (s : State) (q : Running) (k : EngClass) (lb : Nat) : Run :=
  let h := q.head
  let x := s.ctx h.c
  let d := h.desc
  let pl := placeFn x
  let op := fld (dw d 0) 0 8
  let u := s.unitOf false lb
  let list := ((x.lists[h.list]?).map (·.code)).getD 0
  let code := tileCheck k (gateInRange x) pl s.logicalBasins d
  if fld (dw d 1) 24 4 ≠ list % 16 ∨ s.waitsFree k d then runRefuse cARG s
  else if code ≠ cOK then runRefuse code s
  else if u.1 ≠ cOK then runRefuse u.1 s
  else if !s.tileLinked pl u.2 op d then runRefuse cOFF_DOMAIN s
  else
    let r := runOp op x h.c u.2 lb pl d q { code := cOK, rd := 0, flits := 0, s := s }
    finishTile h.c u.2 pl d (if k = .tile then 2 else 3) q.residue r

end Sys2Proof.Machine
end

