-- ==== Sys2Proof/Machine/Pump.lean ====
section
/-! DEFINITION. Machine/Pump.lean: pump descriptors, buffer windows and resident-skippable loads (rules R160, R163, R164,
R200–R202, R209, R218, R340, R457). -/

namespace Sys2Proof.Machine

/-! Fields (rule R200). -/

def pKind (d : List Word) : Nat := fld (dw d 0) 0 4
def pLen (d : List Word) : Nat := fld (dw d 0) 8 24
def pRows (d : List Word) : Nat := fld (dw d 1) 16 16 + 1
def pSrcWin (d : List Word) : Nat := fld (dw d 1) 0 8
def pDstWin (d : List Word) : Nat := fld (dw d 1) 8 8
def pSrcOfs (d : List Word) : Nat := (dw d 2).toNat
def pDstOfs (d : List Word) : Nat := (dw d 3).toNat
def pSrcPitch (d : List Word) : Nat := fld (dw d 6) 0 16
def pDstPitch (d : List Word) : Nat := fld (dw d 6) 16 16

/-- Whether some row read shares a byte with a row written, both in one memory: the rows of source row `i` on (rule
R201). -/
def rowsMeet (src sp dst dp len rows i n : Nat) : Bool :=
  match n with
  | 0 => false
  | k + 1 =>
    let a := src + i * sp
    let j := if a < dst + len then 0 else if dp = 0 then rows else (a - dst - len) / dp + 1
    (j < rows && dst + j * dp < a + len) || rowsMeet src sp dst dp len rows (i + 1) k

/-- The windows that a context's declaration allows its descriptors (rules R201, R340). -/
def windowOk (x : Ctx) (w : Nat) : Bool := w + (if x.batch then (x.members - 1) * x.wpm else 0) < x.windows

/-- The conditions that refuse a pump descriptor with ARG at admission (rules R200, R201, R340). -/
def pumpArg (x : Ctx) (d : List Word) : Bool :=
  let k := pKind d
  let two := k == 2
  let zero := k == 3
  k == 0 || 3 < k || fld (dw d 0) 6 2 != 0 || fld (dw d 7) 24 8 != 0 || pLen d == 0 ||
  (!two && (pRows d != 1 || pSrcPitch d != 0 || pDstPitch d != 0)) || (zero && (pSrcWin d != 0 || pSrcOfs d != 0)) ||
  (two && (pSrcPitch d < pLen d || pDstPitch d < pLen d)) || !windowOk x (pDstWin d) || (!zero && !windowOk x (pSrcWin d)) ||
  !gatesOk .pump (gateInRange x) d ||
  (!zero && pSrcWin d == pDstWin d &&
    rowsMeet (pSrcOfs d) (pSrcPitch d) (pDstOfs d) (pDstPitch d) (pLen d) (pRows d) 0 (pRows d))

/-- The checks of a pump descriptor that depend only on it and its declaration (rule R184). -/
def pumpCheck (x : Ctx) (d : List Word) : Nat := if pumpArg x d then cARG else cOK

/-- The bytes from an offset to the end of the last row. -/
def pExtent (d : List Word) (ofs pitch : Nat) : Nat := ofs + (pRows d - 1) * pitch + pLen d

/-- Whether two windows lie in one memory. -/
def sameMemory (a b : Window) : Bool := a.basin == b.basin

/-- Whether a side can be reached: its code, and its unit where it is a cistern (rules R153, R164, R206, R215, R218). A window in
LPDDR6 that passes MEM_TOP or overlaps the enabled map region is refused whole. DEDUCED, assumption 47. DESIGN CHOICE, assumption 53. -/
def State.windowReach (s : State) (w : Window) (ofs n : Nat) : Nat × Nat :=
  match w.basin with
  | some lb =>
    let u := s.unitOf false lb
    if u.1 ≠ cOK then u else if 0xC00000 < w.base + ofs + n then (cBOUNDS, 0) else u
  | none => (s.dramReach w.base w.size, 0)

/-- The canal node of a side of pump `p`: its basin's, or the port of the pump for LPDDR6 (rules R161, R164). -/
def windowNode (p : Nat) (w : Window) (u : Nat) : Nat := if w.basin = none then pumpNode p else unitNode u

/-- One row read from a window. -/
def State.rowGet (s : State) (c : Nat) (w : Window) (u a n : Nat) : Nat × List Byte × State :=
  match w.basin with
  | some _ => s.sramGet u (w.base + a) n (some c)
  | none => s.dramGet (some c) (w.base + a) n

/-- One row written to a window. -/
def State.rowSet (s : State) (c : Nat) (w : Window) (u a : Nat) (bs : List Byte) : Nat × State :=
  match w.basin with
  | some _ => s.putRows c u (w.base + a) 0 [bs]
  | none => s.dramSet (some c) (w.base + a) bs

/-- What a pump has moved: the code, the state and the LPDDR6 bytes and flits. -/
structure Move where
  code : Nat
  rd : Nat
  wr : Nat
  flits : Nat
  s : State

/-- The rows of a descriptor moved in ascending order, one transfer each (rules R202, R209): a row whose read fails does not
move and stops the descriptor; a row whose write meets a poisoned line is written, and the other rows still move. -/
def Move.rows (m : Move) (c : Nat) (d : List Word) (src : Option (Window × Nat)) (dst : Window × Nat) (i n : Nat) : Move :=
  match n with
  | 0 => m
  | k + 1 =>
    let len := pLen d
    let q : Nat × List Byte × State := match src with
      | some w => m.s.rowGet c w.1 w.2 (pSrcOfs d + i * pSrcPitch d) len
      | none => (cOK, List.replicate len 0, m.s)
    let rd := match src with
      | some w => if w.1.basin = none then len else 0
      | none => 0
    if q.1 ≠ cOK then { m with code := q.1, rd := m.rd + rd, s := q.2.2 }
    else
      let z := q.2.2.rowSet c dst.1 dst.2 (pDstOfs d + i * pDstPitch d) q.2.1
      let m : Move := { code := if z.1 = cOK then m.code else z.1, rd := m.rd + rd,
                        wr := m.wr + (if dst.1.basin = none then len else 0), flits := m.flits + ceilDiv len 64, s := z.2 }
      m.rows c d src dst (i + 1) k

/-- The tag of a load that has been made (rule R160). -/
def State.setTag (s : State) (t : Option Tag) : State :=
  match t with
  | some t => { s with head := { s.head with tags := s.head.tags ++ [t] } }
  | none => s

/-- A pump descriptor runs (rules R160, R170, R200–R202). -/
def State.pumpRun (s : State) (h : Head) (p : Nat) : Run :=
  let x := s.ctx h.c
  let d := h.desc
  let win := fun n => Cells.get none x.bound (n + h.member * x.wpm)
  if s.head.pumpsLost.contains p then runRefuse cOFF_DOMAIN s
  else if pumpArg x d ∨ s.waitsFree .pump d then runRefuse cARG s
  else
    match win (pDstWin d), (if pKind d = 3 then some none else (win (pSrcWin d)).map some) with
    | some dst, some src =>
      let meets := match src with
        | some a => sameMemory a dst && rowsMeet (a.base + pSrcOfs d) (pSrcPitch d) (dst.base + pDstOfs d) (pDstPitch d)
            (pLen d) (pRows d) 0 (pRows d)
        | none => false
      let long : Bool := match src with
        | some a => decide (a.size < pExtent d (pSrcOfs d) (pSrcPitch d))
        | none => false
      let reach := match src with
        | some a => s.windowReach a (pSrcOfs d) (pExtent d 0 (pSrcPitch d))
        | none => (cOK, 0)
      let goal := s.windowReach dst (pDstOfs d) (pExtent d 0 (pDstPitch d))
      if meets then runRefuse cARG s
      else if long ∨ dst.size < pExtent d (pDstOfs d) (pDstPitch d) then runRefuse cBOUNDS s
      else if reach.1 ≠ cOK then runRefuse reach.1 s
      else if goal.1 ≠ cOK then runRefuse goal.1 s
      else if !s.linked (src.elim (pumpNode p) fun a => windowNode p a reach.2) (windowNode p dst goal.2) then runRefuse cOFF_DOMAIN s
      else
        let load := loadOf x d h.member
        let skip := match load with
          | some l => s.resident h.c x.placement l
          | none => false
        if skip then { runEnd cOK s with skipped := true }
        else
          let m : Move := { code := cOK, rd := 0, wr := 0, flits := 0, s := s }
          let m := m.rows h.c d (src.map fun a => (a, reach.2)) (dst, goal.2) 0 (pRows d)
          let tag := match load with
            | some l => s.loadTag h.c x.placement l
            | none => none
          if m.code ≠ cOK then { runRefuse m.code m.s with rd := m.rd, wr := m.wr, flits := m.flits }
          else { runEnd cOK (m.s.setTag tag) with
            bytes := pRows d * pLen d, rd := m.rd, wr := m.wr, flits := m.flits }
    | _, _ => runRefuse cARG s

/-- Whether a descriptor's transfers wait for a fenced basin (rule R176). -/
def State.pumpWaits (s : State) (h : Head) : Bool :=
  let x := s.ctx h.c
  [pSrcWin h.desc, pDstWin h.desc].any fun n =>
    match Cells.get none x.bound (n + h.member * x.wpm) with
    | some w =>
      match w.basin with
      | some lb => s.isFenced false lb
      | none => false
    | none => false

end Sys2Proof.Machine
end

