-- ==== Sys2Proof/Machine/MapUnit.lean ====
section
/-! DEFINITION. Machine/MapUnit.lean: the grid map unit and its commands (rules R218–R231). -/

namespace Sys2Proof.Machine

/-- MAP_BASE (rule R231). -/
def State.mapBase (s : State) : Nat := s.rf 0x64104 0 4 * 2 ^ 32 + (s.reg 0x64100).toNat

/-- An entry of the map (rule R219). -/
structure Entry where
  key : Nat
  lo : Int
  cls : Nat
  valid : Bool
  tomb : Bool
  last : Nat
  hits : Nat
  misses : Nat
  user : Nat
  first : Nat
deriving DecidableEq, Repr

/-- An empty entry. -/
def entryNone : Entry :=
  { key := 0, lo := 0, cls := 0, valid := false, tomb := false, last := 0, hits := 0, misses := 0, user := 0, first := 0 }

/-- The entry that 32 bytes hold. -/
def entryOf (bs : List Byte) : Entry :=
  let n := fun o k => leNat ((bs.drop o).take k)
  let f := n 11 1
  { key := n 0 8, lo := sext 16 (n 8 2), cls := n 10 1, valid := nbit f 0, tomb := nbit f 1, last := n 12 4,
    hits := n 16 2, misses := n 18 2, user := n 20 4, first := n 24 4 }

/-- The 32 bytes of an entry. -/
def Entry.bytes (e : Entry) : List Byte :=
  leBytes 8 e.key ++ leBytes 2 (toU 16 e.lo) ++ leBytes 1 e.cls ++ leBytes 1 (e.valid.toNat + 2 * e.tomb.toNat) ++
    leBytes 4 e.last ++ leBytes 2 e.hits ++ leBytes 2 e.misses ++ leBytes 4 e.user ++ leBytes 4 e.first ++ leBytes 4 0

/-- The home index of a key (rule R220). -/
def homeOf (k : Nat) : Nat := k * 0xC2B2AE3D27D4EB4F % 2 ^ 64 / 2 ^ 42

/-- The index of position `i` of the probe window. -/
def probeAt (k i : Nat) : Nat := (homeOf k + i) % 2 ^ 22

/-- What a map command has done: a code other than OK ends it; word 4, word 5, invalid elements and the first of them. -/
structure MapRun where
  code : Nat
  sat : Nat
  full : Nat
  inv : Nat
  firstInv : Option Nat
  rd : Nat
  wr : Nat
  s : State

/-- The pieces of a packed array. -/
def pieces (n size : Nat) (bs : List Byte) : List (List Byte) :=
  match n with
  | 0 => []
  | k + 1 => bs.take size :: pieces k size (bs.drop size)

/-- Some entries from index `i` on, read with one access for context `c`. -/
def State.entriesGet (s : State) (c i n : Nat) : Nat × List Entry × State :=
  let q := s.mapGet (some c) (s.mapBase + 32 * i) (32 * n)
  (q.1, (pieces n 32 q.2.1).map entryOf, q.2.2)

/-- The window of a key, read with one access, or with two where it wraps past the last entry (rule R220): the first failing code
ends the read. -/
def State.windowGet (s : State) (c k : Nat) : Nat × List Entry × State :=
  let n := min 8 (2 ^ 22 - homeOf k)
  let q := s.entriesGet c (homeOf k) n
  if q.1 ≠ cOK ∨ n = 8 then q
  else
    let t := q.2.2.entriesGet c 0 (8 - n)
    (t.1, q.2.1 ++ t.2.1, t.2.2)

/-- One entry written. -/
def State.entrySet (s : State) (c i : Nat) (e : Entry) : State := (s.mapSet (some c) (s.mapBase + 32 * i) e.bytes).2

/-- The search of a window (rule R220): the position of a hit. -/
def searchGo (k i : Nat) (w : List Entry) : Option Nat :=
  match w with
  | [] => none
  | e :: r => if e.valid && e.key == k then some i else if !e.valid && !e.tomb then none else searchGo k (i + 1) r

/-- The free position of a window (rule R220). -/
def freePos (w : List Entry) : Option Nat := w.findIdx? fun e => !e.valid

/-- LO_MIN and LO_MAX (rule R231). -/
def State.loLimits (s : State) : Int × Int := (sext 16 (s.rf 0x6410C 0 16), sext 16 (s.rf 0x6410C 16 16))

/-- A log-odds value clamped, and whether it was. -/
def State.loClamp (s : State) (x : Int) : Int × Bool :=
  let y := clampI s.loLimits.1 s.loLimits.2 x
  (y, y != x)

/-- A clamp counts in the record and in SAT_TOTAL. -/
def MapRun.clamped (m : MapRun) (b : Bool) : MapRun :=
  if b then { m with sat := m.sat + 1, s := m.s.bump 0x64120 1 } else m

/-- OCCUPIED or TOMBS changes. -/
def State.mapCount (s : State) (a : Nat) (up : Bool) : State :=
  s.setRf a 0 23 (if up then s.rf a 0 23 + 1 else s.rf a 0 23 - 1)

/-- An insert element (rule R222). -/
structure Element where
  key : Nat
  delta : Int
  cls : Nat
  flags : Nat
  user : Nat
deriving DecidableEq, Repr

def elementOf (bs : List Byte) : Element :=
  let n := fun o k => leNat ((bs.drop o).take k)
  { key := n 0 8, delta := sext 16 (n 8 2), cls := n 10 1, flags := n 11 1, user := n 12 4 }

/-- The entry that an element creates, with whether its log-odds were clamped. -/
def State.newEntry (s : State) (epoch : Nat) (e : Element) : Entry × Bool :=
  let lo := s.loClamp e.delta
  ({ key := e.key, lo := lo.1, cls := if nbit e.flags 0 then e.cls else 0, valid := true, tomb := false, last := epoch,
     hits := (decide (0 < e.delta)).toNat, misses := (decide (e.delta ≤ 0)).toNat,
     user := if nbit e.flags 1 then e.user else 0, first := epoch }, lo.2)

/-- The entry of a window that eviction takes: the oldest, the lowest on a tie (rule R223). -/
def oldest (epoch : Nat) (w : List Entry) : Nat :=
  (w.zipIdx.foldl (fun (b : Nat × Nat) p =>
    let age := (epoch + 2 ^ 32 - p.1.last) % 2 ^ 32
    if b.2 < age + 1 then (p.2, age + 1) else b) (0, 0)).1

/-- One insert element, at index `j` of its command (rules R223, R230). -/
def MapRun.insert (m : MapRun) (c epoch j : Nat) (e : Element) : MapRun :=
  if m.code ≠ cOK then m
  else if e.flags / 4 ≠ 0 then
    { m with inv := m.inv + 1, firstInv := match m.firstInv with
                                             | some k => some k
                                             | none => some j }
  else
    let q := m.s.windowGet c e.key
    let m := { m with rd := m.rd + 256, s := q.2.2 }
    if q.1 ≠ cOK then { m with code := q.1 }
    else
      let w := q.2.1
      match searchGo e.key 0 w with
      | some i =>
        let old := w.getD i entryNone
        let lo := m.s.loClamp (old.lo + e.delta)
        let new := { old with
          lo := lo.1, last := epoch, hits := if 0 < e.delta then satAdd 0xFFFF old.hits 1 else old.hits,
          misses := if 0 < e.delta then old.misses else satAdd 0xFFFF old.misses 1,
          cls := if nbit e.flags 0 then e.cls else old.cls, user := if nbit e.flags 1 then e.user else old.user }
        ({ m with wr := m.wr + 32, s := m.s.entrySet c (probeAt e.key i) new } : MapRun).clamped lo.2
      | none =>
        let new := m.s.newEntry epoch e
        match freePos w with
        | some i =>
          let s := m.s.entrySet c (probeAt e.key i) new.1
          let s := s.mapCount 0x64110 true
          let s := if (w.getD i entryNone).tomb then s.mapCount 0x64114 false else s
          ({ m with wr := m.wr + 32, s := s } : MapRun).clamped new.2
        | none =>
          let s := ((m.s.bump 0x64118 1).lastCode .gmap cMAP_FULL).intRaise .gmap 0
          let m := { m with full := m.full + 1, s := s }
          if bit (s.reg 0x64108) 1 then
            let s := s.entrySet c (probeAt e.key (oldest epoch w)) new.1
            let s := (s.bump 0x6411C 1).intRaise .gmap 1
            ({ m with wr := m.wr + 32, s := s } : MapRun).clamped new.2
          else m

/-- One voxel of a ray (rule R225). -/
def MapRun.clear (m : MapRun) (c epoch : Nat) (delta : Int) (k : Nat) : MapRun :=
  if m.code ≠ cOK then m
  else
    let q := m.s.windowGet c k
    let m := { m with rd := m.rd + 256, s := q.2.2 }
    if q.1 ≠ cOK then { m with code := q.1 }
    else
      match searchGo k 0 q.2.1 with
      | none => m
      | some i =>
        let old := q.2.1.getD i entryNone
        let lo := m.s.loClamp (old.lo + delta)
        let new := { old with lo := lo.1, last := epoch, misses := satAdd 0xFFFF old.misses 1 }
        ({ m with wr := m.wr + 32, s := m.s.entrySet c (probeAt k i) new } : MapRun).clamped lo.2

/-- The coordinates of a key (rule R219). -/
def keyAxes (k : Nat) : List Int := [sext 24 k, sext 24 (k / 2 ^ 24), sext 16 (k / 2 ^ 48)]

/-- The key of coordinates. -/
def keyOfAxes (l : List Int) : Nat :=
  toU 24 (l.getD 0 0) + 2 ^ 24 * toU 24 (l.getD 1 0) + 2 ^ 48 * toU 16 (l.getD 2 0)

/-- The voxels of a ray that are cleared, `cap` at most (rule R225). -/
def rayVoxels (p0 p1 cap : Nat) : List Nat :=
  let a := keyAxes p0
  let d := List.zipWith (fun x y => y - x) a (keyAxes p1)
  let n := d.foldl (fun m x => max m x.natAbs) 0
  (List.range (min n cap)).map fun (i : Nat) =>
    keyOfAxes (List.zipWith (fun x y => x + (2 * (i : Int) * y + n).fdiv (2 * n)) a d)

/-- One entry of an age-out, at index `i`, where `next` is its following entry (rule R226): the entry as the scan leaves it. -/
def MapRun.ageEntry (m : MapRun) (c epoch limit i : Nat) (e next : Entry) : Entry × MapRun :=
  let gone := e.valid && decide (limit < (epoch + 2 ^ 32 - e.last) % 2 ^ 32)
  let tomb := gone || (!e.valid && e.tomb)
  let empties := tomb && !next.valid && !next.tomb
  let s := if gone then m.s.mapCount 0x64110 false else m.s
  let s := if gone ∧ !empties then s.mapCount 0x64114 true else if !gone ∧ empties then s.mapCount 0x64114 false else s
  if gone ∨ empties then
    let new := { entryNone with tomb := !empties }
    (new, { m with wr := m.wr + 32, s := s.entrySet c i new })
  else (e, m)

/-- An age-out of `n` lines of two entries from entry `first` on, from the highest entry to the lowest, each line read once; `next` is the
entry that follows them (rule R226). -/
def MapRun.ageout (m : MapRun) (c epoch limit first n : Nat) (next : Entry) : MapRun :=
  match n with
  | 0 => m
  | k + 1 =>
    if m.code ≠ cOK then m
    else
      let i := first + 2 * k
      let q := m.s.entriesGet c i 2
      let m := { m with rd := m.rd + 64, s := q.2.2 }
      if q.1 ≠ cOK then { m with code := q.1 }
      else
        let hi := m.ageEntry c epoch limit (i + 1) (q.2.1.getD 1 entryNone) next
        let lo := hi.2.ageEntry c epoch limit i (q.2.1.getD 0 entryNone) hi.1
        lo.2.ageout c epoch limit first k lo.1

/-- MAP_AGEOUT of `n` blocks of 64 entries: the line of the following entry of the highest index is read first (rule R226). -/
def MapRun.ageBlocks (m : MapRun) (c epoch limit first n : Nat) : MapRun :=
  let q := m.s.entriesGet c ((first + 64 * n) % 2 ^ 22) 2
  let m := { m with rd := m.rd + 64, s := q.2.2 }
  if q.1 ≠ cOK then { m with code := q.1 } else m.ageout c epoch limit first (32 * n) (q.2.1.getD 0 entryNone)

/-! The commands. -/

/-- W of a map command (rule R221). -/
def mapWaves (op m n : Nat) : Nat :=
  if op = 0x61 then 16 + 4 * m else if op = 0x62 then 16 + 6 * m * n else if op = 0x63 then 16 + 32 * m else 16 + 6 * m

/-- The bytes of one element of operand B, of operand C and of a result (rules R221, R222). -/
def mapSizes (op : Nat) : Nat × Nat × Nat :=
  if op = 0x61 then (8, 0, 16) else if op = 0x63 then (0, 0, 0) else if op = 0x64 then (16, 16, 0) else (16, 0, 0)

/-- The conditions that refuse a map descriptor with ARG (rules R182, R183, R188, R221). DEDUCED, assumption 30. -/
def mapArg (inRange : Nat → Bool) (pl : Nat → Nat) (d : List Word) : Bool :=
  let w0 := dw d 0
  let op := fld w0 0 8
  let z := mapSizes op
  let used := [true, z.1 != 0, z.2.1 != 0, z.2.2 != 0]
  let out := refPlace pl (tRef d 3)
  let span := fun i => if i = 0 then 16 else if i = 1 then z.1 * tM d else z.2.1 * tM d
  !(opClass op == some .map) || !tileZeros d || fld w0 8 12 != 0 || bit w0 20 != opNd op || fld (dw d 1) 24 4 != 0 ||
  dw d 7 != 0 || dw d 8 != 0 || dw d 9 != 0 || dw d 10 != 0 || dw d 11 != 0 || tM d == 0 || tN d == 0 ||
  (op != 0x62 && tN d != 1) || !gatesOk .map inRange d ||
  (List.range 4).any (fun i => (used.getD i false == (tRef d i == 0)) || (used.getD i false && !refOk (tRef d i))) ||
  (op == 0x61 && (nbit (tRef d 3) 31 || (List.range 2).any fun i =>
    let a := refPlace pl (tRef d i)
    a < out + 16 * tM d && out < a + span i)) ||
  9920 < mapWaves op (tM d) (tN d) + 32

/-- Whether an operand of a map descriptor passes the end of its cistern or names no logical basin (rules R153, R154). The bytes
that MAP_ACCUM_ARRIVAL takes from each of its two sources are known at the unit only (rule R222). -/
def mapBounds (pl : Nat → Nat) (n : Nat) (d : List Word) : Bool :=
  let op := fld (dw d 0) 0 8
  let z := if op = 0x64 then (0, 0, 0) else mapSizes op
  [(0, 16), (1, z.1 * tM d), (2, 0), (3, z.2.2 * tM d)].any fun x =>
    let r := tRef d x.1
    r != 0 && !nbit r 31 && (n ≤ pl (nfld r 24 4) || 0xC00000 < r % 2 ^ 24 + x.2)

/-- The checks of a map descriptor that depend only on it, its list and its declaration (rule R184). -/
def mapCheck (inRange : Nat → Bool) (pl : Nat → Nat) (n : Nat) (d : List Word) : Nat :=
  if mapArg inRange pl d then cARG else if mapBounds pl n d then cBOUNDS else cOK

/-- A packed array read for a map command. -/
def Fetch.array (f : Fetch) (c : Nat) (pl : Nat → Nat) (r size n : Nat) : List (List Byte) × Fetch :=
  if n = 0 then ([], f)
  else
    let q := f.s.refReach pl r (size * n)
    if f.code ≠ cOK then ([], f)
    else if q.1 ≠ cOK then ([], { f with code := q.1 })
    else
      let t := f.read c q.2 r 0 (size * n)
      (pieces n size t.1, t.2)

/-- The elements of two sources in an order of arrival: true takes the next of the first source (rule R227). -/
def arrive {α : Type} (order : List Bool) (a b : List α) : List α :=
  match order with
  | [] => a ++ b
  | o :: r =>
    match o, a, b with
    | true, x :: a, b => x :: arrive r a b
    | false, a, y :: b => y :: arrive r a b
    | true, [], b => arrive r [] b
    | false, a, [] => arrive r a []

/-- A MapRun at a command's start. -/
def mapStart (f : Fetch) : MapRun :=
  { code := cOK, sat := 0, full := 0, inv := 0, firstInv := none, rd := f.rd, wr := 0, s := f.s }

/-- The run of a map command that is no refusal (rule R230). -/
def MapRun.finish (m : MapRun) (flits bytes : Nat) : Run :=
  if m.code ≠ cOK then { runRefuse m.code m.s with rd := m.rd, wr := m.wr, flits := flits }
  else
    { runEnd cOK m.s with
      w4 := m.sat, w5 := m.full, w6 := m.inv, row := m.firstInv.getD 0xFFFF, col := if m.inv = 0 then 0xFFFF else 0,
      bytes := bytes, rd := m.rd, wr := m.wr, flits := flits }

/-- The results of a query in key order (rules R222, R224). -/
def MapRun.query (m : MapRun) (c : Nat) (ks : List Nat) : List (List Byte) × MapRun :=
  match ks with
  | [] => ([], m)
  | k :: rest =>
    if m.code ≠ cOK then ([], m)
    else
      let q := m.s.windowGet c k
      let m := { m with rd := m.rd + 256, s := q.2.2 }
      if q.1 ≠ cOK then ([], { m with code := q.1 })
      else
        let row := match searchGo k 0 q.2.1 with
          | none => List.replicate 16 0
          | some i =>
            let e := q.2.1.getD i entryNone
            leBytes 2 (toU 16 e.lo) ++ leBytes 1 e.cls ++ leBytes 1 1 ++ leBytes 4 e.last ++ leBytes 4 e.user ++
              leBytes 2 e.hits ++ leBytes 2 e.misses
        let t := m.query c rest
        (row :: t.1, t.2)

/-- The order in which MAP_ACCUM_ARRIVAL applies `n` elements, true for one of OPB: that of arrival, or the logged one in a
replay, if it is there (rules R227, R364). -/
def State.arrivals (s : State) (c lcn n : Nat) (order : List Bool) : Option (List Bool × State) :=
  if s.rpMode c = 2 then
    (List.range (ceilDiv n 352)).foldl (fun (r : Option (List Bool × State)) p =>
      match r with
      | none => none
      | some (l, s) =>
        match s.replayTake c 3 lcn p with
        | none => none
        | some (e, s) =>
          some (l ++ (List.range (min 352 (n - 352 * p))).map (fun i => !bit (dw e (5 + i / 32)) (i % 32)), s)) (some ([], s))
  else some (order, s)

/-- The order that two sources were applied in, as ledger bits. -/
def appliedOrder (order : List Bool) (a b : Nat) : List Bool :=
  arrive order (List.replicate a true) (List.replicate b false)

/-- The words from word 4 on of the ORDER entries of a command (rules R362, R363). -/
def orderParts (l : List Bool) : List (List Word) :=
  (List.range (ceilDiv l.length 352)).map fun p =>
    let part := (l.drop (352 * p)).take 352
    w32 (if p = 0 then l.length else 0) ::
      (List.range 11).map fun w => wordOf fun i => decide (32 * w + i < part.length) && !part.getD (32 * w + i) true

/-- The work of a map command, after its checks (rules R222–R227). -/
def mapWork (op : Nat) (order : List Bool) (c : Nat) (pl : Nat → Nat) (d : List Word) (f : Fetch) : Run :=
  let size := mapSizes op
  let par := f.array c pl (tRef d 0) 16 1
  let pw := bytesWords 4 (par.1.headD [])
  let epoch := (dw pw 0).toNat
  let word2 := (dw pw 2).toNat
  let mb := if op = 0x64 then word2 else tM d
  let back := fun (f : Fetch) code => { runRefuse code f.s with rd := f.rd, flits := f.flits }
  if par.2.code ≠ cOK then back par.2 par.2.code
  else if fld (dw pw 1) 16 16 ≠ 0 ∨ (op ≠ 0x63 ∧ op ≠ 0x64 ∧ word2 ≠ 0) ∨
      (op ≠ 0x63 ∧ dw pw 3 ≠ 0) ∨ (op = 0x64 ∧ tM d < word2) then back par.2 cARG
  else if op = 0x63 ∧ (word2 % 64 ≠ 0 ∨ 2 ^ 22 < word2 + 64 * tM d) then back par.2 cBOUNDS
  else
    let a := if size.1 = 0 then ([], par.2) else par.2.array c pl (tRef d 1) size.1 mb
    let b := if op = 0x64 then a.2.array c pl (tRef d 2) 16 (tM d - mb) else ([], a.2)
    let f := b.2
    let m := mapStart f
    if f.code ≠ cOK then back f f.code
    else if op = 0x60 then
      (a.1.zipIdx.foldl (fun (m : MapRun) p => m.insert c epoch p.2 (elementOf p.1)) m).finish f.flits 0
    else if op = 0x64 then
      let lcn := fld (dw d 1) 0 24
      match f.s.arrivals c lcn (tM d) order with
      | none => back f cARG
      | some (order, s) =>
      let l := arrive order (a.1.zipIdx) (b.1.zipIdx.map fun p => (p.1, p.2 + mb))
      let m := { m with s := s }
      let m := l.foldl (fun (m : MapRun) p => m.insert c epoch p.2 (elementOf p.1)) m
      let low := l.foldl (fun (r : Option Nat) p =>
        if (elementOf p.1).flags / 4 ≠ 0 then some (min p.2 (r.getD p.2)) else r) none
      let r := ({ m with firstInv := low } : MapRun).finish f.flits 0
      if m.code = cOK then { r with ledger := some (orderParts (appliedOrder order mb (tM d - mb))) } else r
    else if op = 0x62 then
      let delta := sext 16 (fld (dw pw 1) 0 16)
      (a.1.foldl (fun (m : MapRun) ray =>
        (rayVoxels (leNat (ray.take 8)) (leNat (ray.drop 8)) (tN d)).foldl (fun m k => m.clear c epoch delta k) m) m).finish f.flits 0
    else if op = 0x63 then (m.ageBlocks c epoch (dw pw 3).toNat word2 (tM d)).finish f.flits 0
    else
      let u := f.s.refReach pl (tRef d 3) (16 * tM d)
      if u.1 ≠ cOK then back f u.1
      else
        let q := m.query c (a.1.map leNat)
        if q.2.code ≠ cOK then q.2.finish f.flits 0
        else
          let z := q.2.s.putRows c u.2 (tRef d 3 % 2 ^ 24) 0 [q.1.flatten]
          if z.1 ≠ cOK then back { f with s := z.2 } z.1
          else ({ q.2 with s := z.2 } : MapRun).finish (f.flits + ceilDiv (16 * tM d) 64) (16 * tM d)

/-- The canal node of the grid map unit (rule R161). -/
def mapNode : Nat := 10

/-- Whether the operands and the result of a map command are reachable over the canal (rules R164, R170). DEDUCED, assumption 31. -/
def State.mapLinked (s : State) (pl : Nat → Nat) (d : List Word) : Bool :=
  (List.range 4).all fun i => tRef d i = 0 || s.refLinked pl mapNode (i = 3) (tRef d i)

/-- A map command runs (rules R183, R231, R456). An ECC_FAIL raises the unit's ECC event, whichever of its reads met it. -/
def State.mapRun (s : State) (q : Running) : Run :=
  let h := q.head
  let x := s.ctx h.c
  let d := h.desc
  let pl := placeFn x
  let code := mapCheck (gateInRange x) pl s.logicalBasins d
  if s.head.mapLost then runRefuse cOFF_DOMAIN s
  else if s.waitsFree .map d then runRefuse cARG s
  else if code ≠ cOK then runRefuse code s
  else if !bit (s.reg 0x64108) 0 then runRefuse cARG s
  else if !s.mapLinked pl d then runRefuse cOFF_DOMAIN s
  else
    let r := mapWork (fld (dw d 0) 0 8) q.order h.c pl d { code := cOK, rd := 0, flits := 0, s := s }
    if r.code = cECC_FAIL then { r with s := r.s.intRaise .gmap 3 } else r

/-- The entries of the map region, OCCUPIED and TOMBS are zeroed (rule R231). -/
def State.mapZero (s : State) : State :=
  let base := s.mapBase
  let s := { s with dram := Cells.clear s.dram base (2 ^ 27), dramBad := Cells.clear s.dramBad (base / 64) (2 ^ 21) }
  (s.setReg 0x64110 0).setReg 0x64114 0

/-- A write of MAP_CTRL (rules R206, R231): its code and the state. A clear of a map region that passes MEM_TOP is refused with BOUNDS
and zeroes nothing. DESIGN CHOICE, assumption 20. -/
def State.writeMapCtrl (s : State) (v : Word) : Nat × State :=
  let old := s.reg 0x64108
  let en := bit v 0
  let clear := bit v 2
  if clear && bit old 0 then (cARG, s)
  else if en && !bit old 0 && (s.memTop < s.mapBase + 2 ^ 27 || bit old 3 || clear) then (cARG, s)
  else if clear ∧ s.memTop < s.mapBase + 2 ^ 27 then (cBOUNDS, s)
  else
    let s := s.setRf 0x64108 0 2 (fld v 0 2)
    (cOK, if clear then s.mapZero.setRf 0x64108 3 1 1 else s)

/-- A clear completes (rule R231). -/
def State.mapCleared (s : State) : State :=
  if bit (s.reg 0x64108) 3 then (s.setRf 0x64108 3 1 0).intRaise .gmap 2 else s

end Sys2Proof.Machine
end

