-- ==== Sys2Proof/Machine/Fp64.lean ====
section
/-! DEFINITION. Machine/Fp64.lean: the FP64 operations of the solver lanes, which count overflows and invalid operations,
and the matrix sequences built from them (rules R237, R240, R241, R244, R266). -/

namespace Sys2Proof.Machine

/-- A computation that counts overflowed and invalid operations (rule R237). -/
abbrev FpM (α : Type) : Type := StateM (Nat × Nat) α

/-- The value of an FP64 encoding. The lanes count the invalid operations of rule R87 only, so a signalling NaN is any NaN (rule
R237). -/
def fv (a : Nat) : Val :=
  match decodeVal .fp64 0 a with
  | .nan _ => .nan false
  | v => v

/-- One operation with its exact result, RNE and IEEE overflow (rule R240). -/
def fpOp (x : Exact) : FpM Nat := do
  let r := finish .fp64 0 .rne true false x
  modify fun c => (c.1 + (r.2 == .sat).toNat, c.2 + (r.2 == .invalid).toNat)
  return r.1

def fAdd (a b : Nat) : FpM Nat := fpOp (addExact .rne (fv a) (fv b))
def fSub (a b : Nat) : FpM Nat := fpOp (addExact .rne (fv a) (fv b).neg)
def fMul (a b : Nat) : FpM Nat := fpOp (mulExact (fv a) (fv b))
def fDiv (a b : Nat) : FpM Nat := fpOp (divExact (fv a) (fv b))
def fFma (a b c : Nat) : FpM Nat := fpOp (fmaExact .rne (fv a) (fv b) (fv c))
def fSqrt (a : Nat) : FpM Nat := fpOp (sqrtExact (fv a))

/-- The value of a computation without its counts. -/
def FpM.value {α : Type} (x : FpM α) : α := (x.run (0, 0)).1

/-- 0, 1, −1, ½ and +∞ as FP64. -/
def f0 : Nat := 0
def f1 : Nat := 0x3FF0000000000000
def fNeg1 : Nat := 0xBFF0000000000000
def fHalf : Nat := 0x3FE0000000000000
def fInf : Nat := 0x7FF0000000000000

/-- Whether an encoding is a NaN, or is finite. -/
def fNan (a : Nat) : Bool := (fv a).isNan
def fFinite (a : Nat) : Bool := nfld a 52 11 != 0x7FF

/-- The exact negation; a NaN stays the canonical NaN. -/
def fNeg (a : Nat) : Nat := if fNan a then Fmt.fp64.nan else a ^^^ 2 ^ 63

/-- The magnitude. -/
def fAbs (a : Nat) : Nat := if fNan a then Fmt.fp64.nan else a % 2 ^ 63

/-- Comparisons, which a NaN fails. -/
def fEq (a b : Nat) : Bool := (cmpExact 0 (fv a) (fv b)).1
def fLt (a b : Nat) : Bool := (cmpExact 2 (fv a) (fv b)).1
def fLe (a b : Nat) : Bool := (cmpExact 3 (fv a) (fv b)).1

/-- A comparison that is invalid with a NaN operand, and counts then (rules R87, R237). -/
def fCompare (r : Nat → Nat → Bool) (a b : Nat) : FpM Bool := do
  modify fun c => (c.1, c.2 + (fNan a || fNan b).toNat)
  return r a b

/-- LT and LE as operations of a descriptor (rule R87). -/
def fLess (a b : Nat) : FpM Bool := fCompare fLt a b
def fLessEq (a b : Nat) : FpM Bool := fCompare fLe a b

/-- The larger of two values, a NaN if either is one. -/
def fMax (a b : Nat) : Nat := if fNan a || fNan b then Fmt.fp64.nan else if fLt a b then b else a

/-- The smaller of two values, a NaN if either is one. -/
def fMin (a b : Nat) : Nat := if fNan a || fNan b then Fmt.fp64.nan else if fLt b a then b else a

/-- The largest magnitude of some values, +0 of none. -/
def fLargest (l : List Nat) : Nat := (l.map fAbs).foldl fMax f0

/-- dot(a, b, L) (rule R240). -/
def fDot (a b : List Nat) : FpM Nat := (List.zip a b).foldlM (fun acc p => fFma p.1 p.2 acc) f0

/-- A matrix, as its rows. -/
abbrev Mat : Type := List (List Nat)

/-- Column `j` of a matrix. -/
def Mat.col (m : Mat) (j : Nat) : List Nat := m.map fun r => r.getD j f0

/-- An element of a matrix. -/
def Mat.at_ (m : Mat) (i j : Nat) : Nat := (m.getD i []).getD j f0

/-- The transpose of a matrix of `n` columns. -/
def Mat.flip (m : Mat) (n : Nat) : Mat := (List.range n).map m.col

/-- A matrix of `c` columns from its elements in row-major order, `r` rows. -/
def matOf (r c : Nat) (l : List Nat) : Mat :=
  match r with
  | 0 => []
  | k + 1 => l.take c :: matOf k c (l.drop c)

/-- Column `j` of the Householder sequence on a matrix of `c` columns and a right-hand one (rule R241). -/
def hhColumn (c j : Nat) (m : Mat) : FpM Mat := do
  let below := m.drop j
  let x := Mat.col below j
  let s ← fDot x x
  if fEq s f0 then return m
  let sigma ← fSqrt s
  let a0 := x.headD f0
  let alpha := if ← fLess a0 f0 then sigma else fNeg sigma
  let v0 ← fSub a0 alpha
  let p ← fMul alpha v0
  let tau ← fDiv fNeg1 p
  let v := v0 :: x.tail
  let cols ← (List.range (c - j)).mapM fun k => do
    let y := Mat.col below (j + 1 + k)
    let d ← fDot v y
    let w ← fMul tau d
    (List.zip v y).mapM fun q => fFma (fNeg w) q.1 q.2
  let rows := below.zipIdx.map fun r =>
    r.1.take j ++ (if r.2 = 0 then alpha else f0) :: cols.map fun y => y.getD r.2 f0
  let flip ← fLess alpha f0
  return m.take j ++ rows.zipIdx.map fun r =>
    if r.2 = 0 && flip then r.1.take j ++ (r.1.drop j).map fNeg else r.1

/-- The Householder sequence (rule R241). -/
def householder (c : Nat) (m : Mat) : FpM Mat :=
  (List.range (min c m.length)).foldlM (fun m j => hhColumn c j m) m

/-- The solution of Ux = b for an upper-triangular U, rows descending (rule R241): row `k − 1` downward, `x` the later
terms. -/
def upperGo (u : Mat) (b : List Nat) (k : Nat) (x : List Nat) : FpM (List Nat) :=
  match k with
  | 0 => return x
  | i + 1 => do
    let row := u.getD i []
    let d ← fDot ((row.drop (i + 1)).take x.length) x
    let t ← fSub (b.getD i f0) d
    let q ← fDiv t (row.getD i f0)
    upperGo u b i (q :: x)

def upperSolve (u : Mat) (b : List Nat) : FpM (List Nat) := upperGo u b u.length []

/-- The solution of Lx = b for a lower-triangular L given by its rows, ascending (rule R241). -/
def lowerSolve (l : Mat) (b : List Nat) : FpM (List Nat) :=
  l.zipIdx.foldlM (fun x r => do
    let d ← fDot (r.1.take r.2) x
    let t ← fSub (b.getD r.2 f0) d
    let q ← fDiv t (r.1.getD r.2 f0)
    return x ++ [q]) []

/-- One row of the Cholesky factorisation (rule R244, step 3): its elements below the diagonal. -/
def cholRow (l : Mat) (row : List Nat) (j n : Nat) (acc : List Nat) : FpM (List Nat) :=
  match n with
  | 0 => return acc
  | k + 1 => do
    let lj := l.getD j []
    let d ← fDot acc (lj.take j)
    let t ← fSub (row.getD j f0) d
    let q ← fDiv t (lj.getD j f0)
    cholRow l row (j + 1) k (acc ++ [q])

/-- The Cholesky factor of the rows that follow the `i` rows of `l`, or none where a pivot argument is not above +0, or is
not finite where `fin` asks for that (rules R244, R268). -/
def cholGo (fin : Bool) (l : Mat) (rest : Mat) (i : Nat) : FpM (Option Mat) :=
  match rest with
  | [] => return some l
  | row :: more => do
    let acc ← cholRow l row 0 i []
    let d ← fDot acc acc
    let a ← fSub (row.getD i f0) d
    if !(← fLess f0 a) || (fin && !fFinite a) then return none
    let p ← fSqrt a
    cholGo fin (l ++ [acc ++ [p]]) more (i + 1)

def cholesky (fin : Bool) (c : Mat) : FpM (Option Mat) := cholGo fin [] c 0

/-- The solution of LLᵀx = b, where `l` holds the rows of L up to the diagonal. -/
def cholSolve (l : Mat) (b : List Nat) : FpM (List Nat) := do
  let n := l.length
  let y ← lowerSolve l b
  upperSolve (Mat.flip (l.map fun r => r ++ List.replicate (n - r.length) f0) n) y

/-- A matrix by a vector. -/
def Mat.mul (m : Mat) (v : List Nat) : FpM (List Nat) := m.mapM fun r => fDot r v

/-- A matrix by one of `c` columns. -/
def Mat.times (a b : Mat) (c : Nat) : FpM Mat := a.mapM fun r => (b.flip c).mapM fun v => fDot r v

/-- `n` FP64 values that bytes hold. -/
def f64s (n : Nat) (bs : List Byte) : List Nat :=
  match n with
  | 0 => []
  | k + 1 => leNat (bs.take 8) :: f64s k (bs.drop 8)

/-- The bytes of FP64 values. -/
def f64Bytes (l : List Nat) : List Byte := l.flatMap (leBytes 8)

end Sys2Proof.Machine
end

