-- ==== Sys2Proof/Machine/Ipm.lean ====
section
/-! DEFINITION. Machine/Ipm.lean: the interior-point method of the solver lanes (rules R248, R255, R257, R266–R272).

The manual gives the quantities of a Newton step and the order of each sum, but does not write out the stage vectors and the recovered
directions of rule R268. They are written here as the elimination gives them, with terms in the order of their definitions, and
Sys2Proof.Machine.sideRhs, Sys2Proof.Machine.Side.recover and Sys2Proof.Machine.linearBack say which. DEDUCED, assumption 11. -/

namespace Sys2Proof.Machine

/-! The problem (rules R255, R257). -/

/-- The cost of a stage. -/
structure Cost where
  q : Mat
  s : Mat
  r : Mat
  ql : List Nat
  rl : List Nat

/-- The cost of no stage. -/
def Cost.none : Cost := { q := [], s := [], r := [], ql := [], rl := [] }

/-- One side of an inequality: its slot in the stage, whether it is a lower one, its coefficients (a box side names its
variable), its bound and its weights. -/
structure Side where
  slot : Nat
  lower : Bool
  c : List Nat
  dd : List Nat
  box : Option (Bool × Nat)
  bound : Nat
  z1 : Nat
  z2 : Nat

/-- Whether a side is soft (rule R257). -/
def Side.soft (s : Side) : Bool := s.box.isNone && (fLt f0 s.z1 || fLt f0 s.z2)

/-- A problem: dynamics, costs and sides by stage, and whether x₀ is a variable, as in a window problem, or given. -/
structure Prob where
  n : Nat
  m : Nat
  stages : Nat
  a : List Mat
  b : List Mat
  c : Mat
  cost : List Cost
  sides : List (List Side)
  free0 : Bool

def Prob.aAt (p : Prob) (k : Nat) : Mat := p.a.getD k []
def Prob.bAt (p : Prob) (k : Nat) : Mat := p.b.getD k []
def Prob.costOf (p : Prob) (k : Nat) : Cost := p.cost.getD k .none

/-- −∞, the bound of a lower side that is none. -/
def fNegInf : Nat := 0xFFF0000000000000

/-- The two sides of a bound pair that form inequalities (rule R257). -/
def sidePair (slot : Nat) (c dd : List Nat) (box : Option (Bool × Nat)) (lo hi z1 z2 : Nat) : List Side :=
  (if lo = fNegInf then [] else
    [{ slot := slot, lower := true, c := c, dd := dd, box := box, bound := lo, z1 := z1, z2 := z2 }]) ++
  (if hi = fInf then [] else
    [{ slot := slot + 1, lower := false, c := c, dd := dd, box := box, bound := hi, z1 := z1, z2 := z2 }])

/-- The mirror of the elements on and above the diagonal. -/
def Mat.mirror (m : Mat) (n : Nat) : Mat :=
  (List.range n).map fun i => (List.range n).map fun j => m.at_ (min i j) (max i j)

/-! Iterates (rules R266, R267). -/

/-- The variables of one inequality: t, λ, s and η, the last two for a soft side. -/
structure Pair where
  t : Nat
  l : Nat
  s : Nat
  e : Nat
deriving DecidableEq, Repr

/-- An iterate, or the change of one: states, inputs and dynamics multipliers by stage, and the variables of each side of each stage. -/
structure Iter where
  x : Mat
  u : Mat
  p : Mat
  v : List (List Pair)
deriving DecidableEq, Repr

def Iter.xAt (z : Iter) (k : Nat) : List Nat := z.x.getD k []
def Iter.uAt (z : Iter) (k : Nat) : List Nat := z.u.getD k []
def Iter.pAt (z : Iter) (k : Nat) : List Nat := z.p.getD k []

/-- The sides of stage `k` with their variables in an iterate. -/
def Prob.pairsAt (p : Prob) (z : Iter) (k : Nat) : List (Side × Pair) := (p.sides.getD k []).zip (z.v.getD k [])

/-- gᵢ of a side at a stage's state and input (rule R266). -/
def Side.g (s : Side) (x u : List Nat) : FpM Nat := do
  match s.box with
  | some (input, j) =>
    let z := (if input then u else x).getD j f0
    if s.lower then fSub z s.bound else fSub s.bound z
  | none =>
    let cx ← fDot s.c x
    if s.dd.isEmpty then
      if s.lower then fSub cx s.bound else fSub s.bound cx
    else
      let du ← fDot s.dd u
      if s.lower then
        let v ← fAdd cx du
        fSub v s.bound
      else
        let v ← fSub s.bound cx
        fSub v du

/-- The change of gᵢ along a change of the state and the input. -/
def Side.along (s : Side) (dx du : List Nat) : FpM Nat := do
  let v ← match s.box with
    | some (input, j) => pure ((if input then du else dx).getD j f0)
    | none => do
      let cx ← fDot s.c dx
      if s.dd.isEmpty then pure cx
      else
        let cu ← fDot s.dd du
        fAdd cx cu
  return if s.lower then v else fNeg v

/-- The derivative of gᵢ by a state or an input variable, where the side has it. -/
def Side.coef (s : Side) (input : Bool) (j : Nat) : Option Nat :=
  let c := match s.box with
    | some b => if b = (input, j) then some f1 else none
    | none => (if input then s.dd else s.c)[j]?
  if s.lower then c else c.map fNeg

/-- Σ of a value per side times the derivative by a variable, in the order of the inequalities (rules R257, R266). -/
def sideSum (input : Bool) (j : Nat) (l : List (Side × Nat)) : FpM Nat :=
  let ts := l.filterMap fun q => (q.1.coef input j).map fun c => (c, q.2)
  fDot (ts.map (·.1)) (ts.map (·.2))

/-- A cold start at the states `xs` (rule R267). -/
def Prob.coldStart (p : Prob) (xs : Mat) : FpM Iter := do
  let u := List.replicate p.m f0
  let v ← p.sides.zipIdx.mapM fun r => r.1.mapM fun s => do
    let g ← s.g (xs.getD r.2 []) u
    return { t := fMax g f1, l := f1, s := f1, e := f1 : Pair }
  return { x := xs, u := List.replicate p.stages u, p := List.replicate p.stages (List.replicate p.n f0), v := v }

/-- The complementarity pairs in inequality order (rule R271). -/
def Prob.pairs (p : Prob) (z : Iter) : List (Nat × Nat) :=
  (List.range (p.stages + 1)).flatMap fun k => (p.pairsAt z k).flatMap fun q =>
    (q.2.t, q.2.l) :: (if q.1.soft then [(q.2.s, q.2.e)] else [])

/-- comp_sum(). -/
def pairSum (l : List (Nat × Nat)) : FpM Nat := fDot (l.map (·.1)) (l.map (·.2))

/-! Residuals and the certificate (rules R270–R272). -/

/-- The certificate with RES_P. -/
structure Cert where
  gap : Nat
  viol : Nat
  resD : Nat
  soft : Nat
  cost : Nat
  resP : Nat
deriving DecidableEq, Repr

/-- Whether every value is finite. -/
def Cert.finite (c : Cert) : Bool := [c.gap, c.viol, c.resD, c.soft, c.cost].all fFinite

/-- What residuals() computes: those of the dynamics by stage, of each inequality and each slack, the gradient by states and by
inputs, and the certificate. -/
structure Resid where
  dyn : Mat
  ineq : Mat
  slack : Mat
  gx : Mat
  gu : Mat
  cert : Cert

/-- xₖ₊₁ − Aₖxₖ − Bₖuₖ − cₖ. -/
def Prob.dynRes (p : Prob) (z : Iter) (k : Nat) : FpM (List Nat) :=
  (List.range p.n).mapM fun i => do
    let ax ← fDot ((p.aAt k).getD i []) (z.xAt k)
    let bu ← fDot ((p.bAt k).getD i []) (z.uAt k)
    let r ← fSub ((z.xAt (k + 1)).getD i f0) ax
    let r ← fSub r bu
    fSub r ((p.c.getD k []).getD i f0)

/-- The gradient of the Lagrangian by xₖ: Qx + Sᵀu + q + Aᵀπₖ − πₖ₋₁ − Σ λ·∂g. DEDUCED, assumption 11. -/
def Prob.gradX (p : Prob) (z : Iter) (k : Nat) : FpM (List Nat) :=
  let c := p.costOf k
  let ls := (p.pairsAt z k).map fun q => (q.1, q.2.l)
  (List.range p.n).mapM fun j => do
    let v ← fDot (c.q.getD j []) (z.xAt k)
    let v ← if k = p.stages then pure v else do
      let su ← fDot (Mat.col c.s j) (z.uAt k)
      fAdd v su
    let v ← fAdd v (c.ql.getD j f0)
    let v ← if k = p.stages then pure v else do
      let ap ← fDot (Mat.col (p.aAt k) j) (z.pAt k)
      fAdd v ap
    let v ← if k = 0 then pure v else fSub v ((z.pAt (k - 1)).getD j f0)
    let sum ← sideSum false j ls
    fSub v sum

/-- The gradient of the Lagrangian by uₖ: Sx + Ru + r + Bᵀπₖ − Σ λ·∂g. DEDUCED, assumption 11. -/
def Prob.gradU (p : Prob) (z : Iter) (k : Nat) : FpM (List Nat) :=
  let c := p.costOf k
  let ls := (p.pairsAt z k).map fun q => (q.1, q.2.l)
  (List.range p.m).mapM fun j => do
    let sx ← fDot (c.s.getD j []) (z.xAt k)
    let ru ← fDot (c.r.getD j []) (z.uAt k)
    let v ← fAdd sx ru
    let v ← fAdd v (c.rl.getD j f0)
    let bp ← fDot (Mat.col (p.bAt k) j) (z.pAt k)
    let v ← fAdd v bp
    let sum ← sideSum true j ls
    fSub v sum

/-- The gradient by the slack of a soft side, z1 + z2·s − λ − η; +0 on a hard one. -/
def Side.gradSlack (s : Side) (q : Pair) : FpM Nat := do
  if s.soft then
    let a ← fMul s.z2 q.s
    let v ← fAdd s.z1 a
    let v ← fSub v q.l
    fSub v q.e
  else return f0

/-- The cost of a stage at its state and input (rule R255). -/
def Cost.at_ (c : Cost) (x u : List Nat) (last : Bool) : FpM Nat := do
  let qx ← c.q.mul x
  let xqx ← fDot x qx
  let a ← fMul fHalf xqx
  let ql ← fDot c.ql x
  if last then fAdd a ql
  else
    let sx ← c.s.mul x
    let usx ← fDot u sx
    let ru ← c.r.mul u
    let uru ← fDot u ru
    let b ← fMul fHalf uru
    let rl ← fDot c.rl u
    let v ← fAdd a usx
    let v ← fAdd v b
    let v ← fAdd v ql
    fAdd v rl

/-- COST (rule R271). -/
def Prob.costAt (p : Prob) (z : Iter) : FpM Nat := do
  let base ← p.cost.zipIdx.foldlM (fun acc q => do
    let v ← q.1.at_ (z.xAt q.2) (z.uAt q.2) (q.2 == p.stages)
    if q.2 = 0 then pure v else fAdd acc v) f0
  ((List.range (p.stages + 1)).flatMap (p.pairsAt z)).foldlM (fun acc q =>
    if q.1.soft then do
      let a ← fMul q.1.z1 q.2.s
      let h ← fMul fHalf q.1.z2
      let b ← fMul q.2.s q.2.s
      let hb ← fMul h b
      let ab ← fAdd a hb
      fAdd acc ab
    else pure acc) base

/-- max(+0, −g). -/
def overshoot (g : Nat) : Nat := fMax f0 (fNeg g)

/-- residuals() (rules R270, R271). -/
def Prob.residuals (p : Prob) (z : Iter) : FpM Resid := do
  let dyn ← (List.range p.stages).mapM (p.dynRes z)
  let all := (List.range (p.stages + 1)).map fun k => p.pairsAt z k
  let gs ← all.zipIdx.mapM fun r => r.1.mapM fun q => q.1.g (z.xAt r.2) (z.uAt r.2)
  let ineq ← (all.zip gs).mapM fun r => (r.1.zip r.2).mapM fun q => do
    let a ← if q.1.1.soft then fAdd q.2 q.1.2.s else pure q.2
    fSub a q.1.2.t
  let slack ← all.mapM fun r => r.mapM fun q => q.1.gradSlack q.2
  let gx ← (List.range (p.stages + 1)).mapM (p.gradX z)
  let gu ← (List.range p.stages).mapM (p.gradU z)
  let gap ← pairSum (p.pairs z)
  let cost ← p.costAt z
  let excess := fun soft => ((all.zip gs).flatMap fun r => r.1.zip r.2).filterMap fun q =>
    if q.1.1.soft = soft then some (overshoot q.2) else none
  let dynMax := fLargest dyn.flatten
  return {
    dyn := dyn, ineq := ineq, slack := slack, gx := gx, gu := gu,
    cert := { gap := gap, viol := (excess false).foldl fMax dynMax,
              resD := fLargest ((if p.free0 then gx else gx.drop 1).flatten ++ gu.flatten ++ slack.flatten),
              soft := (excess true).foldl fMax f0, cost := cost, resP := fMax dynMax (fLargest ineq.flatten) } }

/-- The smallest normal number, 2⁻¹⁰²². -/
def fTiny : Nat := 0x0010000000000000

/-- The merit φ of a certificate: the largest quotient of a value and its threshold (rule R272). -/
def Cert.merit (c : Cert) (l : List (Nat × Nat)) : FpM Nat :=
  if !c.finite then return fInf
  else do
    let qs ← l.mapM fun q => fDiv q.1 (fMax q.2 fTiny)
    return qs.foldl fMax f0

/-! The factorisation (rule R268). -/

/-- Of a soft side, z2 + η ÷ s. -/
def Side.stiff (s : Side) (q : Pair) : FpM Nat := do
  let b ← fDiv q.e q.s
  fAdd s.z2 b

/-- The weight of a side. -/
def Side.weight (s : Side) (q : Pair) : FpM Nat := do
  if s.soft then
    let a ← fDiv q.t q.l
    let c ← s.stiff q
    let d ← fDiv f1 c
    let e ← fAdd a d
    fDiv f1 e
  else fDiv q.l q.t

/-- The weights of the two sides of a row joined: of sides in order, those of one row in one entry. -/
def joinRows (l : List (Side × Nat)) : FpM (List (Side × Nat)) := do
  let rows ← l.foldlM (fun acc q => do
    match acc with
    | (s, w) :: rest =>
      if s.slot / 2 = q.1.slot / 2 then
        let v ← fAdd w q.2
        return (s, v) :: rest
      else return q :: acc
    | [] => return [q]) ([] : List (Side × Nat))
  return rows.reverse

/-- A stage block with Σ w·abᵀ over the general rows and box weights on its diagonal. -/
def addRows (base : Mat) (rows : List (Side × Nat)) (fa fb : Side → List Nat) (nr nc : Nat) (box : Nat → Option Nat) (sym : Bool) :
    FpM Mat :=
  let gen := rows.filter fun r => r.1.box.isNone
  (List.range nr).mapM fun i => (List.range nc).mapM fun j => do
    let (i', j') := if sym then (min i j, max i j) else (i, j)
    let left ← gen.mapM fun r => fMul r.2 ((fa r.1).getD i' f0)
    let sum ← fDot left (gen.map fun r => (fb r.1).getD j' f0)
    let v ← fAdd (base.at_ i' j') sum
    match (if i = j then box i else none) with
    | some w => fAdd v w
    | none => return v

/-- The weight on the box of a variable. -/
def boxWeight (rows : List (Side × Nat)) (input : Bool) (i : Nat) : Option Nat :=
  (rows.find? fun q => q.1.box == some (input, i)).map (·.2)

/-- The factors of a stage: P of the next stage, L_g, Kt, and the columns of K. -/
structure Factor where
  pNext : Mat
  lg : Mat
  kt : Mat
  kc : Mat

/-- One stage of the block Riccati recursion: its factors and P, or none where the Cholesky factorisation fails. -/
def Prob.riccatiStage (p : Prob) (z : Iter) (j : Nat) (pk : Mat) : FpM (Option (Factor × Mat)) := do
  let n := p.n
  let m := p.m
  let c := p.costOf j
  let ws ← (p.pairsAt z j).mapM fun q => do
    let w ← q.1.weight q.2
    return (q.1, w)
  let rows ← joinRows ws
  let qt ← addRows c.q rows (·.c) (·.c) n n (boxWeight rows false) true
  let st ← addRows c.s rows (·.dd) (·.c) m n (fun _ => none) false
  let rt ← addRows c.r rows (·.dd) (·.dd) m m (boxWeight rows true) true
  let a := p.aAt j
  let b := p.bAt j
  let pb ← pk.times b m
  let pa ← pk.times a n
  let bt := b.flip m
  let at_ := a.flip n
  let g ← (List.range m).mapM fun i => (List.range m).mapM fun l => do
    let (i', l') := (min i l, max i l)
    let v ← fDot (bt.getD i' []) (Mat.col pb l')
    fAdd (rt.at_ i' l') v
  match ← cholesky true g with
  | none => return none
  | some lg =>
    let kt ← (List.range m).mapM fun i => (List.range n).mapM fun l => do
      let v ← fDot (bt.getD i []) (Mat.col pa l)
      fAdd (st.at_ i l) v
    let kc ← (List.range n).mapM fun l => cholSolve lg (Mat.col kt l)
    let pn ← (List.range n).mapM fun i => (List.range n).mapM fun l => do
      let (i', l') := (min i l, max i l)
      let v ← fDot (at_.getD i' []) (Mat.col pa l')
      let s1 ← fAdd (qt.at_ i' l') v
      let t ← fDot (Mat.col kt i') (kc.getD l' [])
      fSub s1 t
    return some ({ pNext := pk, lg := lg, kt := kt, kc := kc }, pn)

/-- The recursion over the stages below `k`, with the factors from stage `k` on, and P₀. -/
def Prob.riccati (p : Prob) (z : Iter) (k : Nat) (pk : Mat) (fs : List Factor) : FpM (Option (List Factor × Mat)) :=
  match k with
  | 0 => return some (fs, pk)
  | j + 1 => do
    match ← p.riccatiStage z j pk with
    | none => return none
    | some (f, pn) => p.riccati z j pn (f :: fs)

/-- factor() (rules R268, R269): the factors by stage and, where x₀ is a variable, the Cholesky factor of P₀. -/
def Prob.factors (p : Prob) (z : Iter) : FpM (Option (List Factor × Mat)) := do
  let k := p.stages
  let ws ← (p.pairsAt z k).mapM fun q => do
    let w ← q.1.weight q.2
    return (q.1, w)
  let rows ← joinRows ws
  let pn ← addRows (p.costOf k).q rows (·.c) (·.c) p.n p.n (boxWeight rows false) true
  match ← p.riccati z k pn [] with
  | none => return none
  | some (fs, p0) =>
    if p.free0 then
      match ← cholesky true p0 with
      | none => return none
      | some l0 => return some (fs, l0)
    else return some (fs, [])

/-! The Newton step (rule R268). -/

/-- The right-hand sides of the pairs (t, λ) and (s, η) of a side: −tλ and −sη, and what a corrector adds to each. -/
structure Target where
  tl : Nat
  se : Nat

/-- rhs_affine() of a side. -/
def Side.affine (s : Side) (q : Pair) : FpM Target := do
  let a ← fMul q.t q.l
  let b ← if s.soft then fMul q.s q.e else pure f0
  return { tl := fNeg a, se := fNeg b }

/-- rhs_corrector() of a side: −Δt·Δλ + sig·rho is added for each pair (rule R269). -/
def Side.corrector (s : Side) (base : Target) (d : Pair) (centre : Nat) : FpM Target := do
  let add := fun v a b => do
    let p ← fMul a b
    let c ← fAdd (fNeg p) centre
    fAdd v c
  let tl ← add base.tl d.t d.l
  let se ← if s.soft then add base.se d.s d.e else pure base.se
  return { tl := tl, se := se }

/-- A side in the elimination: its weight and yᵢ, where Δλ = w·(y − ∂g·Δz); `r` is its inequality residual and `rs` that of its slack.
DEDUCED, assumption 11. -/
def sideRhs (s : Side) (q : Pair) (k : Target) (r rs : Nat) : FpM (Nat × Nat) := do
  let w ← s.weight q
  let a ← fDiv k.tl q.l
  let y ← fSub a r
  if s.soft then
    let h ← s.stiff q
    let b ← fDiv k.se q.s
    let c ← fSub rs b
    let e ← fDiv c h
    let v ← fAdd y e
    return (w, v)
  else return (w, y)

/-- Δt, Δλ, Δs and Δη of a side from the change `v` of its gᵢ. DEDUCED, assumption 11. -/
def Side.recover (s : Side) (q : Pair) (k : Target) (wy : Nat × Nat) (r rs v : Nat) : FpM Pair := do
  let vr ← fAdd v r
  if s.soft then
    let a ← fSub wy.2 v
    let dl ← fMul wy.1 a
    let h ← s.stiff q
    let b ← fDiv k.se q.s
    let c ← fSub dl rs
    let c ← fAdd c b
    let ds ← fDiv c h
    let e ← fMul q.e ds
    let e ← fSub k.se e
    let de ← fDiv e q.s
    let dt ← fAdd vr ds
    return { t := dt, l := dl, s := ds, e := de }
  else
    let a ← fMul q.l vr
    let a ← fSub k.tl a
    let dl ← fDiv a q.t
    return { t := vr, l := dl, s := f0, e := f0 }

/-- The linear recursion backward (rule R268): from the stage vectors of the stages below `k` and p of stage `k`, the vectors k and p
by stage. DEDUCED, assumption 11. -/
def Prob.linearBack (p : Prob) (fs : List Factor) (qv rv bv : Mat) (k : Nat) (pk : List Nat) (ks ps : Mat) : FpM (Mat × Mat) :=
  match k with
  | 0 => return (ks, pk :: ps)
  | j + 1 => do
    let f := fs.getD j { pNext := [], lg := [], kt := [], kc := [] }
    let pb ← f.pNext.mul (bv.getD j [])
    let h ← (pb.zip pk).mapM fun q => fAdd q.1 q.2
    let g ← (List.range p.m).mapM fun i => do
      let v ← fDot (Mat.col (p.bAt j) i) h
      fAdd ((rv.getD j []).getD i f0) v
    let kv ← cholSolve f.lg g
    let pv ← (List.range p.n).mapM fun i => do
      let v ← fDot (Mat.col (p.aAt j) i) h
      let a ← fAdd ((qv.getD j []).getD i f0) v
      let t ← fDot (Mat.col f.kt i) kv
      fSub a t
    p.linearBack fs qv rv bv j pv (kv :: ks) (pk :: ps)

/-- Δuₖ = −K·Δxₖ − kₖ and Δxₖ₊₁ forward, `n` stages from stage `k` and Δxₖ on (rule R268). -/
def Prob.forward (p : Prob) (fs : List Factor) (ks bv : Mat) (k n : Nat) (dx : List Nat) : FpM (Mat × Mat) :=
  match n with
  | 0 => return ([dx], [])
  | j + 1 => do
    let f := fs.getD k { pNext := [], lg := [], kt := [], kc := [] }
    let du ← (List.range p.m).mapM fun i => do
      let v ← fDot (Mat.col f.kc i) dx
      fSub (fNeg v) ((ks.getD k []).getD i f0)
    let next ← (List.range p.n).mapM fun i => do
      let a ← fDot ((p.aAt k).getD i []) dx
      let b ← fDot ((p.bAt k).getD i []) du
      let v ← fAdd a b
      fAdd v ((bv.getD k []).getD i f0)
    let rest ← p.forward fs ks bv (k + 1) j next
    return (dx :: rest.1, du :: rest.2)

/-- solve(): the directions for the right-hand sides `ts` of the pairs, by stage and side (rules R268, R269). -/
def Prob.direction (p : Prob) (z : Iter) (r : Resid) (fs : List Factor × Mat) (ts : List (List Target)) : FpM Iter := do
  let at_ := fun k i => ((ts.getD k []).getD i { tl := f0, se := f0 }, (r.ineq.getD k []).getD i f0, (r.slack.getD k []).getD i f0)
  let wy ← (List.range (p.stages + 1)).mapM fun k => (p.pairsAt z k).zipIdx.mapM fun q =>
    let a := at_ k q.2
    sideRhs q.1.1 q.1.2 a.1 a.2.1 a.2.2
  let load ← (List.range (p.stages + 1)).mapM fun k => ((p.pairsAt z k).zip (wy.getD k [])).mapM fun q => do
    let v ← fMul q.2.1 q.2.2
    return (q.1.1, v)
  let vec := fun input (g : Mat) k => (g.getD k []).zipIdx.mapM fun q => do
    let s ← sideSum input q.2 (load.getD k [])
    fSub q.1 s
  let qv ← (List.range (p.stages + 1)).mapM (vec false r.gx)
  let rv ← (List.range p.stages).mapM (vec true r.gu)
  let bv := r.dyn.map fun l => l.map fNeg
  let back ← p.linearBack fs.1 qv rv bv p.stages (qv.getD p.stages []) [] []
  let dx0 ← if p.free0 then do
      let v ← cholSolve fs.2 (back.2.headD [])
      pure (v.map fNeg)
    else pure (List.replicate p.n f0)
  let xu ← p.forward fs.1 back.1 bv 0 p.stages dx0
  let dp ← (List.range p.stages).mapM fun k => do
    let f := fs.1.getD k { pNext := [], lg := [], kt := [], kc := [] }
    let v ← f.pNext.mul (xu.1.getD (k + 1) [])
    (v.zip (back.2.getD (k + 1) [])).mapM fun q => fAdd q.1 q.2
  let dv ← (List.range (p.stages + 1)).mapM fun k => (p.pairsAt z k).zipIdx.mapM fun q => do
    let a := at_ k q.2
    let v ← q.1.1.along (xu.1.getD k []) (xu.2.getD k [])
    q.1.1.recover q.1.2 a.1 ((wy.getD k []).getD q.2 (f0, f0)) a.2.1 a.2.2 v
  return { x := xu.1, u := xu.2, p := dp, v := dv }

/-- fma(a, Δv, v) of every value of two rows. -/
def stepRow (a : Nat) (d l : List Nat) : FpM (List Nat) := (l.zip d).mapM fun q => fFma a q.2 q.1

/-- step(): every variable becomes fma(a, Δv, v) (rule R269); the slack of a hard side is none. -/
def Prob.step (p : Prob) (a : Nat) (d z : Iter) : FpM Iter := do
  let rows := fun (x y : Mat) => (x.zip y).mapM fun q => stepRow a q.2 q.1
  let x ← rows z.x d.x
  let u ← rows z.u d.u
  let pi ← rows z.p d.p
  let v ← (List.range (p.stages + 1)).mapM fun k => ((p.pairsAt z k).zip (d.v.getD k [])).mapM fun q => do
    let t ← fFma a q.2.t q.1.2.t
    let l ← fFma a q.2.l q.1.2.l
    if q.1.1.soft then
      let s ← fFma a q.2.s q.1.2.s
      let e ← fFma a q.2.e q.1.2.e
      return { t := t, l := l, s := s, e := e : Pair }
    else return { q.1.2 with t := t, l := l }
  return { x := x, u := u, p := pi, v := v }

/-- to_boundary(): of values with their changes, the largest a ≤ 1.0 that keeps them from going below zero (rule R269). -/
def toBoundary (l : List (Nat × Nat)) : FpM Nat :=
  l.foldlM (fun a q => do
    if ← fLess q.2 f0 then
      let r ← fDiv (fNeg q.1) q.2
      return fMin a r
    else return a) f1

/-- The pair variables of an iterate with their changes. -/
def Prob.pairSteps (p : Prob) (z dz : Iter) : List (Nat × Nat) :=
  ((p.pairs z).zip (p.pairs dz)).flatMap fun q => [(q.1.1, q.2.1), (q.1.2, q.2.2)]

/-- A number as FP64: the counts here are exact. -/
def natF64 (n : Nat) : Nat := (finish .fp64 0 .rne true false (.num false n 0 false)).1

/-- 0.995 as FP64. -/
def f0995 : Nat := 0x3FEFD70A3D70A3D7

/-- One iteration (rule R269), or none where its factorisation fails. With no pair, rho, q and sig are +0 and the corrector is the
predictor. -/
def Prob.iterate (p : Prob) (z : Iter) (r : Resid) : FpM (Option Iter) := do
  let pairs := p.pairs z
  let none_ := pairs.isEmpty
  let sum ← if none_ then pure f0 else pairSum pairs
  let rho ← if none_ then pure f0 else fDiv sum (natF64 pairs.length)
  match ← p.factors z with
  | none => return none
  | some fs =>
    let all := (List.range (p.stages + 1)).map (p.pairsAt z)
    let base ← all.mapM fun l => l.mapM fun q => q.1.affine q.2
    let aff ← p.direction z r fs base
    let d ← if none_ then pure aff else do
      let aAff ← toBoundary (p.pairSteps z aff)
      let after ← (p.pairSteps z aff).mapM fun q => fFma aAff q.2 q.1
      let sumAff ← fDot ((after.zipIdx.filter fun q => q.2 % 2 == 0).map (·.1)) ((after.zipIdx.filter fun q => q.2 % 2 == 1).map (·.1))
      let rhoAff ← fDiv sumAff (natF64 pairs.length)
      let q ← fDiv rhoAff rho
      let qq ← fMul q q
      let sig ← fMul qq q
      let centre ← fMul sig rho
      let ts ← (all.zip base).zipIdx.mapM fun l => (l.1.1.zip l.1.2).zipIdx.mapM fun q =>
        q.1.1.1.corrector q.1.2 ((aff.v.getD l.2 []).getD q.2 { t := f0, l := f0, s := f0, e := f0 }) centre
      p.direction z r fs ts
    let b ← toBoundary (p.pairSteps z d)
    let a ← fMul f0995 b
    let long ← fLess f1 a
    let zNew ← p.step (if long then f1 else a) d z
    return some zNew

/-! The main loop (rules R269, R272, R273). -/

/-- How a loop ended, what it returns and its counts. -/
structure Solve where
  z : Iter
  cert : Cert
  bestAt : Nat
  iters : Nat
  conv : Bool
  cap : Bool
  dl : Bool
  fact : Bool

/-- converged() of rule R270 where the tolerances of the certificate's values are given: all are tested. -/
def meetsAll (l : List (Nat × Nat)) : FpM Bool := do
  let bs ← l.mapM fun q => fLessEq q.1 q.2
  return bs.all id

/-- The tests of a solve: the values that converged() compares, and those of the merit φ, each with its bound. -/
structure Tests where
  tol : Cert → List (Nat × Nat)
  merit : Cert → List (Nat × Nat)

/-- The best iterate so far. -/
structure Best where
  z : Iter
  cert : Cert
  at_ : Nat
  phi : Nat

/-- The loop from iterate `z` of number `iters`: `cap` more at most, `time` of all before the deadline check fires, or exactly `time` where
a replay forces them (rules R269, R273, R364). -/
def mainLoop (p : Prob) (q : Tests) (cap time : Nat) (forced : Bool) (iters : Nat) (z : Iter) (best : Best) : FpM Solve := do
  let r ← p.residuals z
  let cert := r.cert
  let phi ← cert.merit (q.merit cert)
  let better ← fLessEq phi best.phi
  let best := if better then { z := z, cert := cert, at_ := iters, phi := phi } else best
  let conv ← meetsAll (q.tol cert)
  let stop : Solve :=
    { z := best.z, cert := best.cert, bestAt := best.at_, iters := iters, conv := false, cap := false, dl := false, fact := false }
  if conv && !forced then return { stop with z := z, cert := cert, bestAt := iters, conv := true }
  else if forced && time ≤ iters then return { stop with dl := true }
  else
    match cap with
    | 0 => return { stop with cap := true }
    | k + 1 =>
      if time ≤ iters then return { stop with dl := true }
      else
        match ← p.iterate z r with
        | none => return { stop with fact := true }
        | some z => mainLoop p q k time forced (iters + 1) z best

/-- The certificate of no iterate. -/
def Cert.none : Cert := { gap := f0, viol := f0, resD := f0, soft := f0, cost := f0, resP := f0 }

/-- A solve of `p` from iterate `z`. -/
def Prob.solve (p : Prob) (q : Tests) (cap time : Nat) (forced : Bool) (z : Iter) : FpM Solve :=
  mainLoop p q cap time forced 0 z { z := z, cert := .none, at_ := 0, phi := fInf }

end Sys2Proof.Machine
end

