-- ==== Sys2Proof/Machine/Est.lean ====
section
/-! DEFINITION. Machine/Est.lean: the estimation descriptors of the solver lanes, EST_INIT, SRIF_STEP and MHE_STEP (rules
R232–R254). -/

namespace Sys2Proof.Machine

/-! Fields (rule R235). -/

def eKind (d : List Word) : Nat := fld (dw d 0) 0 4
def eN (d : List Word) : Nat := fld (dw d 0) 8 6
def eG (d : List Word) : Nat := fld (dw d 0) 16 6
def eNw (d : List Word) : Nat := fld (dw d 0) 24 7
def eState (d : List Word) : Nat := fld (dw d 2) 0 20
def eIn (d : List Word) : Nat := fld (dw d 3) 0 20
def eOut (d : List Word) : Nat := fld (dw d 4) 0 20
def eHand (d : List Word) : Nat := fld (dw d 5) 0 20
def eHandLane (d : List Word) : Nat := fld (dw d 5) 20 3
def eHandEn (d : List Word) : Bool := bit (dw d 5) 23
def eHandU (d : List Word) : Bool := bit (dw d 5) 24
def eP (d : List Word) : Nat := fld (dw d 10) 0 5 + 1
def eNc (d : List Word) : Nat := fld (dw d 10) 5 7
def eCap (d : List Word) : Nat := fld (dw d 10) 12 8

/-! Sizes (rules R238, R239, R251). -/

/-- S_rec. -/
def sRec (n p m nc : Nat) : Nat := 64 + 8 * (3 * n * n + n * p + 3 * n + m * (n + 1) + nc * (n + p + 2))

/-- The state block without its ring. -/
def stateBase (n : Nat) : Nat := 64 + 8 * n + 8 * n * n

/-- The state block of a descriptor whose groups have `m` rows. -/
def stateSize (d : List Word) (m : Nat) : Nat := stateBase (eN d) + eNw d * sRec (eN d) (eP d) m (eNc d)

/-- The offset of the group table in the input block. -/
def groupsAt (d : List Word) : Nat :=
  let n := eN d
  64 + 8 * n + 16 * n * n + (if eKind d = 3 then 8 * n * eP d + 8 * n + 8 * eNc d * (n + eP d + 2) else 0)

/-- The input block of a descriptor whose groups have `m` rows. -/
def inputSize (d : List Word) (m : Nat) : Nat :=
  if eKind d = 1 then stateBase (eN d) else groupsAt d + 16 * eG d + 8 * m * (eN d + 1)

/-- The output block. -/
def outSize (d : List Word) : Nat := 320 + 8 * eN d + 8 * eN d * eN d

/-- The hand-over copy. -/
def handSize (d : List Word) : Nat := if eHandU d then outSize d else 320 + 8 * eN d

/-! Checks (rules R232, R233, R235, R236). -/

/-- The conditions that refuse an estimation descriptor with ARG at admission. DEDUCED, assumption 30. DEDUCED, assumption 37. -/
def estArg (inRange : Nat → Bool) (d : List Word) : Bool :=
  let k := eKind d
  let nw := eNw d
  fld (dw d 0) 5 3 != 0 || fld (dw d 0) 14 2 != 0 || fld (dw d 0) 22 2 != 0 || bit (dw d 0) 31 || fld (dw d 1) 27 5 != 0 ||
  (List.range 3).any (fun i => fld (dw d (2 + i)) 20 12 != 0) || fld (dw d 5) 25 7 != 0 || fld (dw d 10) 20 12 != 0 ||
  (List.range 4).any (fun i => dw d (12 + i) != 0) || eN d == 0 || 32 < eN d || 32 < eG d || (k == 1 && eG d != 0) ||
  (k == 2 && (nw != 0 || fld (dw d 10) 0 5 != 0)) || (k == 3 && (nw < 2 || 64 < nw)) ||
  (k == 1 && (nw == 1 || 64 < nw || (nw == 0 && fld (dw d 10) 0 5 != 0))) ||
  (if k == 3 then 64 < eNc d || eCap d == 0 || 64 < eCap d else eNc d != 0 || eCap d != 0 || dw d 11 != 0) ||
  eState d % 64 != 0 || eIn d % 64 != 0 || eOut d % 64 != 0 || (eHandEn d && eHand d % 64 != 0) ||
  (eHandEn d && eHandLane d == fld (dw d 1) 24 3 && eHand d < eOut d + outSize d && eOut d < eHand d + handSize d) ||
  !gatesOk .solver inRange d

/-- Whether a block passes the end of lane memory where the groups have `m` rows, or the destination lane is none of the
`n` logical lanes. -/
def estBounds (n m : Nat) (d : List Word) : Bool :=
  0x100000 < eState d + stateSize d m || 0x100000 < eIn d + inputSize d m || 0x100000 < eOut d + outSize d ||
  (eHandEn d && (0x100000 < eHand d + handSize d || n ≤ eHandLane d))

/-- The checks of an estimation descriptor that depend only on it (rules R184, R236). -/
def estCheck (inRange : Nat → Bool) (n : Nat) (d : List Word) : Nat :=
  if estArg inRange d then cARG else if estBounds n 0 d then cBOUNDS else cOK

/-! The input block (rule R239). -/

/-- A measurement group. -/
structure Grp where
  m : Nat
  present : Bool
  noGate : Bool
  reopen : Nat
  gate : Nat
  nu : List Nat
  h : Mat

/-- The group table, without data. -/
def groupTable (n : Nat) (bs : List Byte) : List Grp :=
  match n with
  | 0 => []
  | k + 1 =>
    let w := wordAt bs 0
    { m := fld w 0 4, present := bit w 4, noGate := bit w 5, reopen := fld w 8 8, gate := leNat ((bs.drop 8).take 8),
      nu := [], h := [] } :: groupTable k (bs.drop 16)

/-- The groups with their data, `n` states. -/
def groupData (n : Nat) (gs : List Grp) (bs : List Byte) : List Grp :=
  match gs with
  | [] => []
  | g :: rest =>
    { g with nu := f64s g.m bs, h := matOf g.m n (f64s (g.m * n) (bs.drop (8 * g.m))) } ::
      groupData n rest (bs.drop (8 * g.m * (n + 1)))

/-! The filter (rules R242–R246). -/

/-- The prior square root (rule R242): the time update of U by F and the upper-triangular Qd. -/
def timeUpdate (n : Nat) (u f q : Mat) : FpM Mat := do
  let low ← (List.range n).mapM fun i => do
    let qi := (q.getD i []).drop i
    let row ← (List.range n).mapM fun c => fDot qi (Mat.col (f.drop i) c)
    return row.map fNeg ++ List.replicate i f0 ++ qi ++ [f0]
  let top := u.map fun r => r ++ List.replicate (n + 1) f0
  let m ← householder (2 * n) (top ++ low)
  return (m.drop n).map fun r => (r.drop n).take n

/-- d² of a group (rule R244). -/
def gateDistance (ut : Mat) (g : Grp) : FpM Nat := do
  let b ← g.h.mapM (lowerSolve ut)
  let c ← b.zipIdx.mapM fun r => (b.take (r.2 + 1)).zipIdx.mapM fun q => do
    let v ← fDot r.1 q.1
    if q.2 = r.2 then fAdd v f1 else pure v
  match ← cholesky false c with
  | none => return fInf
  | some l =>
    let z ← lowerSolve l g.nu
    fDot z z

/-- What becomes of a group (rule R245). -/
inductive Outcome where
  | absent | accepted | forced | rejected
deriving DecidableEq, Repr

/-- The outcome of a group of distance `d2` that was rejected `consec` times in a row. -/
def groupOutcome (g : Grp) (d2 consec : Nat) : FpM Outcome := do
  if !g.present then return .absent
  else if g.noGate then return .accepted
  else if ← fLessEq d2 g.gate then return .accepted
  else if g.reopen ≠ 0 ∧ g.reopen ≤ consec then return .forced
  else return .rejected

/-- The new count of consecutive rejections. -/
def nextConsec (o : Outcome) (consec : Nat) : Nat :=
  match o with
  | .absent => consec
  | .rejected => Nat.min 255 (consec + 1)
  | _ => 0

def Outcome.taken (o : Outcome) : Bool := o == .accepted || o == .forced

/-- A filter step: the prior, distances, outcomes, accepted rows and the result. -/
structure Srif where
  prior : Mat
  xPred : List Nat
  d2 : List Nat
  out : List Outcome
  rows : Mat
  u : Mat
  x : List Nat
  misfit : Nat

/-- The filter step from x̂, U and the counts of rejections (rules R242–R245). -/
def srif (n : Nat) (predict : Bool) (x xPred : List Nat) (u f q : Mat) (gs : List Grp) (consec : List Nat) : FpM Srif := do
  let prior ← if predict then timeUpdate n u f q else pure u
  let xp := if predict then xPred else x
  let ut := prior.flip n
  let d2 ← gs.mapM fun g => if g.present then gateDistance ut g else pure f0
  let out ← (gs.zip (d2.zip consec)).mapM fun g => groupOutcome g.1 g.2.1 g.2.2
  let rows := ((gs.zip out).filter fun g => g.2.taken).flatMap fun g => (g.1.h.zip g.1.nu).map fun r => r.1 ++ [r.2]
  let up ← if rows.isEmpty then pure (prior.map (· ++ [f0])) else householder n (prior.map (· ++ [f0]) ++ rows)
  let uNew := (up.take n).zipIdx.map fun r => List.replicate r.2 f0 ++ (r.1.take n).drop r.2
  let delta ← if rows.isEmpty then pure (List.replicate n f0) else upperSolve uNew ((up.take n).map fun r => r.getD n f0)
  let xNew ← (xp.zip delta).mapM fun p => fAdd p.1 p.2
  let rest := (up.drop n).map fun r => r.getD n f0
  let misfit ← fDot rest rest
  return { prior := prior, xPred := xp, d2 := d2, out := out, rows := rows, u := uNew, x := xNew, misfit := misfit }

/-- Whether a step is reverted (rule R246). -/
def Srif.reverted (r : Srif) : Bool :=
  r.x.any (!fFinite ·) || r.u.any (·.any (!fFinite ·)) || (List.range r.u.length).any fun i => r.u.at_ i i == f0

/-- The bitmap of the groups with an outcome. -/
def Srif.map (r : Srif) (o : Outcome) : Nat :=
  (wordOf fun i => r.out[i]? == some o).toNat

/-! The window ring (rules R238, R247). A record is a 64-byte header (its length, for the oldest the length of all, its m, its
constraints and its rows), the values of rule R247, and n² + n values of which the first n are the record's state in the last window
solve (DESIGN CHOICE, assumption 10). -/

/-- The records that the ring bytes hold. DESIGN CHOICE, assumption 10. -/
def ringRecords (k : Nat) (bs : List Byte) : List (List Byte) :=
  match k with
  | 0 => []
  | j + 1 =>
    let n := (wordAt bs 0).toNat
    bs.take n :: ringRecords j (bs.drop n)

/-- The bytes of records, the total in the oldest one's second word. DESIGN CHOICE, assumption 10. -/
def ringImage (l : List (List Byte)) : List Byte :=
  match l with
  | [] => []
  | r :: rest =>
    let total := (l.map List.length).sum
    r.take 4 ++ leBytes 4 total ++ r.drop 8 ++ rest.flatten

/-- The newest records that number at most `k` and take at most `size` bytes. DESIGN CHOICE, assumption 10. -/
def ringFit (k size : Nat) (l : List (List Byte)) : List (List Byte) :=
  match l with
  | [] => []
  | r :: rest => if k < l.length ∨ size < (l.map List.length).sum then ringFit k size rest else r :: rest

/-- A record of a step. DESIGN CHOICE, assumption 10. -/
def sampleRecord (d : List Word) (m : Nat) (r : Srif) (f gw c cons : List Nat) : List Byte :=
  let n := eN d
  let rows := r.rows.flatten
  let data := r.xPred ++ r.prior.flatten ++ f ++ gw ++ c ++ cons ++ rows ++ List.replicate (m * (n + 1) - rows.length) f0 ++
    r.xPred ++ List.replicate (n * n) f0
  let len := 64 + 8 * data.length
  leBytes 4 len ++ leBytes 4 0 ++ leBytes 4 m ++ leBytes 4 (eNc d) ++ leBytes 4 r.rows.length ++ List.replicate 44 0 ++
    f64Bytes data

/-- The records with the states of a window solve. DESIGN CHOICE, assumption 10. -/
def ringKeep (n : Nat) (l : List (List Byte)) (xs : Mat) : List (List Byte) :=
  l.zipIdx.map fun r =>
    let o := r.1.length - 8 * (n * n + n)
    r.1.take o ++ f64Bytes (xs.getD r.2 []) ++ r.1.drop (o + 8 * n)

/-! The window problem (rule R248). -/

/-- What a record holds: the filter prior, the dynamics, the constraint rows, the accepted rows with their right-hand sides, and its state
in the last window solve. -/
structure WinRec where
  xPred : List Nat
  u : Mat
  f : Mat
  gw : Mat
  c : List Nat
  cons : Mat
  rows : Mat
  sol : List Nat

/-- The record that bytes hold, of `n` states and `p` noise inputs. -/
def sampleOf (n p : Nat) (bs : List Byte) : WinRec :=
  let w := bytesWords 5 bs
  let m := (dw w 2).toNat
  let nc := (dw w 3).toNat
  let k := (dw w 4).toNat
  let l := f64s (2 * n * n + n * p + 2 * n + nc * (n + p + 2) + m * (n + 1) + n) (bs.drop 64)
  let at1 := n + n * n
  let at2 := at1 + n * n
  let at3 := at2 + n * p
  let at4 := at3 + n
  let at5 := at4 + nc * (n + p + 2)
  { xPred := l.take n, u := matOf n n (l.drop n), f := matOf n n (l.drop at1), gw := matOf n p (l.drop at2),
    c := (l.drop at3).take n, cons := matOf nc (n + p + 2) (l.drop at4), rows := matOf k (n + 1) (l.drop at5),
    sol := (l.drop (at5 + m * (n + 1))).take n }

/-- The cost of a record's stage: ½‖H′(x − x_pred) − ν′‖² over its accepted rows, on the oldest with the arrival cost, and ½‖w‖² (rule
R248). DEDUCED, assumption 10. -/
def WinRec.cost (q : WinRec) (n p : Nat) (oldest : Bool) : FpM Cost := do
  let h := q.rows.map fun r => r.take n
  let b ← q.rows.mapM fun r => do
    let v ← fDot (r.take n) q.xPred
    fAdd v (r.getD n f0)
  let ux ← q.u.mul q.xPred
  let hess ← (List.range n).mapM fun i => (List.range n).mapM fun j => do
    let (i', j') := (min i j, max i j)
    let v ← fDot (Mat.col h i') (Mat.col h j')
    if oldest then
      let a ← fDot (Mat.col q.u i') (Mat.col q.u j')
      fAdd v a
    else return v
  let lin ← (List.range n).mapM fun i => do
    let v ← fDot (Mat.col h i) b
    if oldest then
      let a ← fDot (Mat.col q.u i) ux
      fSub (fNeg v) a
    else return fNeg v
  return { q := hess, s := List.replicate p (List.replicate n f0), ql := lin, rl := List.replicate p f0,
           r := (List.range p).map fun i => (List.range p).map fun j => if i = j then f1 else f0 }

/-- The sides of a record's constraint rows; the last record has no noise input. -/
def WinRec.sides (q : WinRec) (n p : Nat) (last : Bool) : List Side :=
  q.cons.zipIdx.flatMap fun r =>
    sidePair (2 * r.2) (r.1.take n) (if last then [] else (r.1.drop n).take p) none (r.1.getD (n + p) f0) (r.1.getD (n + p + 1) f0) f0 f0

/-- The window problem over the records (rule R248). DEDUCED, assumption 10. -/
def windowProb (n p : Nat) (l : List WinRec) : FpM Prob := do
  let k := l.length - 1
  let cost ← l.zipIdx.mapM fun q => q.1.cost n p (q.2 = 0)
  return { n := n, m := p, stages := k, a := (l.take k).map (·.f), b := (l.take k).map (·.gw), c := (l.take k).map (·.c),
           cost := cost, sides := l.zipIdx.map fun q => q.1.sides n p (q.2 = k), free0 := true }

/-- The states that a window solve starts from: those of the last one, the newest x_pred, or x_pred throughout where one is not finite
(rules R248, R267). DEDUCED, assumption 10. -/
def windowStart (l : List WinRec) : Mat :=
  if l.all fun q => q.sol.all fFinite then l.map (·.sol) else l.map (·.xPred)

/-- The tests of a window solve: GAP and VIOL against GAP_MAX and VIOL_MAX (rules R250, R272). DEDUCED, assumption 10. -/
def windowTests (gapMax violMax : Nat) : Tests :=
  { tol := fun c => [(c.gap, gapMax), (c.viol, violMax)], merit := fun c => [(c.viol, violMax), (c.gap, gapMax)] }

/-- The window solve (rules R248–R250). -/
def windowSolve (n p cap time : Nat) (forced : Bool) (gapMax violMax : Nat) (l : List WinRec) : FpM Solve := do
  let q ← windowProb n p l
  let z ← q.coldStart (windowStart l)
  q.solve (windowTests gapMax violMax) cap time forced z

/-! The window solve's bound on time (rules R248, R250, R273, R282). -/

/-- Dimensions of a solve for its wave counts. -/
structure Dims where
  n : Nat
  m : Nat
  stages : Nat
  nc : Nat
  ncT : Nat
  bx : Nat
  bu : Nat

/-- T_iter and T_cert (rule R282). -/
def Dims.iterWaves (q : Dims) : Nat :=
  let n := q.n
  let m := q.m
  let pk := 2 * (q.nc + q.bx + q.bu)
  let pn := 2 * (q.ncT + q.bx)
  let f := n * n * n + n * n * (n + 1) / 2 + 2 * n * n * m + 2 * n * m * m + m * (m + 1) / 2 +
    q.nc * (n + m) * (n + m + 1) / 2 + q.bx + q.bu
  let s := 4 * n * n + 6 * n * m + 2 * m * m + 4 * q.nc * (n + m) + 4 * (q.bx + q.bu)
  let w := ceilDiv f 32 + ceilDiv s 32 + (n + m)
  let wn := ceilDiv (n * n + q.ncT * n * (n + 1) / 2 + q.bx) 32 + ceilDiv (2 * n * n + 4 * q.ncT * n + 4 * q.bx) 32 + n
  let v := q.stages * (2 * n + m + 4 * pk) + (2 * n + 4 * pn)
  q.stages * w + wn + (96 + ceilDiv (6 * (q.stages * pk + pn)) 32 + ceilDiv v 32)

def Dims.certWaves (q : Dims) : Nat := 128 + ceilDiv ((q.stages + 1) * q.n + q.stages * q.m) 8

/-- The floor rate of the level in force, in M waves/s (rule R26). -/
def State.floorRate (s : State) : Nat := (s.reg (0x71100 + 4 * s.rf 0x73124 0 3)).toNat

/-- Whether a deadline check at a TC7 time leaves room for an iteration and the return (rule R273). -/
def timeLeft (rate waves : Nat) (deadline now : Word) : Bool :=
  let r := sext 32 (deadline - now).toNat
  decide (0 ≤ r) && decide (waves * 1000 ≤ r.toNat * rate)

/-- The iterations, `cap` at most, whose deadline checks pass at the given times; past the last time it stands still. DEDUCED, assumption 38. -/
def checksPass (ok : Word → Bool) (cap : Nat) (last : Word) (times : List Word) : Nat :=
  match cap with
  | 0 => 0
  | k + 1 =>
    let t := times.headD last
    if ok t then 1 + checksPass ok k t times.tail else 0

/-- The iterations that time allows a solve, or that a replayed ITER entry forces: the count, whether that entry is there,
and the state that has taken it (rules R273, R364). DEDUCED, assumption 38. -/
def State.itersAllowed (s : State) (c lcn cap : Nat) (q : Dims) (deadline : Word) (start : Nat) (times : List Word) :
    Nat × Bool × State :=
  if s.rpMode c = 2 then
    match s.replayTake c 4 lcn 0 with
    | some e => (fld (dw e.1 4) 0 8, true, e.2)
    | none => (cap, false, s)
  else
    (checksPass (timeLeft s.floorRate (q.iterWaves + q.certWaves) deadline) cap (w32 start) times, false, s)

/-! Lane memory. -/

/-- The key of a lost row of a unit lies in a range of its memory. -/
def rowIn (u ofs n : Nat) (k : Nat) : Bool :=
  let a := (k - 2 ^ 18 * u) * 64
  k / 2 ^ 18 == u && decide (a < ofs + n) && decide (ofs < a + 64)

/-- Whether a row of the block at `ofs` was lost and the block not written since (rule R234). -/
def State.blockLost (s : State) (u ofs n : Nat) : Bool :=
  s.rowLost.any fun k => rowIn u ofs n k && !s.rowPardon.contains (k, 2 ^ 20 * u + ofs)

/-- An EST_INIT has written the state block at `ofs`, whatever the size of its ring. -/
def State.pardon (s : State) (u ofs : Nat) : State :=
  let b := 2 ^ 20 * u + ofs
  { s with rowPardon := s.rowPardon.filter (fun q => q.2 ≠ b) ++ (s.rowLost.filter fun k => k / 2 ^ 18 = u).map fun k => (k, b) }

/-- Consecutive pieces of a unit's memory from `ofs` on, of which those marked are read and the others left out as zeros. -/
def State.piecesGet (s : State) (u c ofs : Nat) (ps : List (Nat × Bool)) : Nat × List Byte × State :=
  match ps with
  | [] => (cOK, [], s)
  | (n, take) :: rest =>
    let q := if take then s.sramGet u ofs n (some c) else (cOK, List.replicate n 0, s)
    if q.1 ≠ cOK then q
    else
      let t := q.2.2.piecesGet u c (ofs + n) rest
      (t.1, q.2.1 ++ t.2.1, t.2.2)

/-- A block is written by its lane: its bytes from `ofs` on, and no row of it counts as lost any longer. -/
def State.putBlock (s : State) (u ofs c : Nat) (bs : List Byte) : State :=
  let s := (s.sramSet u ofs bs (some c)).2
  { s with rowLost := s.rowLost.filter fun k => !rowIn u ofs bs.length k }

/-! A step (rules R246–R252). -/

/-- What an estimation step puts in its output block. -/
structure EstOut where
  reverted : Bool
  fallback : Bool
  mhe : Bool
  reject : Nat
  absent : Nat
  forced : Nat
  iter : Nat
  misfit : Nat
  gap : Nat
  viol : Nat
  d2 : List Nat
  x : List Nat
  u : Mat

/-- The bytes of an output block, or of a copy that leaves out U. -/
def EstOut.bytes (o : EstOut) (n stamp : Nat) (step : DWord) (withU : Bool) : List Byte :=
  let w0 := n + withU.toNat * 64 + o.reverted.toNat * 128 + o.fallback.toNat * 256 + o.mhe.toNat * 512
  leBytes 4 w0 ++ leBytes 4 stamp ++ leBytes 8 step.toNat ++ leBytes 4 o.reject ++ leBytes 4 o.absent ++ leBytes 4 o.forced ++
    leBytes 4 o.iter ++ leBytes 8 o.misfit ++ leBytes 8 o.gap ++ leBytes 8 o.viol ++ List.replicate 8 0 ++
    f64Bytes (o.d2 ++ List.replicate (32 - o.d2.length) f0) ++ f64Bytes o.x ++ (if withU then f64Bytes o.u.flatten else [])

/-- The end of a step that computed: output block, hand-over, or the rows that a failed residue check leaves (rules R175,
R251, R252, R457, R482). `commit` writes the state block; a context that is being torn down commits nothing and hands nothing over (rule
R246). DEDUCED, assumption 37. -/
def State.estFinish (s : State) (h : Head) (u hu stamp src : Nat) (residue : Bool) (o : EstOut) (code rejected : Nat)
    (counts : Nat × Nat) (written : Nat) (commit : State → State) : Run :=
  let d := h.desc
  let lcn := fld (dw d 1) 0 24
  let step := (s.ctx h.c).step
  let out := o.bytes (eN d) stamp step true
  if residue then
    let s := s.putSome h.c u (eOut d) 64 (pieces (ceilDiv out.length 64) 64 out)
    { runRefuse cTEARDOWN ((s.tearDown h.c cTEARDOWN lcn).checkFail u src h.c) with code := cTEARDOWN }
  else
    let torn := (s.ctx h.c).tearing.isSome
    let hand := eHandEn d && !torn
    let s := (if torn then s else commit s).putBlock u (eOut d) h.c out
    let copy := if eHandU d then out else o.bytes (eN d) stamp step false
    let s := if hand then s.putBlock hu (eHand d) h.c copy else s
    { runEnd code s with
      w4 := counts.1, w5 := rejected, w6 := counts.2,
      bytes := (if torn then 0 else written) + out.length + (if hand then copy.length else 0),
      flits := if hand ∧ hu ≠ u then ceilDiv copy.length 64 else 0 }

/-- The words of a state block's first line. -/
def stateLine (n nw p fill : Nat) (step : DWord) (stamp : Nat) (consec : List Nat) : List Byte :=
  leBytes 4 (n + 64 + nw * 128 + (if nw = 0 then 0 else p - 1) * 2 ^ 14) ++ leBytes 4 fill ++ leBytes 8 step.toNat ++
    leBytes 4 stamp ++ List.replicate 12 0 ++ consec.flatMap (leBytes 1)

/-- EST_INIT (rule R239). LAST_STEP and LAST_STAMP stay: no step has committed. DEDUCED, assumption 37. -/
def State.estInit (s : State) (h : Head) (u hu src : Nat) (residue : Bool) : Run :=
  let d := h.desc
  let n := eN d
  let q := s.sramGet u (eIn d) (inputSize d 0) (some h.c)
  let old := q.2.2.sramGet u (eState d) 64 (some h.c)
  let x := f64s n (q.2.1.drop 64)
  let m := matOf n n (f64s (n * n) (q.2.1.drop (64 + 8 * n)))
  let good := (List.range n).all fun i =>
    ((m.getD i []).take i).all (fun v => fEq v f0) && fLt f0 (m.at_ i i)
  if q.1 ≠ cOK then runRefuse q.1 q.2.2
  else if old.1 ≠ cOK then runRefuse old.1 old.2.2
  else if !good || m.any (·.any (!fFinite ·)) then runRefuse cARG old.2.2
  else
    let line := stateLine n (eNw d) (eP d) 0 (BitVec.ofNat 64 (leNat ((old.2.1.drop 8).take 8)))
      (leNat ((old.2.1.drop 16).take 4)) (List.replicate 32 0)
    let block := line ++ f64Bytes x ++ f64Bytes (m.zipIdx.map fun r => List.replicate r.2 f0 ++ r.1.drop r.2).flatten
    let o : EstOut := { reverted := false, fallback := false, mhe := false, reject := 0, absent := 0, forced := 0, iter := 0,
                        misfit := f0, gap := f0, viol := f0, d2 := [], x := x,
                        u := m.zipIdx.map fun r => List.replicate r.2 f0 ++ r.1.drop r.2 }
    old.2.2.estFinish h u hu (wordAt q.2.1 0).toNat src residue o cOK 0 (0, 0) block.length fun s =>
      (s.putBlock u (eState d) h.c block).pardon u (eState d)

/-- The counters of a step on its lane page (rule R254). -/
def State.estCount (s : State) (u rejected forced : Nat) (reverted fallback : Bool) : State :=
  let a := (unitPage u).base + 0x300
  let s := ((s.bumpWrap a 1).bump (a + 4) rejected).bump (a + 8) forced
  let s := if reverted then s.bump (a + 0xC) 1 else s
  if fallback then (s.bump (a + 0x10) 1).intRaise (unitPage u) 0 else s

/-- The pieces of the input block of a step after its header, each with whether the step reads it (rule R239): x_pred and F as PREDICT
or the window needs them, Qd on and above its diagonal, and the data of present groups; the group table has been read. -/
def inputPieces (d : List Word) (predict : Bool) (gs : List Grp) : List (Nat × Bool) :=
  let n := eN d
  let mhe := eKind d == 3
  [(8 * n, predict), (8 * n * n, predict || mhe)] ++
    ((List.range n).flatMap fun i => [(8 * i, false), (8 * (n - i), predict)]) ++
    (if mhe then [(8 * (n * eP d + n + eNc d * (n + eP d + 2)), true)] else []) ++ [(16 * eG d, false)] ++
    gs.map fun g => (8 * g.m * (n + 1), g.present)

/-- The bytes of the state block of a step, whose groups have `m` rows: with its ring, whose parts in use count where the descriptor
does not give its size. DEDUCED, assumption 37. -/
def State.stateExtent (s : State) (u : Nat) (d : List Word) (m : Nat) : Nat :=
  let base := stateBase (eN d)
  let o := 2 ^ 24 * u + eState d
  let w0 := w32 (s.sram.nat o 4)
  let used := if s.sram.nat (o + 4) 4 % 128 = 0 then 0 else s.sram.nat (o + base + 4) 4
  if eKind d = 3 then stateSize d m else base + max used (fld w0 7 7 * sRec (eN d) (fld w0 14 5 + 1) m 0)

/-- SRIF_STEP and MHE_STEP (rules R236, R242–R252). DEDUCED, assumption 37. -/
def State.estStep (s : State) (q : Running) (u hu src : Nat) : Run :=
  let h := q.head
  let d := h.desc
  let n := eN d
  let p := eP d
  let mhe := eKind d == 3
  let c := h.c
  let head := s.sramGet u (eIn d) 64 (some c)
  let predict := bit (wordAt head.2.1 4) 0
  let tab := head.2.2.sramGet u (eIn d + groupsAt d) (16 * eG d) (some c)
  let gs := groupTable (eG d) tab.2.1
  let m := (gs.map (·.m)).sum
  let lost := s.blockLost u (eState d) (s.stateExtent u d m)
  let st := tab.2.2.sramGet u (eState d) (stateBase n) (some c)
  let w0 := wordAt st.2.1 0
  let fill := fld (wordAt st.2.1 4) 0 7
  let ring0 := st.2.2.sramGet u (eState d + stateBase n) (if mhe && fill != 0 then 8 else 0) (some c)
  let used := (wordAt ring0.2.1 4).toNat
  let inp := ring0.2.2.piecesGet u c (eIn d + 64) (inputPieces d predict gs)
  let ring := inp.2.2.sramGet u (eState d + stateBase n) (if mhe && fill != 0 then used else 0) (some c)
  if head.1 ≠ cOK then runRefuse head.1 head.2.2
  else if tab.1 ≠ cOK then runRefuse tab.1 tab.2.2
  else if 64 < m ∨ gs.any (fun g => g.m = 0 || 8 < g.m) then runRefuse cARG tab.2.2
  else if estBounds st.2.2.logicalLanes m d then runRefuse cBOUNDS tab.2.2
  else if lost then runRefuse cARG tab.2.2
  else if st.1 ≠ cOK then runRefuse st.1 st.2.2
  else if !bit w0 6 || fld w0 0 6 != n || (mhe && (fld w0 7 7 != eNw d || fld w0 14 5 + 1 != p)) then runRefuse cARG st.2.2
  else if ring0.1 ≠ cOK then runRefuse ring0.1 ring0.2.2
  else if inp.1 ≠ cOK then runRefuse inp.1 inp.2.2
  else if ring.1 ≠ cOK then runRefuse ring.1 ring.2.2
  else
    let bs := head.2.1 ++ inp.2.1
    let x := f64s n (st.2.1.drop 64)
    let um := matOf n n (f64s (n * n) (st.2.1.drop (64 + 8 * n)))
    let consec := ((st.2.1.drop 32).take 32).map BitVec.toNat
    let at_ := 64 + 8 * n
    let fl := f64s (n * n) (bs.drop at_)
    let gs := groupData n gs (bs.drop (groupsAt d + 16 * eG d))
    let step := srif n predict x (f64s n (bs.drop 64)) um (matOf n n fl) (matOf n n (f64s (n * n) (bs.drop (at_ + 8 * n * n)))) gs consec
    let run := step.run (0, 0)
    let r := run.1
    let stamp := (wordAt bs 0).toNat
    let rev := r.reverted
    let rejected := r.out.countP (· == .rejected)
    let forced := r.out.countP (· == .forced)
    let o : EstOut := { reverted := rev, fallback := false, mhe := false, reject := r.map .rejected, absent := r.map .absent,
                        forced := r.map .forced, iter := 0, misfit := r.misfit, gap := f0, viol := f0, d2 := r.d2,
                        x := if rev then x else r.x, u := if rev then um else r.u }
    let consec' := ((r.out.zip consec).map fun q => nextConsec q.1 q.2) ++ consec.drop r.out.length
    let block := fun fill => stateLine n (fld w0 7 7) (fld w0 14 5 + 1) fill (s.ctx c).step stamp consec' ++ f64Bytes r.x ++
      f64Bytes r.u.flatten
    let count := fun fb (s : State) => if q.residue then s else s.estCount u rejected forced rev fb
    let s := ring.2.2
    if rev then (count false s).estFinish h u hu stamp src q.residue o cOK rejected run.2 0 id
    else if !mhe then
      (count false s).estFinish h u hu stamp src q.residue o cOK rejected run.2 (stateBase n) fun s =>
        s.putBlock u (eState d) c (block fill)
    else
      let at2 := at_ + 16 * n * n
      let rec_ := sampleRecord d m r fl (f64s (n * p) (bs.drop at2)) (f64s n (bs.drop (at2 + 8 * n * p)))
        (f64s (eNc d * (n + p + 2)) (bs.drop (at2 + 8 * n * p + 8 * n)))
      let recs := ringFit (eNw d) (eNw d * sRec n p m (eNc d)) (ringRecords fill ring.2.1 ++ [rec_])
      let k := recs.length
      let store := fun (l : List (List Byte)) (s : State) =>
        s.putBlock u (eState d) c (block k ++ ringImage l)
      let bytes := stateBase n + (ringImage recs).length
      if k < 2 then
        (count false s).estFinish h u hu stamp src q.residue o cOK rejected run.2 bytes (store recs)
      else
        let lcn := fld (dw d 1) 0 24
        let cap := eCap d
        let dims : Dims := { n := n, m := p, stages := k - 1, nc := eNc d, ncT := eNc d, bx := 0, bu := 0 }
        let t := s.itersAllowed c lcn cap dims (dw d 11) q.start q.tc7
        let limit := if t.2.1 ∨ t.1 < cap then t.1 else cap + 1
        let gapMax := leNat ((bs.drop 8).take 8)
        let violMax := leNat ((bs.drop 16).take 8)
        let w := (windowSolve n p cap limit t.2.1 gapMax violMax (recs.map (sampleOf n p))).run run.2
        let v := w.1
        let good := fLe v.cert.gap gapMax && fLe v.cert.viol violMax
        let o := if good then { o with mhe := true, iter := v.iters, gap := v.cert.gap, viol := v.cert.viol, x := v.z.xAt (k - 1) }
          else { o with fallback := true }
        let code := if good then cOK else cDEADLINE_FALLBACK
        let s := if v.dl && !q.residue then t.2.2.logEntry c 4 code lcn 0 [w32 (v.iters + 256)] else t.2.2
        (count (!good) s).estFinish h u hu stamp src q.residue o code rejected w.2 bytes (store (ringKeep n recs v.z.x))

/-- An estimation descriptor runs on logical lane `l` (rules R183, R232–R236, R346); `src` is the SOURCE of a failing check. DEDUCED, assumption 37. -/
def State.estRun (s : State) (q : Running) (l src : Nat) : Run :=
  let h := q.head
  let x := s.ctx h.c
  let d := h.desc
  let u := s.unitOf true l
  let code := estCheck (gateInRange x) s.logicalLanes d
  let hu := if eHandEn d then s.unitOf true (eHandLane d) else (cOK, 0)
  if fld (dw d 1) 24 3 ≠ l ∨ s.waitsFree .solver d then runRefuse cARG s
  else if code ≠ cOK then runRefuse code s
  else if u.1 ≠ cOK then runRefuse u.1 s
  else if hu.1 ≠ cOK then runRefuse hu.1 s
  else if eHandEn d && !s.linked (unitNode u.2) (unitNode hu.2) then runRefuse cOFF_DOMAIN s
  else if eKind d = 1 then s.estInit h u.2 hu.2 src q.residue
  else s.estStep q u.2 hu.2 src

end Sys2Proof.Machine
end

