-- ==== Sys2Proof/Machine/Qp.lean ====
section
/-! DEFINITION. Machine/Qp.lean: the solve descriptors of the solver lanes, QP_SOLVE and PLAN_RESET (rules R255–R286). -/

namespace Sys2Proof.Machine

/-! Fields and sizes (rules R258, R261–R265). -/

def qM (d : List Word) : Nat := fld (dw d 0) 16 5
def qN (d : List Word) : Nat := fld (dw d 0) 24 8
def qProb (d : List Word) : Nat := fld (dw d 2) 0 20
def qWork (d : List Word) : Nat := fld (dw d 3) 0 20
def qOut (d : List Word) : Nat := fld (dw d 4) 0 20
def qX0 (d : List Word) : Nat := fld (dw d 5) 0 20
def qX0Direct (d : List Word) : Bool := bit (dw d 5) 20
def qNc (d : List Word) : Nat := fld (dw d 10) 0 7
def qNcT (d : List Word) : Nat := fld (dw d 10) 8 7
def qCap (d : List Word) : Nat := fld (dw d 10) 16 8
def qPlanEn (d : List Word) : Bool := bit (dw d 10) 28
def qProfile (d : List Word) : Nat := fld (dw d 10) 29 2
def qPlan (d : List Word) : Nat := fld (dw d 12) 0 20
def qBx (d : List Word) : Nat := countOnes 32 (dw d 13).toNat
def qBu (d : List Word) : Nat := countOnes 16 (dw d 14).toNat

/-- The copies of the dynamics, the cost and the constraints. -/
def qCopies (d : List Word) (i : Nat) : Nat := if bit (dw d 10) (24 + i) then qN d else 1

/-- The sides of a stage that have a place in the work block. -/
def qSides (d : List Word) : Nat := 2 * (max (qNc d) (qNcT d) + qBx d + qBu d)

def probSize (d : List Word) : Nat :=
  let n := eN d
  let m := qM d
  128 + 8 * (qCopies d 0 * (n * n + n * m + n) + qCopies d 1 * (n * n + n * m + m * m + n + m) + (n * n + n) +
    qCopies d 2 * (qNc d * (n + m + 4) + 2 * (n + m)) + qNcT d * (n + 4) + 2 * n)

def workSize (d : List Word) : Nat :=
  256 + 8 * (qN d + 1) * (5 * eN d + 3 * qM d + 8 * qSides d + eN d * eN d + eN d * qM d)

def solSize (d : List Word) : Nat := 128 + 8 * ((qN d + 1) * eN d + qN d * qM d)

/-- Where x̂ is read and the block it lies in (rule R258). -/
def x0At (d : List Word) : Nat := if qX0Direct d then qX0 d else qX0 d + 320
def x0Size (d : List Word) : Nat := (if qX0Direct d then 0 else 320) + 8 * eN d

/-- The blocks of a QP_SOLVE, with a plan map of `map` bytes. -/
def qBlocks (d : List Word) (map : Nat) : List (Nat × Nat) :=
  [(qProb d, probSize d), (qWork d, workSize d), (qOut d, solSize d), (qX0 d, x0Size d)] ++
    (if qPlanEn d then [(qPlan d, map)] else [])

/-- Whether two blocks of a list overlap. -/
def blocksMeet (l : List (Nat × Nat)) : Bool :=
  match l with
  | [] => false
  | a :: rest => rest.any (fun b => a.1 < b.1 + b.2 && b.1 < a.1 + a.2) || blocksMeet rest

/-! Checks (rules R258, R259). -/

/-- The conditions that refuse a QP_SOLVE with ARG at admission. DEDUCED, assumption 30. DEDUCED, assumption 38. -/
def qpArg (inRange : Nat → Bool) (d : List Word) : Bool :=
  let n := eN d
  let m := qM d
  let w := dw d 10
  fld (dw d 0) 5 3 != 0 || fld (dw d 0) 14 2 != 0 || fld (dw d 0) 21 3 != 0 || fld (dw d 1) 27 5 != 0 ||
  (List.range 3).any (fun i => fld (dw d (2 + i)) 20 12 != 0) || fld (dw d 5) 21 11 != 0 || bit w 7 || bit w 15 || bit w 31 ||
  fld (dw d 12) 20 12 != 0 || fld (dw d 14) 16 16 != 0 || dw d 15 != 0 || n == 0 || 32 < n || m == 0 || 16 < m ||
  qN d == 0 || 128 < qN d || 64 < qNc d || 64 < qNcT d || qCap d == 0 || 64 < qCap d || (!qPlanEn d && qPlan d != 0) ||
  (dw d 13).toNat / 2 ^ n != 0 || (dw d 14).toNat / 2 ^ m != 0 ||
  (qBlocks d 16).any (fun b => b.1 % 64 != 0) || blocksMeet (qBlocks d 16) || !gatesOk .solver inRange d

/-- Whether a block of a QP_SOLVE passes the end of lane memory. -/
def qpBounds (d : List Word) (map : Nat) : Bool := (qBlocks d map).any fun b => 0x100000 < b.1 + b.2

/-- The conditions that refuse a PLAN_RESET with ARG. -/
def resetArg (inRange : Nat → Bool) (d : List Word) : Bool :=
  (dw d 0).toNat / 32 != 0 || fld (dw d 1) 27 5 != 0 || dw d 2 != 0 || fld (dw d 3) 20 12 != 0 || dw d 4 != 0 || dw d 5 != 0 ||
  (List.range 6).any (fun i => dw d (10 + i) != 0) || qWork d % 64 != 0 || !gatesOk .solver inRange d

/-- The checks of a lane descriptor that depend only on it (rules R184, R236, R258, R259). -/
def laneCheck (inRange : Nat → Bool) (lanes : Nat) (d : List Word) : Nat :=
  let k := eKind d
  if 1 ≤ k ∧ k ≤ 3 then estCheck inRange lanes d
  else if k = 4 then (if qpArg inRange d then cARG else if qpBounds d 16 then cBOUNDS else cOK)
  else if k = 5 then (if resetArg inRange d then cARG else if 0x100000 < qWork d + 256 then cBOUNDS else cOK)
  else cARG

/-! The problem block (rules R257, R261). -/

/-- The sides of `k` general rows of `n` and `m` coefficients, from row `i` on. -/
def rowSides (n m : Nat) (i k : Nat) (l : List Nat) : List Side :=
  match k with
  | 0 => []
  | j + 1 =>
    let v := fun o => l.getD (n + m + o) f0
    sidePair (2 * i) (l.take n) ((l.drop n).take m) none (v 0) (v 1) (v 2) (v 3) ++
      rowSides n m (i + 1) j (l.drop (n + m + 4))

/-- The sides of the boxes that a mask selects, after `base` slots. -/
def boxSides (input : Bool) (mask base : Nat) (lo hi : List Nat) : List Side :=
  ((ones 32 mask).zipIdx.flatMap fun p =>
    sidePair (base + 2 * p.2) [] [] (some (input, p.1)) (lo.getD p.1 f0) (hi.getD p.1 f0) f0 f0)

/-- The problem in the problem block's data (rule R261). -/
def probOf (d : List Word) (l : List Nat) : Prob :=
  let n := eN d
  let m := qM d
  let nc := qNc d
  let bx := (dw d 13).toNat
  let bu := (dw d 14).toNat
  let big := max nc (qNcT d)
  let ds := n * n + n * m + n
  let cs := n * n + n * m + m * m + n + m
  let ks := nc * (n + m + 4) + 2 * (n + m)
  let at1 := qCopies d 0 * ds
  let at2 := at1 + qCopies d 1 * cs
  let at3 := at2 + n * n + n
  let at4 := at3 + qCopies d 2 * ks
  let pick := fun i k => if qCopies d i = 1 then 0 else k
  let part := fun o k => (l.drop o).take k
  let dyn := fun k => part (pick 0 k * ds) ds
  let costs := (List.range (qN d)).map fun k =>
    let p := part (at1 + pick 1 k * cs) cs
    { q := (matOf n n p).mirror n, s := matOf m n (p.drop (n * n)), r := (matOf m m (p.drop (n * n + n * m))).mirror m,
      ql := (p.drop (n * n + n * m + m * m)).take n, rl := (p.drop (n * n + n * m + m * m + n)).take m : Cost }
  let last : Cost := { q := (matOf n n (part at2 (n * n))).mirror n, s := [], r := [], ql := part (at2 + n * n) n, rl := [] }
  let stage := fun k =>
    let p := part (at3 + pick 2 k * ks) ks
    let box := p.drop (nc * (n + m + 4))
    rowSides n m 0 nc p ++ boxSides false bx (2 * big) (box.take n) ((box.drop n).take n) ++
      boxSides true bu (2 * big + 2 * qBx d) ((box.drop (2 * n)).take m) ((box.drop (2 * n + m)).take m)
  let term := l.drop at4
  let tbox := term.drop (qNcT d * (n + 4))
  { n := n, m := m, stages := qN d,
    a := (List.range (qN d)).map fun k => matOf n n (dyn k),
    b := (List.range (qN d)).map fun k => matOf n m ((dyn k).drop (n * n)),
    c := (List.range (qN d)).map fun k => ((dyn k).drop (n * n + n * m)).take n,
    cost := costs ++ [last],
    sides := (List.range (qN d)).map stage ++
      [rowSides n 0 0 (qNcT d) term ++ boxSides false bx (2 * big) (tbox.take n) ((tbox.drop n).take n)],
    free0 := false }

/-- The pieces of a symmetric matrix, read on and above its diagonal. -/
def upperPieces (n : Nat) : List (Nat × Bool) := (List.range n).flatMap fun i => [(8 * i, false), (8 * (n - i), true)]

/-- The pieces of box values, read where a mask selects them. -/
def boxPieces (n mask : Nat) : List (Nat × Bool) := (List.range n).map fun i => (8, nbit mask i)

/-- The pieces of the problem block after its header, each with whether the lane reads it (rule R261). -/
def probPieces (d : List Word) : List (Nat × Bool) :=
  let n := eN d
  let m := qM d
  let bx := (dw d 13).toNat
  let bu := (dw d 14).toNat
  let copies := fun i (l : List (Nat × Bool)) => (List.replicate (qCopies d i) l).flatten
  [(8 * qCopies d 0 * (n * n + n * m + n), true)] ++
    copies 1 (upperPieces n ++ [(8 * n * m, true)] ++ upperPieces m ++ [(8 * (n + m), true)]) ++ upperPieces n ++ [(8 * n, true)] ++
    copies 2 ((8 * qNc d * (n + m + 4), true) :: boxPieces n bx ++ boxPieces n bx ++ boxPieces m bu ++ boxPieces m bu) ++
    [(8 * qNcT d * (n + 4), true)] ++ boxPieces n bx ++ boxPieces n bx

/-- The tests of a QP_SOLVE: the tolerances EPS_P, EPS_D and EPS_GAP, and the thresholds GAP_MAX, VIOL_MAX, RES_MAX and SOFT_MAX of its
profile (rules R270, R272). -/
def qpTests (tol th : List Nat) : Tests :=
  { tol := fun c => [(c.resP, tol.getD 0 f0), (c.resD, tol.getD 1 f0), (c.gap, tol.getD 2 f0)]
    merit := fun c => [(c.viol, th.getD 1 f0), (c.gap, th.getD 0 f0), (c.resD, th.getD 2 f0), (c.soft, th.getD 3 f0)] }

/-! The work block (rule R263), in the model's own arrangement: a 256-byte header, the accepted plan after it, and the last
returned iterate at the end of the block. Its words: 0 flags (1 returned, 2 accepted), 1 T0 of the returned iterate, 2 N, n
and m, 3 NC and NC_T, 4 BOX_X, 5 BOX_U, 6 T0 of the accepted plan, 7 its DT, 8 its N, n and m, 9 consecutive fallbacks. An accepted
plan for which a smaller problem's iterate leaves no room moves to the lane's own store (flag 4). DESIGN CHOICE, assumption 11. -/

def dimsWord (d : List Word) : Nat := qN d + eN d * 256 + qM d * 65536
def rowsWord (d : List Word) : Nat := qNc d + qNcT d * 256

/-- The bytes of an iterate in the work block: x, u and π, then t, λ, s, η and a presence mark for each slot of each stage. DEDUCED, assumption 38. -/
def iterSize (d : List Word) : Nat := 8 * ((qN d + 1) * eN d + qN d * (qM d + eN d) + (qN d + 1) * 5 * qSides d)

/-- The slots of a stage. -/
def slotValues (n : Nat) (l : List (Side × Pair)) : List Nat :=
  (List.range n).flatMap fun i =>
    match l.find? fun q => q.1.slot == i with
    | some q => [q.2.t, q.2.l, q.2.s, q.2.e, if q.1.soft then 2 else 1]
    | none => [f0, f0, f0, f0, 0]

/-- The values of an iterate as the work block holds them. -/
def Prob.stored (p : Prob) (d : List Word) (z : Iter) : List Nat :=
  z.x.flatten ++ z.u.flatten ++ z.p.flatten ++ (p.sides.zip z.v).flatMap fun r => slotValues (qSides d) (r.1.zip r.2)

/-- A warm start from stored values shifted by `sw` stages (rule R267); none where a value of the stored iterate is not
finite. -/
def Prob.warm (p : Prob) (d : List Word) (x0 st : List Nat) (sw wmin : Nat) : Option Iter :=
  let n := p.n
  let m := p.m
  let big := p.stages
  let nx := (big + 1) * n
  let nu := big * m
  let np := big * n
  let sl := qSides d
  let slot := fun k i o => st.getD (nx + nu + np + (k * sl + i) * 5 + o) f0
  let held := (st.take (nx + nu + np)).all fFinite && (List.range (big + 1)).all fun k => (List.range sl).all fun i =>
    let c := slot k i 4
    c == 0 || (fFinite (slot k i 0) && fFinite (slot k i 1) && (c == 1 || (fFinite (slot k i 2) && fFinite (slot k i 3))))
  if !held then none
  else
    let up := fun v => fMax v wmin
    let xk := fun k => (st.drop (min (k + sw) big * n)).take n
    let at_ := fun k => if k = big then big else min (k + sw) (big - 1)
    some {
      x := (List.range (big + 1)).map fun k => if k = 0 then x0 else xk k
      u := (List.range big).map fun k => (st.drop (nx + min (k + sw) (big - 1) * m)).take m
      p := (List.range big).map fun k => (st.drop (nx + nu + min (k + sw) (big - 1) * n)).take n
      v := p.sides.zipIdx.map fun r => r.1.map fun s =>
        let c := slot (at_ r.2) s.slot 4
        let get := fun o => if c = 0 ∨ (c = 1 ∧ 2 ≤ o)
          then Config.absentSide ((at_ r.2 * sl + s.slot) * 4 + o) % 2 ^ 64 else slot (at_ r.2) s.slot o
        { t := up (get 0), l := up (get 1), s := up (get 2), e := up (get 3) } }

/-! The plan (rules R262, R276, R277). -/

/-- An entry of the plan map. -/
structure PlanEntry where
  chan : Nat
  spIdx : Nat
  spEn : Bool
  ffIdx : Nat
  ffEn : Bool
  spShift : Nat
  ffShift : Nat
  spScale : Nat
  ffScale : Nat
  zeros : Bool

/-- The entries of a plan map after its header. -/
def planEntries (k : Nat) (bs : List Byte) : List PlanEntry :=
  match k with
  | 0 => []
  | j + 1 =>
    let w := bytesWords 8 bs
    let a := dw w 0
    let b := dw w 1
    { chan := fld a 0 5, spIdx := fld a 8 5, spEn := bit a 13, ffIdx := fld a 16 4, ffEn := bit a 20, spShift := fld a 24 5,
      ffShift := fld b 0 5, spScale := leNat ((bs.drop 8).take 8), ffScale := leNat ((bs.drop 16).take 8),
      zeros := fld a 5 3 == 0 && fld a 14 2 == 0 && fld a 21 3 == 0 && fld a 29 3 == 0 && fld b 5 27 == 0 && dw w 6 == 0 && dw w 7 == 0 } ::
      planEntries j (bs.drop 32)

/-- Whether the plan map is refused with ARG (rules R259, R262). -/
def State.planBad (s : State) (d : List Word) (head : List Word) (es : List PlanEntry) : Bool :=
  let h := fld (dw head 0) 8 5
  fld (dw head 0) 6 2 != 0 || fld (dw head 0) 13 19 != 0 || (List.range 3).any (fun i => dw head (1 + i) != 0) ||
  32 < es.length || h == 0 || 16 < h || qN d < h || es.any (fun e => !e.zeros || eN d ≤ e.spIdx || qM d ≤ e.ffIdx ||
    !s.grade.loops.getLsbD e.chan) || !(es.map (·.chan)).Nodup

/-- A plan value: one rounded product, then Q32 with RNE and SAT (rule R277), with its mark. -/
def planValue (v scale shift : Nat) : Nat × Mark := finish .q32 shift .rne false false (fv (fMul v scale).value).exact

/-- The values of a plan for an entry: `x` and `u` are the trajectory, `s` the shift in stages (rules R276, R277). -/
def PlanEntry.values (e : PlanEntry) (x u : Mat) (s h : Nat) : List (Nat × Mark) × List (Nat × Mark) :=
  let pick := fun (m : Mat) k i => (m.getD (min k (m.length - 1)) []).getD i f0
  ((if e.spEn then (List.range h).map fun i => planValue (pick x (i + 1 + s) e.spIdx) e.spScale e.spShift else []),
   (if e.ffEn then (List.range h).map fun i => planValue (pick u (i + s) e.ffIdx) e.ffScale e.ffShift else []))

/-! The commands (rules R275–R280). -/

/-- The thresholds of an acceptance profile on a lane page: GAP_MAX, VIOL_MAX, RES_MAX and SOFT_MAX (rule R286). -/
def State.profile (s : State) (u k : Nat) : List Nat :=
  (List.range 4).map fun i =>
    let a := (unitPage u).base + 0x200 + 0x20 * k + 8 * i
    (s.reg a).toNat + 2 ^ 32 * (s.reg (a + 4)).toNat

/-- Acceptance, but for REQ_CONV (rule R275). -/
def Cert.accepted (c : Cert) (th : List Nat) : FpM Bool := do
  let b ← meetsAll ((qpTests [] th).merit c)
  return c.finite && b

/-- A range of lane memory is a block written whole: no row of it counts as lost. -/
def State.blockFound (s : State) (u ofs n : Nat) : State :=
  { s with rowLost := s.rowLost.filter fun k => !rowIn u ofs n k }

/-- PLAN_RESET (rules R260, R280): the work block is empty, unless the context is being torn down. -/
def State.planReset (s : State) (h : Head) (u src : Nat) (residue : Bool) : Run :=
  let lcn := fld (dw h.desc 1) 0 24
  if residue then
    { runRefuse cTEARDOWN ((s.tearDown h.c cTEARDOWN lcn).checkFail u src h.c) with code := cTEARDOWN }
  else if (s.ctx h.c).tearing.isSome then runEnd cOK s
  else { runEnd cOK (s.putBlock u (qWork h.desc) h.c (List.replicate 256 0)) with bytes := 256 }

/-- The events and counters of a finished solve on its lane page (rules R278, R286). -/
def State.solveCount (s : State) (u : Nat) (v : Solve) (acc : Bool) (consec : Nat) : State :=
  let p := unitPage u
  let a := p.base
  let s := s.bumpWrap (a + 0x100) 1
  let s := if acc then s.bumpWrap (a + 0x104) 1 else (s.bump (a + 0x108) 1).intRaise p 0
  let s := if v.dl then (s.bump (a + 0x10C) 1).intRaise p 2 else s
  let s := if v.fact then (s.bump (a + 0x110) 1).intRaise p 3 else s
  let s := s.setReg (a + 0x114) (w32 (min 255 consec))
  let lim := s.rf (a + 0x118) 0 8
  if !acc ∧ lim ≠ 0 ∧ consec % lim = 0 then s.intRaise p 1 else s

/-- The plan to write: its channels' values, T0 and DT. -/
structure Applied where
  x : Mat
  u : Mat
  shift : Nat
  t0 : Nat
  dt : Nat

/-- Plan values in entry order. -/
def planMarks (es : List PlanEntry) (h : Nat) (p : Applied) : List Mark :=
  es.flatMap fun e => ((e.values p.x p.u p.shift h).1 ++ (e.values p.x p.u p.shift h).2).map (·.2)

/-- The plan is written to each mapped channel in entry order, unless the context replays (rules R277, R364). DEDUCED, assumption 38. -/
def State.writePlan (s : State) (c h : Nat) (es : List PlanEntry) (p : Applied) (seq : Word) (fb : Bool) : State :=
  if s.rpMode c = 2 ∨ s.domain 30 ≠ 2 then s
  else
    es.foldl (fun s e =>
      let v := e.values p.x p.u p.shift h
      s.planArrives e.chan { sp := v.1.map fun q => w32 q.1, ff := v.2.map fun q => w32 q.1, h := h, t0 := w32 p.t0, dt := w32 p.dt,
                             seq := seq, fb := fb, spEn := e.spEn, ffEn := e.ffEn }) s

/-- The FP64 work of a solve: the start, the loop, and acceptance (rules R267–R275). -/
def solveRun (d : List Word) (p : Prob) (x0 tol th : List Nat) (warm : Option Iter) (cap time : Nat) (forced : Bool) : FpM (Solve × Bool) := do
  let z ← match warm with
    | some z => pure z
    | none => p.coldStart (List.replicate (qN d + 1) x0)
  let v ← p.solve (qpTests tol th) cap time forced z
  let acc ← v.cert.accepted th
  return (v, acc)

/-- The work block after a solve that commits: the returned iterate, and the accepted plan, new or kept (rules R263, R276). The words of
`wh` are those it held. -/
def State.commitWork (s : State) (d wh : List Word) (u c t0 dt : Nat) (p : Prob) (z : Iter) (acc : Bool) : State :=
  let k := 2 ^ 20 * u + qWork d
  let ow := (dw wh 8).toNat
  let len := (ow % 256 + 1) * (ow / 256 % 256) + ow % 256 * (ow / 65536)
  let room := workSize d - iterSize d
  let kept := !acc && bit (dw wh 0) 1
  let stored := kept && (bit (dw wh 0) 2 || room < 256 + 8 * len)
  let plans := if stored then (if bit (dw wh 0) 2 then s.plans else Cells.put [] s.plans k (f64s len (s.sram.bytes (2 ^ 24 * u + qWork d + 256) (8 * len))))
    else Cells.put [] s.plans k []
  let fallbacks := if acc then 0 else (dw wh 9).toNat + 1
  let accWords := if acc then [t0, dt, dimsWord d] else [(dw wh 6).toNat, (dw wh 7).toNat, ow]
  let head := (1 + (acc || kept).toNat * 2 + stored.toNat * 4) :: t0 :: dimsWord d :: rowsWord d :: (dw d 13).toNat ::
    (dw d 14).toNat :: accWords ++ [fallbacks]
  let s := { s with plans := plans }
  let s := s.putBlock u (qWork d) c (head.flatMap (leBytes 4) ++ List.replicate (256 - 4 * head.length) 0)
  let s := if acc then s.putBlock u (qWork d + 256) c (f64Bytes (z.x.flatten ++ z.u.flatten)) else s
  let s := s.putBlock u (qWork d + room) c (f64Bytes (p.stored d z))
  s.blockFound u (qWork d) (workSize d)

/-- A solve computes and finishes (rules R266–R280). `hdr` is the problem header, `es` the plan map with H_OUT `hOut`,
`work` the work block or zeros where it counts as empty. A context that is being torn down writes no plan and commits nothing. -/
def State.solve (s : State) (q : Running) (u src : Nat) (hdr : List Byte) (vals x0 : List Nat) (work : List Byte)
    (es : List PlanEntry) (hOut : Nat) : Run :=
  let h := q.head
  let d := h.desc
  let c := h.c
  let torn := (s.ctx c).tearing.isSome
  let lcn := fld (dw d 1) 0 24
  let p := probOf d vals
  let t0 := (wordAt hdr 4).toNat
  let dt := (wordAt hdr 8).toNat
  let th := s.profile u (qProfile d)
  let wh := bytesWords 16 work
  let same := bit (dw wh 0) 0 && (dw wh 2).toNat == dimsWord d && (dw wh 3).toNat == rowsWord d && dw wh 4 == dw d 13 && dw wh 5 == dw d 14
  let sw := (t0 + 2 ^ 32 - (dw wh 1).toNat) % 2 ^ 32 / dt
  let st := f64s (iterSize d / 8) (work.drop (workSize d - iterSize d))
  let warm := if bit (dw d 10) 27 && same && sw < qN d then p.warm d x0 st sw (leNat ((hdr.drop 56).take 8)) else none
  let dims : Dims := { n := eN d, m := qM d, stages := qN d, nc := qNc d, ncT := qNcT d, bx := qBx d, bu := qBu d }
  let time := s.itersAllowed c lcn (qCap d) dims (dw d 11) q.start q.tc7
  let s := time.2.2
  let limit := if time.2.1 ∨ time.1 < qCap d then time.1 else qCap d + 1
  let run := (solveRun d p x0 (f64s 3 (hdr.drop 32)) th warm (qCap d) limit time.2.1).run (0, 0)
  let v := run.1.1
  let acc := run.1.2 && (!bit (s.reg ((unitPage u).base + 0x280)) (qProfile d) || v.conv)
  let ndim := (qN d + 1) * eN d
  let accOk := bit (dw wh 0) 1 && (dw wh 8).toNat == dimsWord d
  let old := if bit (dw wh 0) 2 then Cells.get [] s.plans (2 ^ 20 * u + qWork d) else f64s (ndim + qN d * qM d) (work.drop 256)
  let dtAcc := (dw wh 7).toNat
  let shift := (t0 + 2 ^ 32 - (dw wh 6).toNat) % 2 ^ 32 / dtAcc
  let plan : Option Applied :=
    if acc then some { x := v.z.x, u := v.z.u, shift := 0, t0 := t0, dt := dt }
    else if accOk then some { x := matOf (qN d + 1) (eN d) old, u := matOf (qN d) (qM d) (old.drop ndim), shift := shift,
                              t0 := ((dw wh 6).toNat + shift * dtAcc) % 2 ^ 32, dt := dtAcc }
    else none
  let write := if qPlanEn d && !q.residue && !torn then plan else none
  let a := (unitPage u).base
  let seq := if write.isSome then s.reg (a + 0x11C) + 1 else s.reg (a + 0x11C)
  let word0 := acc.toNat + (!acc).toNat * 2 + (!acc && !accOk).toNat * 4 + v.conv.toNat * 8 + v.cap.toNat * 16 +
    v.dl.toNat * 32 + warm.isSome.toNat * 64 + v.fact.toNat * 128 + v.iters * 256 + v.bestAt * 65536 + qProfile d * 2 ^ 24
  let traj := (List.range (qN d + 1)).flatMap fun k => v.z.xAt k ++ v.z.uAt k
  let out := leBytes 4 word0 ++ hdr.take 4 ++ leBytes 8 (s.ctx c).step.toNat ++ leBytes 4 ((write.map (·.t0)).getD 0) ++
    leBytes 4 (if !acc ∧ accOk then shift else 0) ++ leBytes 4 seq.toNat ++ leBytes 4 0 ++
    f64Bytes [v.cert.gap, v.cert.viol, v.cert.resD, v.cert.soft, v.cert.cost] ++ List.replicate 56 0 ++ f64Bytes traj
  if q.residue then
    let s := s.putSome c u (qOut d) 64 (pieces (ceilDiv out.length 64) 64 out)
    { runRefuse cTEARDOWN ((s.tearDown c cTEARDOWN lcn).checkFail u src c) with code := cTEARDOWN }
  else
    let s := s.putBlock u (qOut d) c out
    let s := if torn then s else s.commitWork d wh u c t0 dt p v.z acc
    let marks := (write.map (planMarks es hOut)).getD []
    let s := match write with
      | some pl => (s.setReg (a + 0x11C) seq).writePlan c hOut es pl seq (!acc)
      | none => s
    let s := s.solveCount u v acc (if acc then 0 else (dw wh 9).toNat + (!torn).toNat)
    let code := if acc then cOK else cDEADLINE_FALLBACK
    let s := if v.dl then s.logEntry c 4 code lcn 0 [w32 v.iters] else s
    { runEnd code s with
      w4 := run.2.1 + marks.countP (· == .sat), w6 := run.2.2 + marks.countP (· == .invalid),
      w5 := v.iters + v.bestAt * 256 + v.dl.toNat * 2 ^ 16 + v.conv.toNat * 2 ^ 17 + warm.isSome.toNat * 2 ^ 18 + v.fact.toNat * 2 ^ 19,
      bytes := out.length }

/-- Whether a problem header is refused (rule R261). -/
def headerBad (hdr : List Byte) : Bool :=
  let v := fun o => leNat ((hdr.drop o).take 8)
  wordAt hdr 8 == 0 || ((hdr.drop 12).take 20).any (· != 0) || ((hdr.drop 64).take 64).any (· != 0) ||
  !fLe f0 (v 32) || !fLe f0 (v 40) || !fLe f0 (v 48) || !fLt f0 (v 56)

/-- QP_SOLVE reads its blocks, checks header and plan map again, and solves (rules R259–R263). DESIGN CHOICE, assumption 11. -/
def State.qpSolve (s : State) (q : Running) (u src : Nat) : Run :=
  let d := q.head.desc
  let c := some q.head.c
  let hdr := s.sramGet u (qProb d) 128 c
  let mh := hdr.2.2.sramGet u (qPlan d) (if qPlanEn d then 16 else 0) c
  let mw := bytesWords 4 mh.2.1
  let len := if qPlanEn d then fld (dw mw 0) 0 6 else 0
  let ents := mh.2.2.sramGet u (qPlan d + 16) (min (32 * len) (0x100000 - qPlan d - 16)) c
  let es := planEntries len ents.2.1
  let x0 := ents.2.2.sramGet u (x0At d) (8 * eN d) c
  let prob := x0.2.2.piecesGet u q.head.c (qProb d + 128) (probPieces d)
  let lost := s.blockLost u (qWork d) (workSize d)
  let work := if lost then (cOK, [], prob.2.2) else prob.2.2.sramGet u (qWork d) (workSize d) c
  if hdr.1 ≠ cOK then runRefuse hdr.1 hdr.2.2
  else if headerBad hdr.2.1 then runRefuse cARG hdr.2.2
  else if mh.1 ≠ cOK then runRefuse mh.1 mh.2.2
  else if qPlanEn d && (32 < len || blocksMeet (qBlocks d (16 + 32 * len))) then runRefuse cARG mh.2.2
  else if qpBounds d (16 + 32 * len) then runRefuse cBOUNDS mh.2.2
  else if ents.1 ≠ cOK then runRefuse ents.1 ents.2.2
  else if qPlanEn d && s.planBad d mw es then runRefuse cARG ents.2.2
  else if x0.1 ≠ cOK then runRefuse x0.1 x0.2.2
  else if prob.1 ≠ cOK then runRefuse prob.1 prob.2.2
  else if work.1 ≠ cOK then runRefuse work.1 work.2.2
  else
    work.2.2.solve q u src hdr.2.1 (f64s ((probSize d - 128) / 8) prob.2.1) (f64s (eN d) x0.2.1) work.2.1 es
      (fld (dw mw 0) 8 5)

/-- A solve descriptor runs on logical lane `l` (rules R183, R232, R259, R346). -/
def State.qpRun (s : State) (q : Running) (l src : Nat) : Run :=
  let h := q.head
  let x := s.ctx h.c
  let d := h.desc
  let u := s.unitOf true l
  let code := laneCheck (gateInRange x) s.logicalLanes d
  if fld (dw d 1) 24 3 ≠ l ∨ s.waitsFree .solver d then runRefuse cARG s
  else if code ≠ cOK then runRefuse code s
  else if u.1 ≠ cOK then runRefuse u.1 s
  else if eKind d = 5 then s.planReset h u.2 src q.residue
  else s.qpSolve q u.2 src

end Sys2Proof.Machine
end

