-- ==== Sys2Proof/Machine/Wcet.lean ====
section
/-! DEFINITION. Machine/Wcet.lean: the WCET of a context declaration as the management controller recomputes it at admission (rules
R28, R167, R173, R182, R187, R202, R203, R229, R253, R282, R338). Times are in ps. -/

namespace Sys2Proof.Machine

/-- The floor rate of a performance level, in M waves/s (rule R26). -/
def levelFloor (l : Nat) : Nat := [350, 450, 620, 820, 1000].getD l 350

/-- The time of `w` waves at a rate in M waves/s, in ps. -/
def wavesPs (rate w : Nat) : Nat := ceilDiv (w * 1000000) rate

/-- L_m in ps and the sustained bound on eight channels in MB/s, by MC_CFG.SPEED (rule R203). -/
def memTerms (speed : Nat) : Nat × Nat := [(800000, 123000), (690000, 164000), (650000, 184500), (620000, 205000)].getD speed (800000, 123000)

/-- What declaration `i` of an image is compiled for: the share lies within the sustained bound of the channels in service (rules R167,
R173, R203, R215, R334). The share and the transfers in flight are read from the slot table in a way the manual does not fix. DESIGN
CHOICE, assumption 12. -/
def compiledFor (i : Nat) (img : List Byte) : Compiled :=
  let w := wordAt img 4
  let key := i :: img.map BitVec.toNat
  let t := memTerms (fld w 23 4)
  { rate := levelFloor (fld w 20 3), lm := t.1, share := max 1 (min (Config.share key) (t.2 * fld w 27 4 / 8)),
    inFlight := max 1 (Config.inFlight key) }

/-- The canal term of a transfer of `n` bytes (rule R167). -/
def Compiled.canal (k : Compiled) (n : Nat) : Nat := wavesPs k.rate ((ceilDiv n 64 + 1) * k.inFlight + 58)

/-- The memory's term of `n` bytes at the share. -/
def Compiled.stream (k : Compiled) (n : Nat) : Nat := ceilDiv (n * 1000000) k.share

/-- The term of `n` bytes that pass between LPDDR6 and a unit of the canal (rules R173, R182). DEDUCED, assumption 12. -/
def Compiled.load (k : Compiled) (n : Nat) : Nat := k.lm + max (k.stream n) (k.canal n)

/-! Waves of solver descriptors (rules R253, R282). -/

/-- T_solve. -/
def Dims.solveWaves (q : Dims) (cap : Nat) : Nat :=
  let pk := 2 * (q.nc + q.bx + q.bu)
  let pn := 2 * (q.ncT + q.bx)
  let v := q.stages * (2 * q.n + q.m + 4 * pk) + (2 * q.n + 4 * pn)
  let setup := 256 + ceilDiv v 16 + q.stages * ceilDiv (q.nc * (q.n + q.m)) 32 + ceilDiv (q.ncT * q.n) 32
  4096 + setup + cap * q.iterWaves + q.certWaves

/-- The dimensions of a QP_SOLVE. -/
def qpDims (d : List Word) : Dims := { n := eN d, m := qM d, stages := qN d, nc := qNc d, ncT := qNcT d, bx := qBx d, bu := qBu d }

/-- The dimensions of an MHE_STEP's window solve over `k` samples (rule R282). -/
def mheDims (d : List Word) (k : Nat) : Dims := { n := eN d, m := eP d, stages := k - 1, nc := eNc d, ncT := eNc d, bx := 0, bu := 0 }

/-- W of the filter part of an estimation step, at the most rows that its groups can have (rules R236, R253). DEDUCED, assumption 12. -/
def srifWaves (d : List Word) : Nat :=
  let n := eN d
  let full := min (eG d) 8
  400 + 160 * n + 120 * eG d + ceilDiv (6 * n * n * n + 2 * (8 * full) * n * n + 4 * (512 * full)) 32

/-- W and D of a solver descriptor: a plan write is taken at its longest, and a PLAN_RESET as T_fixed. DEDUCED, assumption 12. -/
def solverWaves (d : List Word) : Nat × Nat :=
  let k := eKind d
  if k = 1 then (64 + ceilDiv (eN d * eN d + eN d) 8, 32)
  else if k = 2 then (srifWaves d, 32)
  else if k = 3 then (srifWaves d + (mheDims d (eNw d)).solveWaves (eCap d), 32)
  else if k = 4 then ((qpDims d).solveWaves (qCap d) + (if qPlanEn d then 1344 else 64), 32)
  else (4096, 32)

/-! The terms of one command. -/

/-- W and D of a descriptor of a class (rules R186, R187, R202, R221). RING_LATEST, whose bytes are known only when it runs, counts at
the bound of rule R188. DEDUCED, assumption 12. -/
def EngClass.waves (k : EngClass) (d : List Word) : Nat × Nat :=
  let op := fld (dw d 0) 0 8
  match k with
  | .pump => (16, 0)
  | .solver => solverWaves d
  | .map => (mapWaves op (tM d) (tN d), 32)
  | _ => if op = 0x39 then (9888, 32) else tileWaves op d

/-- The memory and canal terms of a tile's operands: an LPDDR6 operand is a load, and a tile of another basin a transfer. -/
def tileTransfers (k : Compiled) (exec : Nat) (d : List Word) : Nat :=
  ((tileShapes (fld (dw d 0) 0 8) d).map fun x =>
    let r := tRef d x.1
    if nbit r 31 then k.load (x.2.1 * x.2.2) else if nfld r 24 4 = exec then 0 else k.canal (x.2.1 * x.2.2)).sum

/-- The memory and canal terms of a pump descriptor: a COPY or ZERO is one transfer and a COPY_2D one for each row (rule R202). -/
def pumpTransfers (k : Compiled) (d : List Word) : Nat := pRows d * k.load (pLen d)

/-- The LPDDR6 term of a map command (rule R229), with the canal terms of its operands and results. -/
def mapTransfers (k : Compiled) (d : List Word) : Nat :=
  let op := fld (dw d 0) 0 8
  let m := tM d
  let z := mapSizes op
  let x := if op = 0x62 then m * tN d else m
  let grid := if op = 0x63 then k.lm + k.stream (4096 * m + 64)
    else 2 * k.lm * ceilDiv x 64 + k.stream (x * (if op = 0x61 then 320 else 384))
  grid + ([16, z.1 * m, z.2.1 * m, z.2.2 * m].map fun n => if n = 0 then 0 else k.canal n).sum

/-- The canal term of an estimate's hand-over, or the loop-domain crossing of a plan: 3 waves at the loop floor (rules R37, R253,
R282). -/
def solverTransfers (k : Compiled) (d : List Word) : Nat :=
  if eKind d = 4 then (if qPlanEn d then wavesPs 820 3 else 0) else if eHandEn d then k.canal (handSize d) else 0

/-- The memory, canal and crossing terms of a command of an engine code. -/
def transfers (k : Compiled) (code : Nat) (d : List Word) : Nat :=
  match listClass code with
  | .pump => pumpTransfers k d
  | .map => mapTransfers k d
  | .solver => solverTransfers k d
  | _ => tileTransfers k (code % 16) d

/-! The path. -/

/-- A command of an invocation: its list, its place there, its gates, its term when the next of its list follows and its drain. -/
structure PathCmd where
  list : Nat
  place : Nat
  waits : List Nat
  signals : List Nat
  own : Nat
  drain : Nat

/-- The commands of a declaration. -/
def pathCmds (k : Compiled) (x : Ctx) : List PathCmd :=
  x.lists.zipIdx.flatMap fun l => l.1.descs.zipIdx.map fun d =>
    let c := listClass l.1.code
    let w := c.waves d.1
    { list := l.2, place := d.2, waits := (gatesAt d.1 c.waitAt).map (·.1), signals := (gatesAt d.1 c.sigAt).map (·.1),
      own := wavesPs k.rate w.1 + transfers k l.1.code d.1, drain := wavesPs k.rate w.2 }

/-- How long after the start of `p` a command `q` can start because of it, if it has to wait for it: W for the next of its list, W + D
for one that waits on its gate (rule R187). -/
def PathCmd.before (p q : PathCmd) : Option Nat :=
  if q.waits.any p.signals.contains then some (p.own + p.drain)
  else if p.list = q.list ∧ p.place + 1 = q.place then some p.own else none

/-- The latest starts of commands over paths of at most `n` steps. -/
def pathStarts (l : List PathCmd) (n : Nat) : List Nat :=
  match n with
  | 0 => l.map fun _ => 0
  | k + 1 =>
    let t := pathStarts l k
    l.map fun q => (l.zip t).foldl (fun m p => match p.1.before q with
      | some w => max m (p.2 + w)
      | none => m) 0

/-- The sum of terms 1 to 3 over the longest path, by the order of the lists and by the gates. DEDUCED, assumption 12. -/
def longestPath (l : List PathCmd) : Nat :=
  (l.zip (pathStarts l l.length)).foldl (fun m p => max m (p.2 + p.1.own + p.1.drain)) 0

/-- The WCET in ns of declaration `i` of an image, whose context is `x`: the longest path, once for each member of a continuous context,
with the interleaving terms of the slot table, which the manual does not fix (rules R28, R335, R340). DESIGN CHOICE, assumption 12. -/
def wcetOf (i : Nat) (img : List Byte) (x : Ctx) : Nat :=
  let path := longestPath (pathCmds (compiledFor i img) x)
  ceilDiv (path * (if x.batch then x.members else 1)) 1000 + Config.interleave (i :: img.map BitVec.toNat)

end Sys2Proof.Machine
end

