-- ==== Sys2Proof/Machine/Service.lean ====
section
/-! DEFINITION. Machine/Service.lean: watchdogs, failures of the canal, the pumps and the plan links in service, the words that
the repair map derives, and checkpoints (rules R168–R170, R175, R285, R368, R448, R457, R482). -/

namespace Sys2Proof.Machine

/-! The command watchdog (rules R175, R482). -/

/-- The command that an engine of a unit runs has taken `waves` of the unit's wave-rate monitor. Past four times its worst-case wave count
its context is torn down and the unit is retired, which cuts the command. DEDUCED, assumption 64. -/
def State.watchdog (s : State) (vector : Bool) (u waves : Nat) : State :=
  let l := s.logicalOf u
  let e := if u < 18 then (if vector then 0x10 + l else l) else 0x40 + l
  if fld (s.rm (unitWord u)) 0 2 ≠ 1 then s
  else
    match s.running e with
    | none => s
    | some q =>
      let k : EngClass := if u < 18 then (if vector then .vector else .tile) else .solver
      let worst := k.waves q.head.desc
      if waves ≤ 4 * (worst.1 + worst.2) then s
      else (s.tearDown q.head.c cTEARDOWN (k.lcn q.head.desc)).checkFail u 4 q.head.c

/-! Pumps (rules R451, R456, R457). -/

/-- The RUNNING contexts with a list on an engine. -/
def State.naming (s : State) (eng : Nat → Bool) : List Nat :=
  (s.live.filter fun p => p.2.lists.any fun l => eng l.code).map (·.1)

/-- Contexts are torn down with DEGRADED (rules R349, R450). -/
def State.tearAll (s : State) (cs : List Nat) : State := cs.foldl (fun s c => s.tearDown c cDEGRADED 0xFFFFFF) s

/-- Pump `p` is retired. -/
def State.losePump (s : State) (p : Nat) : State :=
  if s.head.pumpsLost.contains p then s
  else
    let s := s.tearAll (s.naming fun e => e = 0x20 + p)
    let s := { s with head := { s.head with pumpsLost := s.head.pumpsLost ++ [p] } }
    let s := s.cutOn (· == 0x20 + p)
    (s.lastCode .pumps cDEGRADED).faultEvent .pumps 1 cDEGRADED 0 0xFF 0 0

/-- The worst-case term of a pump descriptor in ps, at what its context is compiled for (rules R28, R202). DEDUCED, assumption 64. -/
def Compiled.pumpTerm (k : Compiled) (d : List Word) : Nat := wavesPs k.rate (EngClass.pump.waves d).1 + pumpTransfers k d

/-- PUMP_WATCHDOG: the descriptor that pump `p` runs has taken `time` ns. Past four times its worst-case term its context is torn down
and the pump is retired, which cuts the descriptor. DEDUCED, assumption 64. -/
def State.pumpDog (s : State) (p time : Nat) : State :=
  match s.running (0x20 + p) with
  | none => s
  | some q =>
    if 1000 * time ≤ 4 * (s.ctx q.head.c).compiled.pumpTerm q.head.desc then s
    else (s.tearDown q.head.c cTEARDOWN (EngClass.pump.lcn q.head.desc)).losePump p

/-! The canal (rules R161, R168–R170). -/

/-- The unit at a canal node: a basin or a lane by its number, if it holds one. -/
def nodeUnit (n : Nat) : Option Nat :=
  if n = 0 ∨ n = 10 ∨ n = 11 then none else if n < 10 then some (n - 1) else some (n - 3)

/-- The page of the unit at a canal node. DEDUCED, assumption 31. -/
def nodePage (n : Nat) : Page :=
  match nodeUnit n with
  | some u => unitPage u
  | none => if n = 10 then .gmap else .pumps

/-- The grid map unit is lost (rules R450, R456). -/
def State.loseMap (s : State) : State :=
  if s.head.mapLost then s
  else
    let s := s.tearAll (s.naming fun e => e = 0x48)
    { s with head := { s.head with mapLost := true } }.cutOn (· == 0x48)

/-- CANAL_PORT_FAIL: the node's bypass closes, and its unit is lost to service (rules R168, R169, R451, R482). DEDUCED, assumption 31. -/
def State.portFail (s : State) (n : Nat) : State :=
  if bit (s.rm (nodeWord n)) 0 then s
  else
    let s := s.setRm (nodeWord n) (setBit (s.rm (nodeWord n)) 0 true)
    let s := s.errCapture (nodePage n) cDEGRADED 5 0xFF 0
    let s := (s.lastCode (nodePage n) cDEGRADED).pageEvent (nodePage n) 1 cDEGRADED 0xFF 0
    match nodeUnit n with
    | some u => s.retireUnit u cDEGRADED 5
    | none =>
      if n = 10 then s.loseMap
      else ((List.range 32).filter fun p => pumpNode p == n).foldl State.losePump s

/-- CANAL_LINK_FAIL: the link that leaves a node in one direction fails, and the ring folds (rules R170, R448). DEDUCED, assumption 31. -/
def State.linkFail (s : State) (n : Nat) (d : RingDir) : State :=
  let i := if d = .cw then 1 else 2
  if bit (s.rm (nodeWord n)) i then s
  else (s.setRm (nodeWord n) (setBit (s.rm (nodeWord n)) i true)).pageEvent (nodePage n) 1 cDEGRADED 0xFF 0

/-- PLAN_LINK_FAIL: a plan link's handshake does not complete, and its lane is retired (rules R285, R482). -/
def State.planLinkFail (s : State) (l : Nat) : State :=
  let u := 18 + l
  if fld (s.rm (unitWord u)) 0 2 ≠ 1 then s
  else ((s.errCapture (unitPage u) cDEGRADED 6 0xFF 0).retireUnit u cDEGRADED 6)

/-! Words of the repair map that others decide (rule R448). -/

/-- Word 93: the LPDDR6 channels retired and the count of those in service. -/
def State.rmWord93 (s : State) : Word :=
  w32 ((List.range 8).foldl (fun a k => if s.chanRetired k then a + 2 ^ k else a) 0 + s.chans.length * 256)

/-- Word `i` of the repair map other than its CRC. -/
def State.rmPlain (s : State) (i : Nat) : Word := if i = 93 then s.rmWord93 else s.rm i

/-- The CRC-32C over words 2–8,191. -/
def State.rmCrc (s : State) : Word := w32 (crc32c (wordBytes ((List.range 8190).map fun i => s.rmPlain (i + 2))))

/-- Word `i` of the repair map as RM_DATA reads it. The cell of word 1 is 0 while the CRC checks, and else the bits in which the
word differs from the CRC. -/
def State.rmRead (s : State) (i : Nat) : Word := if i = 1 then s.rmCrc ^^^ s.rm 1 else s.rmPlain i

/-! Checkpoints (rule R368). -/

/-- A map of cells with the range of `n` keys from `dst` replaced by the range of another map from `src`. -/
def Cells.paste {α : Type} (m w : Cells α) (src dst n : Nat) : Cells α :=
  m.filter (fun p => p.1 < dst) ++ ((w.filter fun p => src ≤ p.1 && p.1 < src + n).map fun p => (p.1 - src + dst, p.2)) ++
    m.filter (fun p => dst + n ≤ p.1)

/-- The bad lines of a range of LPDDR6 are read in ascending order until one fails: the bytes before the failing line. -/
def State.linesGood (s : State) (lines : List Nat) (a n : Nat) : Nat × State :=
  match lines with
  | [] => (n, s)
  | l :: rest =>
    let q := s.readLine l none false
    if q.1 then (64 * l - a, q.2) else q.2.linesGood rest a n

/-- The lines in error of a range of LPDDR6. -/
def State.badLines (s : State) (a n : Nat) : List Nat :=
  (s.dramBad.filter fun p => a / 64 ≤ p.1 && p.1 < (a + n) / 64).map (·.1)

/-- The words in error of a range of a lane's memory, read in ascending order until one fails. -/
def State.wordsGood (s : State) (u ofs n : Nat) (ws : List (Nat × Nat)) : Nat × State :=
  match ws with
  | [] => (n, s)
  | w :: rest =>
    let q := s.readWords u [w] none
    if q.1 then ((w.1 - 2 ^ 21 * u) * 8 / 64 * 64 - ofs, q.2) else q.2.wordsGood u ofs n rest

/-- Bytes copied into LPDDR6: whole lines, which are clean; residency tags of loads from them go (rule R160). DESIGN CHOICE, assumption 32. -/
def State.ckToDram (s : State) (m : Mem) (src a n : Nat) : State :=
  let s := s.dropTags fun t => !(t.src < a + n && a < t.src + t.size)
  { s with dram := Cells.paste s.dram m src a n, dramBad := Cells.clear s.dramBad (a / 64) (n / 64) }

/-- Bytes copied into a lane's memory: whole rows. DESIGN CHOICE, assumption 32. -/
def State.ckToLane (s : State) (u ofs a n : Nat) : State :=
  { s with sram := Cells.paste s.sram s.dram a (2 ^ 24 * u + ofs) n,
           sramBad := Cells.clear s.sramBad (2 ^ 21 * u + ofs / 8) (n / 8),
           rowLost := s.rowLost.filter fun k => !(k / 2 ^ 18 == u && ofs ≤ (k % 2 ^ 18) * 64 && (k % 2 ^ 18) * 64 < ofs + n) }

/-- OCCUPIED and TOMBS are counted anew from the entries of the map region (rules R219, R368). -/
def State.mapRecount (s : State) : State :=
  let base := s.mapBase
  let flags := (s.dram.filter fun p => base ≤ p.1 && p.1 < base + 2 ^ 27 && (p.1 - base) % 32 == 11).map (·.2.toNat)
  let occ := flags.countP fun f => nbit f 0
  let tomb := flags.countP fun f => !nbit f 0 && nbit f 1
  (s.setReg 0x64110 (w32 occ)).setReg 0x64114 (w32 tomb)

/-- A checkpoint copy: its code and the state after it (rules R215, R368, R437). DESIGN CHOICE, assumption 32. -/
def State.ckCopy (s : State) (restore : Bool) : Nat × State :=
  let t := s.rf 0x10340 0 4
  let a := s.rf 0x10350 0 4 * 2 ^ 32 + (s.reg 0x1034C).toNat
  let isMap := t = 8
  let n := if isMap then 2 ^ 27 else (s.reg 0x10348).toNat
  let ofs := (s.reg 0x10344).toNat
  let u := s.unitOf true t
  if s.chans = [] ∨ s.mcOff ∨ s.domain 2 ≠ 2 then (cOFF_DOMAIN, s)
  else if isMap then
    let src := if restore then a else s.mapBase
    let dst := if restore then s.mapBase else a
    let g := s.linesGood (s.badLines src n) src n
    let s := g.2.ckToDram g.2.dram src dst g.1
    (if g.1 = n then cOK else cECC_FAIL, if restore then s.mapRecount else s)
  else if u.1 ≠ cOK then (u.1, s)
  else if restore then
    let g := s.linesGood (s.badLines a n) a n
    (if g.1 = n then cOK else cECC_FAIL, g.2.ckToLane u.2 ofs a g.1)
  else
    let g := s.wordsGood u.2 ofs n (s.badWords u.2 ofs n)
    (if g.1 = n then cOK else cECC_FAIL, g.2.ckToDram s.sram (2 ^ 24 * u.2 + ofs) a g.1)

/-- Whether a checkpoint command is refused (rules R218, R368). A range in the enabled map region breaks its bounds (DESIGN CHOICE, assumption
53). -/
def State.ckRefused (s : State) : Bool :=
  let t := s.rf 0x10340 0 4
  let a := s.rf 0x10350 0 4 * 2 ^ 32 + (s.reg 0x1034C).toNat
  let n := (s.reg 0x10348).toNat
  let ofs := (s.reg 0x10344).toNat
  s.head.ctxs.any (fun p => p.2.state == .running || p.2.pend.isSome) || s.ckBusy ||
  (if t = 8 then bit (s.reg 0x64108) 0 || s.memTop < s.mapBase + 2 ^ 27 || s.memTop < a + 2 ^ 27
   else s.logicalLanes ≤ t || ofs % 64 != 0 || n % 64 != 0 || n < 64 || 0x100000 < ofs + n || s.memTop < a + n || s.inMap a n)

/-- A write of CK_CMD (rule R368). The copy's effect comes with its start; BUSY holds until it completes. DESIGN CHOICE, assumption 32. -/
def State.writeCkCmd (s : State) (v : Word) : Nat × State :=
  if fld v 0 2 = 0 then (cOK, s)
  else if fld v 0 2 = 3 ∨ s.ckRefused then (cARG, s)
  else
    let q := s.ckCopy (bit v 1)
    let s := { q.2 with head := { q.2.head with ck := some q.1 } }
    (cOK, s.setRf 0x10358 0 1 1)

/-- CHECKPOINT_DONE: BUSY falls and CODE holds the copy's status; starts held go on as pending ones. DESIGN CHOICE, assumption 32. -/
def State.ckDone (s : State) : State :=
  match s.head.ck with
  | none => s
  | some code => { (s.setReg 0x10358 (w32 (code * 256))).lastCode .headgate code with head := { s.head with ck := none } }

end Sys2Proof.Machine
end

