-- ==== Sys2Proof/Machine/Run.lean ====
section
/-! DEFINITION. Machine/Run.lean: how a command of an engine starts, ends or is cut, and the end of every command of the block (rules
R164, R176, R185, R246, R280, R328, R457). -/

namespace Sys2Proof.Machine

/-- The class of an engine code. -/
def classOf (e : Nat) : EngClass := (engClass e).getD .tile

/-- The page of the unit that runs a command on engine `e`. -/
def enginePage (e phys : Nat) : Page :=
  if e < 0x20 then unitPage phys else if e < 0x40 then .pumps else if e < 0x48 then unitPage (18 + phys) else .gmap

/-- The unit, pump or lane that a command on engine `e` takes, as its record names it. -/
def State.enginePhys (s : State) (e : Nat) : Nat :=
  if e < 0x20 then (s.unitOf false (e % 16)).2 else if e < 0x40 then e - 0x20
  else if e < 0x48 then (s.unitOf true (e - 0x40)).2 - 18 else 0

/-- What the command `q` on engine `e` does at its end. -/
def State.runOf (s : State) (e : Nat) (q : Running) : Run :=
  match classOf e with
  | .tile | .vector => s.tileRun q (classOf e) (e % 16)
  | .pump => s.pumpRun q.head (e - 0x20)
  | .solver => if eKind q.head.desc < 4 then s.estRun q (e - 0x40) 2 else s.qpRun q (e - 0x40) 2
  | .map => s.mapRun q

/-- The command on engine `e` comes to its end. DESIGN CHOICE, assumption 28. -/
def State.finish (s : State) (e : Nat) : State :=
  match s.running e with
  | none => s
  | some q => State.endRun e (classOf e) (enginePage e q.phys) q ((s.setRunning e none).runOf e q)

/-- Whether the command on engine `e` waits for a transfer to a fenced basin (rule R176). -/
def State.waitsFence (s : State) (e : Nat) (q : Running) : Bool :=
  let d := q.head.desc
  let pl := placeFn (s.ctx q.head.c)
  match classOf e with
  | .tile | .vector => (tileRefs (fld (dw d 0) 0 8)).any fun i => s.refWaits pl (tRef d i)
  | .pump => s.pumpWaits q.head
  | .solver => false
  | .map => (List.range 4).any fun i => tRef d i != 0 && s.refWaits pl (tRef d i)

/-- Whether the command on engine `e` addresses a canal transfer to a logical basin, or to a logical lane by its hand-over (rules R164,
R425). -/
def State.runNames (s : State) (e : Nat) (q : Running) (lane : Bool) (logical : Nat) : Bool :=
  let d := q.head.desc
  let x := s.ctx q.head.c
  let here := fun r : Nat => !lane && !nbit r 31 && placeFn x (nfld r 24 4) == logical
  match classOf e with
  | .tile | .vector => (tileRefs (fld (dw d 0) 0 8)).any fun i => here (tRef d i)
  | .map => (List.range 4).any fun i => tRef d i != 0 && here (tRef d i)
  | .pump => !lane && [pSrcWin d, pDstWin d].any fun n =>
      (Cells.get none x.bound (n + q.head.member * x.wpm)).any fun w => w.basin == some logical
  | .solver => lane && eKind d < 3 && eHandEn d && eHandLane d == logical

/-- Whether some running command addresses a transfer to a logical unit. -/
def State.namedByRun (s : State) (lane : Bool) (logical : Nat) : Bool :=
  s.head.running.any fun p => p.2.any fun q => s.runNames p.1 q lane logical

/-- Whether the checkpoint copy in progress addresses unit `u` (rule R368). -/
def State.ckAddresses (s : State) (u : Nat) : Bool :=
  let t := s.rf 0x10340 0 4
  s.ckBusy && t != 8 && (s.unitOf true t).2 == u

/-- Whether the command on engine `e` ends now. -/
def State.endsNow (s : State) (e : Nat) : Bool :=
  match s.running e with
  | none => false
  | some q => decide (q.start + q.dur ≤ s.now 7) && !s.waitsFence e q

/-- The commands whose end has come, in the order of the engine codes. DESIGN CHOICE, assumption 28. -/
def State.endDue (s : State) : State :=
  (List.range 0x49).foldl (fun s e => if s.endsNow e then s.finish e else s) s

/-- Flits are resent at the ports of basins: RESENDS of each and the CANAL event of its page (rules R168, R180). DEDUCED, assumption 31. -/
def State.resent (s : State) (l : List (Fin 18 × BitVec 16)) : State :=
  l.foldl (fun s p =>
    let a := Page.base (.basin p.1.val) + 0x11C
    if p.2 = 0 ∨ s.domain (3 + p.1.val) ≠ 2 then s
    else (s.setRf a 0 16 (satAdd 0xFFFF (s.rf a 0 16) p.2.toNat)).intRaise (.basin p.1.val) 6) s

/-- Engine `e` has started the head `h`, and the flits that were resent meanwhile have counted (rules R168, R185). -/
def State.engineStart (s : State) (e : Nat) (h : Head) (env : LaneEnv) (order : List Bool) : State :=
  (s.launch e (classOf e) (s.enginePhys e) h env order).resent env.resends

/-- Engine `e` takes the head that stands next, if that has opcode or KIND `op`, and ends it at once where its duration is 0.
DESIGN CHOICE, assumption 28. -/
def State.runEngine (s : State) (e op : Nat) (env : LaneEnv) (order : List Bool) : State :=
  let k := classOf e
  match s.pickHead e with
  | none => s
  | some h =>
    if (if k = .pump ∨ k = .solver then fld (dw h.desc 0) 0 4 else fld (dw h.desc 0) 0 8) ≠ op then s
    else
      let t := s.engineStart e h env order
      if t.endsNow e then t.finish e else t

/-- What the outside decides of a command without deadline checks. -/
def laneEnv (e : RunEnv) : LaneEnv := { dur := e.dur, residue := e.residue, resends := e.resends, tc7 := [] }

/-- A command of basin `b`, on its array or its vector unit. -/
def State.runTile (s : State) (op : Nat) (b : Fin 16) (env : RunEnv) : State :=
  s.runEngine (if op < 0x10 then b.val else 0x10 + b.val) op (laneEnv env) []

/-- A command of a pump. -/
def State.runPump (s : State) (kind : Nat) (p : Fin 32) (env : RunEnv) : State := s.runEngine (0x20 + p.val) kind (laneEnv env) []

/-- A command of the grid map unit. -/
def State.runMap (s : State) (op : Nat) (env : RunEnv) (order : List Bool) : State := s.runEngine 0x48 op (laneEnv env) order

/-- A descriptor of a solver lane. -/
def State.runLane (s : State) (kind : Nat) (l : Fin 8) (env : LaneEnv) : State := s.runEngine (0x40 + l.val) kind env []

/-! Commands cut by the retirement of their unit (rule R457). -/

/-- The block as the command on engine `e` found it before its unit was lost, without errors in its memories. -/
def State.intact (s : State) (e : Nat) (q : Running) : State :=
  let s := { s with sramBad := [], dramBad := [], foldDue := [],
                    head := { s.head with pumpsLost := [], mapLost := false, fenced := [] } }
  let node := if e < 0x20 then unitNode q.phys else if e < 0x40 then pumpNode q.phys else mapNode
  let s := s.setRm (nodeWord node) (setBit (s.rm (nodeWord node)) 0 false)
  if e < 0x20 then (s.setRm (unitWord q.phys) (w32 (1 + e % 16 * 256))).setDomain (unitDomain q.phys) 2 else s

/-- The 64-byte rows in which two memories differ, in ascending order. -/
def rowsDiffer (a b : Mem) : List Nat :=
  let rows := ((a.filter fun p => !b.contains p) ++ b.filter fun p => !a.contains p).map fun p => p.1 / 64
  rows.eraseDups.mergeSort (· ≤ ·)

/-- A memory with some of the rows of `new` in place of its own, as the silicon leaves them. -/
def mixRows (m new : Mem) (rows : List Nat) (ctr : Nat) : Mem × Nat :=
  match rows with
  | [] => (m, ctr)
  | r :: rest => mixRows (if Config.freeBit ctr then Cells.paste m new (64 * r) (64 * r) 64 else m) new rest (ctr + 1)

/-- What the cut command of engine `e` leaves in its result range: each 64-byte row old or new (rule R457). A lane commits nothing (rules
R246, R280). DESIGN CHOICE, assumption 6. -/
def State.cutRows (s : State) (e : Nat) (q : Running) : State :=
  if classOf e = .solver then s
  else
    let r := (s.intact e q).runOf e { q with residue := false }
    let a := mixRows s.sram r.s.sram (rowsDiffer s.sram r.s.sram) s.freeCtr
    let b := mixRows s.dram r.s.dram (rowsDiffer s.dram r.s.dram) a.2
    { s with sram := a.1, dram := b.1, freeCtr := b.2 }

/-- A cut command ends with CODE TEARDOWN and BYTES 0, and its context is torn down. -/
def State.endCut (s : State) (e : Nat) : State :=
  match s.running e with
  | none => s
  | some q =>
    if q.cut then
      State.endRun e (classOf e) (enginePage e q.phys) q (runRefuse cTEARDOWN ((s.setRunning e none).cutRows e q))
    else s

/-- Every cut command ends, in the order of the engine codes. -/
def State.endCuts (s : State) : State :=
  if s.head.running.any fun p => p.2.any (·.cut) then (List.range 0x49).foldl State.endCut s else s

/-- The end of every command of the block: cut commands end, due folds follow, then what the rules R50, R381 and R420 derive. DEDUCED,
assumption 46. DESIGN CHOICE, assumption 50. -/
def State.done (s : State) : State := s.endCuts.foldAll.noteBelow.settle

end Sys2Proof.Machine
end

