-- ==== Sys2Proof/Machine/TimeBase.lean ====
section
/-! DEFINITION. Machine/TimeBase.lean: the time counters, their corrections and captures, PPS, and the slot table (rules
R95–R116). What a firing slot does to other blocks stands in Machine/SlotFire.lean. -/

namespace Sys2Proof.Machine

/-- One addition to a counter: `add` is a 32.32 number of nanoseconds (rule R95, tc_tick). -/
def Tc.advance (c : Tc) (add : Nat) : Tc :=
  let v := c.ns.toNat * 2 ^ 32 + c.frac.toNat + add
  let ns := v / 2 ^ 32
  if 1000000000 ≤ ns then
    { c with sec := c.sec + 1, ns := BitVec.ofNat 30 (ns - 1000000000), frac := w32 v }
  else { c with ns := BitVec.ofNat 30 ns, frac := w32 v }

/-- A counter with its committed step added to its total time, the fraction unchanged (rule R100). DEDUCED, assumption 45. -/
def Tc.applyStep (c : Tc) (stamp : Word) : Tc :=
  match c.step with
  | none => c
  | some d =>
    let t := ((c.total : Int) + d).toNat
    { c with sec := BitVec.ofNat 48 (t / 1000000000), ns := BitVec.ofNat 30 (t % 1000000000),
             step := none, lstepAt := stamp }

/-- One tick of a counter: the committed step, then the addend, `k` times over (rules R95, R100). -/
def Tc.tick (c : Tc) (k : Nat) (stamp : Word) : Tc :=
  (c.applyStep stamp).advance (k * c.addend.toNat)

/-- Whether the timing clock is stopped: in S3, until the oscillator step of the exit's management domain, with whose
supply the timing PLL comes back and locks (rules R96, R435). DEDUCED, assumption 45. -/
def State.timingStopped (s : State) : Bool :=
  s.rf 0x3104 0 2 == 3 && (s.domain 1 == 0 || (s.domain 1 == 1 && Cells.get 0 s.power.steps 1 < 3))

/-- The ns of a tick: 2, and 40 while the reference alone runs (rule R96). -/
def State.tickNs (s : State) : Nat := if s.timingStopped then 40 else 2

/-- The range of a counter's addend (rules R99, R101). -/
def addendOk (n addend : Nat) : Bool :=
  if n < 6 then 0x100000000 ≤ addend && addend ≤ 0x300000000
  else 0x1FFBE76C9 ≤ addend && addend ≤ 0x200418937

/-- The address of a counter's register group (rule R109). -/
def tcGroup (n : Nat) : Nat := 0x1100 + 0x20 * n

/-- A pending half: present flag and value, held per requester (rule R103). -/
def State.half (s : State) (r : Requester) (a : Nat) : Option Word :=
  if s.own r (a + 0x100000) = 0 then none else some (s.own r a)

/-- The state with a pending half written or dropped. -/
def State.setHalf (s : State) (r : Requester) (a : Nat) (v : Option Word) : State :=
  match v with
  | none => (s.setOwn r a 0).setOwn r (a + 0x100000) 0
  | some w => (s.setOwn r a w).setOwn r (a + 0x100000) 1

/-- Whether a requester may correct a counter: TC6 and TC7 belong to the management controller (rule R101). -/
def mayCorrect (r : Requester) (n : Nat) : Bool := n < 6 || r == .mgmt

/-- A write of ADD_FRAC: held pending (rules R99, R103). -/
def State.writeAddFrac (s : State) (r : Requester) (n : Nat) (v : Word) : Nat × State :=
  if mayCorrect r n then (cOK, s.setHalf r (tcGroup n + 4) (some v))
  else (cARG, s.intRaise .time 3)

/-- A write of ADD_INT: commits the addend with the requester's pending fraction, or with the fraction in force (rules
R99, R101, R103). DEDUCED, assumption 45. -/
def State.writeAddInt (s : State) (r : Requester) (n : Nat) (v : Word) : Nat × State :=
  if !mayCorrect r n then (cARG, s.intRaise .time 3)
  else
    let c := s.tc n
    let frac := match s.half r (tcGroup n + 4) with
      | some f => f.toNat
      | none => c.addend.toNat % 2 ^ 32
    let addend := fld v 0 8 * 2 ^ 32 + frac
    let s := s.setHalf r (tcGroup n + 4) none
    if addendOk n addend then (cOK, s.setTc n { c with addend := BitVec.ofNat 64 addend })
    else (cARG, s.intRaise .time 3)

/-- A write of STEP_LO: held pending (rules R100, R103). -/
def State.writeStepLo (s : State) (r : Requester) (n : Nat) (v : Word) : Nat × State :=
  if mayCorrect r n then (cOK, s.setHalf r (tcGroup n + 0xC) (some v))
  else (cARG, s.intRaise .time 3)

/-- A write of STEP_HI: commits the step (rules R100, R101, R103). -/
def State.writeStepHi (s : State) (r : Requester) (n : Nat) (v : Word) : Nat × State :=
  if !mayCorrect r n then (cARG, s.intRaise .time 3)
  else
    let c := s.tc n
    let lo := match s.half r (tcGroup n + 0xC) with
      | some f => f.toNat
      | none => 0
    let w := v.toNat * 2 ^ 32 + lo
    let d := sext 64 w
    let s := s.setHalf r (tcGroup n + 0xC) none
    let t := (c.total : Int) + c.step.getD 0 + d
    if (6 ≤ n ∧ c.spent) ∨ t < 0 ∨ (2 ^ 48 * 1000000000 : Int) ≤ t then (cARG, s.intRaise .time 3)
    else
      let c := { c with step := some (c.step.getD 0 + d), last := BitVec.ofNat 64 w,
                        steps := BitVec.ofNat 8 (satAdd 255 c.steps.toNat 1), spent := decide (6 ≤ n) }
      (cOK, (s.setTc n c).intRaise .time 2)

/-- A read of a counter's group (rule R109). -/
def State.readTc (s : State) (n off : Nat) : Word :=
  let c := s.tc n
  match off with
  | 0x00 => w32 c.total
  | 0x04 => w32 c.addend.toNat
  | 0x08 => w32 (c.addend.toNat / 2 ^ 32)
  | 0x0C => w32 c.last.toNat
  | 0x10 => w32 (c.last.toNat / 2 ^ 32)
  | 0x14 => w32 (c.steps.toNat + (!c.spent).toNat * 256)
  | 0x18 => c.lstepAt
  | _ => 0

/-- A capture of all eight counters (rule R104). -/
def State.capture (s : State) : State :=
  let s := (List.range 8).foldl (fun s n =>
    let c := s.tc n
    let a := 0x1210 + 0x10 * n
    (((s.setReg a (w32 c.ns.toNat)).setReg (a + 4) (w32 c.sec.toNat)).setReg (a + 8)
      (w32 (c.sec.toNat / 2 ^ 32))).setReg (a + 12) c.frac) s
  s.bumpWrap 0x1204 1

/-- A rising edge of the PPS input (rule R108). -/
def State.ppsEdge (s : State) : State :=
  if !bit (s.reg 0x12A0) 3 then s
  else
    let early := match s.time.ppsAt with
      | some t => decide (s.time.ns - t < 100000)
      | none => false
    if early then s.bumpFld 0x12B0 24 8
    else
      let c := s.tc (s.rf 0x12A0 0 3)
      let s := s.setReg 0x12A4 (w32 c.ns.toNat)
      let s := s.setReg 0x12A8 (w32 c.sec.toNat)
      let s := s.setReg 0x12AC (w32 (c.sec.toNat / 2 ^ 32))
      let s := s.setRf 0x12B0 0 24 (s.rf 0x12B0 0 24 + 1)
      let s := { s with time := { s.time with ppsAt := some s.time.ns } }
      s.intRaise .time 0

/-- The servo corrects counter `n` (rules R101, R105): TC0–TC5 by a step where the offset exceeds STEP_LIMIT, and else by the addend, with
the management controller's writes. DEDUCED, assumption 45. -/
def State.servoCorrect (s : State) (n : Nat) (off : Int) (addend : BitVec 64) : State :=
  if n < 6 ∧ (s.reg 0x12E8).toNat < off.natAbs then
    let d := BitVec.ofInt 64 (-off)
    ((s.writeStepLo .mgmt n (w32 d.toNat)).2.writeStepHi .mgmt n (w32 (d.toNat / 2 ^ 32))).2
  else ((s.writeAddFrac .mgmt n (w32 addend.toNat)).2.writeAddInt .mgmt n (w32 (addend.toNat / 2 ^ 32))).2

/-- What the servo does about its master (rules R105, R109): at a loss or a change of master HOLDOVER is set, LOCKED falls, and no addend
or value of a counter changes; CHANGES counts the changes. A master acquired locks it again, and it corrects the counters that SERVO_MAP
selects. DEDUCED, assumption 45. -/
def State.masterEvent (s : State) (e : MasterEvent) : State :=
  match e with
  | .lost => s.setRf 0x12E4 0 2 2
  | .changed => (s.setRf 0x12E4 0 2 2).bumpFld 0x12E4 8 8
  | .acquired l =>
    (l.zipIdx.filter fun p => p.2 < 8 && bit (s.reg 0x12E0) p.2).foldl (fun s p => s.servoCorrect p.2 p.1.1 p.1.2) (s.setRf 0x12E4 0 2 1)

/-! The slot table (rules R110–R116). -/

/-- The word of slot `k` at index `w`; CFG's TC field resets to 7. -/
def slotInit (i : Nat) : Word := if i % 16 = 0 then 0x70 else 0

def State.slotW (s : State) (k w : Nat) : Word := Cells.get (slotInit w) s.time.slots (16 * k + w)

def State.setSlotW (s : State) (k w : Nat) (v : Word) : State :=
  { s with time := { s.time with slots := Cells.put (slotInit w) s.time.slots (16 * k + w) v } }

/-- Whether slot `k` is armed. -/
def State.slotArmed (s : State) (k : Nat) : Bool := bit (s.slotW k 0) 0

/-- The target of slot `k` as a total time (rule R110). -/
def State.slotTarget (s : State) (k : Nat) : Nat :=
  (fld (s.slotW k 3) 0 16 * 2 ^ 32 + (s.slotW k 2).toNat) * 1000000000 + (s.slotW k 1).toNat

/-- The state with the target of slot `k` set. -/
def State.setSlotTarget (s : State) (k t : Nat) : State :=
  let sec := t / 1000000000
  ((s.setSlotW k 1 (w32 (t % 1000000000))).setSlotW k 2 (w32 sec)).setSlotW k 3 (w32 (sec / 2 ^ 32 % 65536))

/-- Whether slot `k` is armed and its counter has reached its target (rule R110). DEDUCED, assumption 45. -/
def State.slotDue (s : State) (k : Nat) : Bool :=
  s.slotArmed k && s.slotTarget k ≤ s.now (fld (s.slotW k 0) 4 3)

/-- Whether arming refuses what the window holds: an ACTION code without a row (rule R111), or a PERIOD below 64 ns of a
periodic slot (rule R113). -/
def slotBad (cfg period : Word) : Bool := 6 ≤ fld cfg 1 3 || (bit cfg 7 && period.toNat < 64)

/-- A write of CFG of slot `k` (rule R116). Arming clears FIRES and SKIPPED, which count since then,
and a target already reached makes the next firing late (rule R112; word 11 holds that mark). A disarm on the tick of a firing
is held until after it (rule R114). -/
def State.writeSlotCfg (s : State) (k : Nat) (v : Word) : Nat × State :=
  let cfg := v &&& 0x3FF
  if s.slotArmed k then
    if bit v 0 then (cARG, s)
    else if s.time.firing.contains k then (cOK, { s with time := { s.time with disarm := Cells.put none s.time.disarm k (some cfg) } })
    else (cOK, s.setSlotW k 0 cfg)
  else if bit v 0 then
    if slotBad cfg (s.slotW k 4) then (cARG, s)
    else
      let late := decide (s.slotTarget k ≤ s.now (fld cfg 4 3))
      let s := (s.setSlotW k 0 cfg).setSlotW k 7 (w32 (fld (s.slotW k 7) 0 8))
      (cOK, (s.setSlotW k 9 0).setSlotW k 11 (w32 late.toNat))
  else (cOK, s.setSlotW k 0 cfg)

/-- A write of a window register of slot `k` other than CFG: word `w` is 1–6 (rule R116). -/
def State.writeSlotW (s : State) (k w : Nat) (v : Word) : Nat × State :=
  if s.slotArmed k then (cARG, s)
  else if w = 1 then
    if 999999999 < fld v 0 30 then (cARG, s) else (cOK, s.setSlotW k 1 (v &&& 0x3FFFFFFF))
  else if w = 3 then (cOK, s.setSlotW k 3 (v &&& 0xFFFF))
  else (cOK, s.setSlotW k w v)

/-- The word w of ARMED (rule R116). -/
def State.armedWord (s : State) (w : Nat) : Word := wordOf fun j => s.slotArmed (32 * w + j)

/-- The end of a firing (rules R112, R113, R116): the record, the late flags and the re-arming. `code` is what the
action returned. -/
def State.slotRecord (s : State) (k code : Nat) : State :=
  let cfg := s.slotW k 0
  let now := s.now (fld cfg 4 3)
  let target := s.slotTarget k
  let isLate := bit (s.slotW k 11) 0
  let s := (s.setSlotW k 10 s.stamp).setSlotW k 11 0
  let rc := if code ≠ 0 then code else if isLate then cLATE else cOK
  let fires := satAdd 0xFFFFFF (fld (s.slotW k 7) 8 24) 1
  let s := s.setSlotW k 7 (w32 (rc + fires * 256))
  let s := if isLate then
      let s := s.setSlotW k 8 (w32 (Nat.min 0xFFFFFFFF (now - target)))
      let a := 0x2240 + 4 * (k / 32)
      (s.setReg a (s.reg a ||| w32 (2 ^ (k % 32)))).intRaise .slots 1
    else s
  let s := (if code ≠ 0 then s.intRaise .slots 2 else s).lastCode .slots rc
  let s := if bit cfg 8 then
      let a := 0x2220 + 4 * (k / 32)
      (s.setReg a (s.reg a ||| w32 (2 ^ (k % 32)))).intRaise .slots 0
    else s
  if bit cfg 7 then
    let p := (s.slotW k 4).toNat
    let t := target + p
    let skip := if t ≤ now then (now - t) / p + 1 else 0
    (s.setSlotTarget k (t + skip * p)).setSlotW k 9 (satInc (s.slotW k 9) skip)
  else s.setSlotW k 0 (setBit cfg 0 false)

/-- One tick of the eight counters (rules R95, R96). A step's LSTEP_AT is TC0's stamp of the tick itself. A slot whose
target a forward step carried the counter past is marked for a late firing (rule R112). -/
def State.tickCounters (s : State) : State :=
  let k := s.tickNs / 2
  let t0 := (s.tc 0).tick k 0
  let stamp := w32 t0.total
  let carried := (List.range 256).filter fun i =>
    s.slotArmed i &&
      (let c := s.tc (fld (s.slotW i 0) 4 3)
       let tgt := (s.slotTarget i : Int)
       decide ((c.total : Int) < tgt) && decide (tgt < c.total + c.step.getD 0))
  let s := (List.range 8).foldl (fun s n => s.setTc n ((s.tc n).tick k stamp)) s
  let s := carried.foldl (fun s i => s.setSlotW i 11 1) s
  { s with time := { s.time with ns := s.time.ns + s.tickNs } }

/-- The slots that are due, in ascending number (rule R114). -/
def State.dueSlots (s : State) : List (Fin 256) := (List.finRange 256).filter fun k => s.slotDue k.val

/-- The slots that fire on this tick are fixed: a disarm from now on acts after their firing (rule R114). -/
def State.fixFirings (s : State) : State := { s with time := { s.time with firing := s.dueSlots.map (·.val) } }

/-- The firing of slot `k` is over: a disarm that waited for it acts. -/
def State.firingOver (s : State) (k : Nat) : State :=
  let s := match Cells.get none s.time.disarm k with
    | none => s
    | some cfg => s.setSlotW k 0 cfg
  { s with time := { s.time with firing := s.time.firing.filter (· ≠ k), disarm := Cells.put none s.time.disarm k none } }

end Sys2Proof.Machine
end

