-- ==== Sys2Proof/Machine/Power.lean ====
section
/-! DEFINITION. Machine/Power.lean: the level sequencer and the power coordinator (rules R415–R439, R461, R471–R473, R483). -/

namespace Sys2Proof.Machine

/-! The level sequencer (rules R416–R421). -/

def inForce (s : State) : Nat := s.rf 0x73124 0 3

/-- PMB_FAULT on its page and on the fault alarm path (rules R418, R451). -/
def State.pmbFault (s : State) : State := ((s.intRaise .pmb 0).lastCode .pmb cDEGRADED).faultEvent .pmb 1 cDEGRADED 0 0xFF 0 0

/-- Whether a sleep entry or exit is in progress, or the device sleeps. -/
def State.asleep (s : State) : Bool := s.power.phase ≠ 0 || s.rf 0x3104 0 4 != 0

/-- A level change to `new` begins (rules R32, R418): a raise writes VOUT_COMMAND first; a lower makes the new level the level in
force, with its assist, and applies its body bias. DEDUCED, assumption 34. -/
def State.levelStart (s : State) (new : Nat) : State :=
  let old := inForce s
  if new = old ∨ s.power.noReg then s
  else
    let up := decide (old < new)
    let s := s.setRf 0x73124 3 1 1
    let s := { s with fabric := { s.fabric with low := min s.fabric.low (min old new) } }
    let c : LevelChange := { old := old, new := new, wait := if up then 1 else 3, retried := false }
    let s := { s with power := { s.power with seq := some c } }
    if up then s
    else { s.setRf 0x73124 0 3 new with power := { s.power with seq := some c, assist := new, bias := new } }

/-- A target for the sequencer: it starts at once, or replaces the pending one (rules R417, R431). DEDUCED, assumption 34. -/
def State.levelRequest (s : State) (new : Nat) : State :=
  if s.power.seq.isSome ∨ s.asleep then { s with power := { s.power with next := some new } }
  else s.levelStart new

/-- The pending target starts. -/
def State.levelNext (s : State) : State :=
  match s.power.next with
  | none => s
  | some n =>
    if s.power.seq.isSome ∨ s.asleep then s
    else State.levelStart { s with power := { s.power with next := none } } n

/-- A level change ends: BUSY and TRANSITION fall. -/
def State.levelEnd (s : State) : State :=
  { s.setRf 0x73124 3 1 0 with power := { s.power with seq := none } }

/-- The highest level that PERF_REQ and PERF_LIMIT allow (rule R420). -/
def State.levelTop (s : State) : Nat := min (s.rf 0x73120 0 3) (s.rf 0x73128 0 3)

/-- Throttling no longer keeps the level down, once it is back at what PERF_REQ and PERF_LIMIT allow (rule R420). DEDUCED, assumption 34. -/
def State.noteThrottle (s : State) : State :=
  if s.levelTop ≤ inForce s then { s with power := { s.power with throttled := false } } else s

/-- A level change is done (rule R418). DEDUCED, assumption 34. -/
def State.levelDone (s : State) : State :=
  let s := (s.levelEnd.intRaise .perf 0).bump 0x73134 1
  (State.levelNext { s with power := { s.power with checkVout := true } }).noteThrottle

/-- VOUT_COMMAND_DONE (rule R419): a write that fails is retried once, and a second failure aborts the change. DEDUCED, assumption 34. -/
def State.voutDone (s : State) (ack : Bool) : State :=
  match s.power.seq with
  | none => s
  | some c =>
    if c.wait ≠ 1 then s
    else if ack then { s with power := { s.power with seq := some { c with wait := 2 }, vcore := c.new } }
    else
      let s := (s.bump 0x74110 1).intRaise .pmb 1
      if !c.retried then { s with power := { s.power with seq := some { c with retried := true } } }
      else
        let s := { s.setRf 0x73124 0 3 c.old with power := { s.power with bias := c.old, assist := c.old } }
        ((s.levelEnd.bump 0x73138 1).intRaise .perf 1).pmbFault.levelNext

/-- VOUT_SETTLED (rule R418). -/
def State.voutSettled (s : State) : State :=
  match s.power.seq with
  | none => s
  | some c =>
    if c.wait ≠ 2 then s
    else if c.old < c.new then { s with power := { s.power with seq := some { c with wait := 3 }, bias := c.new } }
    else s.levelDone

/-- BODY_BIAS_SETTLED (rule R418). -/
def State.biasSettled (s : State) : State :=
  match s.power.seq with
  | none => s
  | some c =>
    if c.wait ≠ 3 then s
    else if c.old < c.new then
      State.levelDone { s.setRf 0x73124 0 3 c.new with power := { s.power with assist := c.new } }
    else { s with power := { s.power with seq := some { c with wait := 1 } } }

/-- A write of PERF_REQ by the management controller (rules R17, R417, R442). -/
def State.writePerfReq (s : State) (v : Word) : Nat × State :=
  let l := fld v 0 3
  if 4 < l ∨ s.rf 0x73128 0 3 < l then (cARG, s)
  else
    let s := { s.setReg 0x73120 (w32 l) with power := { s.power with throttled := false } }
    (cOK, s.levelRequest l)

/-- A write of PERF_LIMIT (rules R17, R417). -/
def State.writePerfLimit (s : State) (v : Word) : Nat × State :=
  let l := fld v 0 3
  if 4 < l then (cARG, s)
  else
    let s := s.setReg 0x73128 (w32 l)
    let s := { s with power := { s.power with next := s.power.next.map fun n => min n l } }
    let aim := (s.power.seq.map (·.new)).getD (inForce s)
    (cOK, (if l < aim && s.power.next.isNone then s.levelRequest l else s).noteThrottle)

/-- Throttling at a management tick (rule R420); `tj` in sixteenths of a degree. -/
def State.throttle (s : State) (tj : Int) : State :=
  let hot := (s.rf 0x7312C 0 8 : Int) * 16
  let f := inForce s
  if hot ≤ tj then
    if bit (s.reg 0x7312C) 11 ∧ s.rf 0x7312C 8 3 < f then
      State.levelRequest { s.intRaise .perf 2 with power := { s.power with throttled := true } } (f - 1)
    else s
  else if tj < hot - 80 ∧ f < s.levelTop then s.levelRequest (f + 1)
  else s

/-- The pending target, else the current one, else the level in force (rule R442). DEDUCED, assumption 34. -/
def State.levelTarget (s : State) : Nat :=
  match s.power.next, s.power.seq with
  | some n, _ => n
  | none, some c => c.new
  | none, none => inForce s

/-- PERF_STAT as it is read (rule R442). -/
def State.perfStat (s : State) : Word :=
  setFld (setBit (s.reg 0x73124) 7 (s.power.throttled && decide (inForce s < s.rf 0x73120 0 3))) 4 3 s.levelTarget

/-- A write of THROT by the management controller; a FLOOR that names no level is refused (rules R17, R442). -/
def throtBad (v : Word) : Bool := decide (4 < fld v 8 3)

/-! Domains (rules R415, R422, R423, R427, R483). -/

/-- The page whose unit a domain holds alone. -/
def domainUnit (d : Nat) : Option Page :=
  if 3 ≤ d ∧ d < 21 then some (.basin (d - 3)) else if 21 ≤ d ∧ d < 30 then some (.lane (d - 21)) else none

/-- A reserve, a unit that the grade disables, or a failed or retired one. -/
def State.standsBy (s : State) (d : Nat) : Bool :=
  (domainUnit d).any fun p => s.gradeDis p || s.isReserve p || s.isFailed p

/-- The state of a domain in a device sleep state (rule R422): 2 ON, 3 QUIESCENT, 0 OFF. -/
def sleepState (t d : Nat) : Nat :=
  if t = 3 then (if d = 0 then 2 else 0)
  else if d = 2 ∨ d = 30 then 3
  else if 3 ≤ d ∧ d < 30 then (if t = 1 then 3 else 0)
  else if d ≤ 1 ∨ t = 1 then 2
  else 0

/-- How deep a domain state is. -/
def depthOf (st : Nat) : Nat := if st = 0 then 2 else if st = 3 then 1 else 0

/-- The order of requests (rule R427). -/
def entryOrder : List Nat := [30, 2] ++ ((List.range 27).map (· + 3)) ++ [31, 32, 33, 34, 35, 1]

/-- The participants of a device entry. -/
def State.participants (s : State) (t : Nat) : List Nat :=
  entryOrder.filter fun d => depthOf (s.domain d) < depthOf (sleepState t d) && !s.standsBy d

/-! The entry handshake (rules R424–R431). -/

/-- The first page that refuses for domain `d`, with the reason (rule R428, codes 2–6). -/
def State.refusal (s : State) (d : Nat) : Option (Page × Nat) :=
  let t := s.power.target
  if d = 2 then
    if s.head.ctxs.any fun p => p.2.state == .running || p.2.pend.isSome then some (.headgate, 2)
    else if t = 3 ∧ bit (s.reg 0x64108) 3 then some (.gmap, 2)
    else if t = 3 ∧ s.ckBusy then some (.headgate, 2)
    else none
  else if d = 30 then
    ((List.range 32).find? fun c => s.loopState c != 0 && s.loopState c != 6).map fun c => (.loop c, 3)
  else if d = 31 then
    if s.reg 0x5A600 ≠ 0 then some (.field, 4)
    else if (List.range 52).any fun i => bit (s.reg (ringGroup i + 0x10)) 0 then some (.ingest, 5)
    else ((List.range 6).find? fun r => bit (s.reg (csiBase r + 0x100)) 0).map fun r => (.csi r, 5)
  else if d = 1 then
    if s.sdio.busy ∨ s.sdio.resp ∨ s.sdio.load.any (·.live) then some (.mbox, 6) else none
  else none

/-- The page that a domain's own refusal names. -/
def domainPage (d : Nat) : Page :=
  match domainUnit d with
  | some p => p
  | none => if 32 ≤ d then .mc (d - 32) else if d = 31 then .ingest else if d = 30 then .loop 0 else if d = 2 then .headgate else .mbox

/-- Whether a unit of domain `d` runs a command now. -/
def State.domainBusy (s : State) (d : Nat) : Bool :=
  let runs := fun e => (s.running e).isSome
  if 3 ≤ d ∧ d < 21 then let l := s.logicalOf (d - 3); fld (s.rm (basinWord (d - 3))) 0 2 == 1 && (runs l || runs (0x10 + l))
  else if 21 ≤ d ∧ d < 30 then fld (s.rm (laneWord (d - 21))) 0 2 == 1 && runs (0x40 + s.logicalOf (d - 3))
  else if d = 2 then (List.range 32).any (fun p => runs (0x20 + p)) || runs 0x48
  else if 32 ≤ d then s.ckBusy || s.head.running.any fun p => p.2.isSome
  else false

/-- PWR_STAT.ENTERING. -/
def State.setEntering (s : State) (b : Bool) : State := s.setRf 0x3104 2 1 b.toNat

/-- Reserves that a substitution waits for begin their exit, where no entry runs and the device is in S0 (rule R461). -/
def State.wakeReserves (s : State) : State :=
  s.head.subst.foldl (fun s x =>
    let d := unitDomain (unitNo x.lane x.reserve)
    if s.domain d = 0 ∧ s.rf 0x3104 0 2 = 0 ∧ s.power.phase = 0 then s.wakeDomain d else s) s

/-- The domains of a device exit: what the entry put to sleep, or after S3 every enabled domain in service (rule R434). -/
def State.exitDomains (s : State) : List Nat :=
  if s.rf 0x3104 0 2 = 3 then ((List.range 35).map (· + 1)).filter fun d => !s.standsBy d
  else s.power.slept.filter fun d => !s.standsBy d

/-- The domains of failed or retired units that an entry switched OFF: they come back to QUIESCENT (rule R483). -/
def State.failedOff (s : State) : List Nat :=
  ((List.range 27).map (· + 3)).filter fun d =>
    (domainUnit d).any s.isFailed && !(domainUnit d).any s.gradeDis && s.domain d == 0

/-- The domains that a mask names and that sleep (rules R426, R434). -/
def State.asleepIn (s : State) (mask : Nat) : List Nat :=
  (ones 36 mask).filter fun d => (s.domain d == 0 || s.domain d == 3) && !s.standsBy d

/-- The device exit ends once no domain of it wakes (rules R434, R436). -/
def State.exitEnd (s : State) : State :=
  if s.power.exiting ∧ (List.range 36).all (fun d => s.domain d ≠ 1) then
    let s := (s.setRf 0x3104 0 4 0).intRaise .power 1
    State.wakeReserves { s with power := { s.power with exiting := false, slept := [] } }
  else if (List.range 36).all fun d => s.domain d ≠ 1 then s.setRf 0x3104 3 1 0
  else s

/-- A device exit begins (rules R434, R435, R439): VDD_CORE returns to the level in force, and the domains wake, with those that a
WAKE_REQ mask names beside them. DEDUCED, assumption 33. -/
def State.exitStart (s : State) (src mask : Nat) : State :=
  let deep := s.rf 0x3104 0 2 = 3
  let ds := (s.exitDomains ++ s.asleepIn mask ++ s.failedOff).eraseDups
  let s := (s.setReg 0x3124 (w32 src)).setReg 0x311C 0
  let p := { s.power with exiting := true, wakeMask := 0, vcore := inForce s, bias := inForce s, assist := inForce s }
  let s := { s with power := if deep then { p with pen := 1, vcore := 3, bias := 3, assist := 3 } else p }
  let s := if deep then { s with testing := true, boot := { s.boot with tested := false } } else s
  let s := s.setRf 0x3104 3 1 1
  (ds.foldl State.wakeDomain s).exitEnd

/-- The domains that a WAKE_REQ mask names leave sleep (rules R426, R434). -/
def State.wakeNamed (s : State) (mask : Nat) : State :=
  let ds := s.asleepIn mask
  if ds.isEmpty then s else ds.foldl State.wakeDomain ((s.setReg 0x3124 3).setReg 0x311C 0)

/-- A wake event of source `src` acts: on a device sleep state, or for the domains of a WAKE_REQ. -/
def State.wakeAct (s : State) (src mask : Nat) : State :=
  if s.rf 0x3104 0 2 ≠ 0 then s.exitStart src mask
  else if src = 3 then s.wakeNamed mask
  else s

/-- Latched wake events are delivered after an entry that aborted (rule R431). DEDUCED, assumption 33. -/
def State.wakeDeliver (s : State) : State :=
  let srcs := ones 4 (s.reg 0x311C).toNat
  let mask := s.power.wakeMask
  let s := { s.setReg 0x311C 0 with power := { s.power with wakeMask := 0 } }
  srcs.foldl (fun s i =>
    let s := (s.bump 0x3120 1).intRaise .power 3
    if bit (s.reg 0x3104) 3 then s else s.wakeAct i mask) s

/-- Domains asleep by their idle timers that an admission names leave sleep; during an entry they wait for its end (rules R426,
R431). DEDUCED, assumption 33. -/
def State.wakeForImage (s : State) (mask : Nat) : State :=
  if s.power.phase ≠ 0 then { s with power := { s.power with admitWake := s.power.admitWake ||| mask } }
  else if s.rf 0x3104 0 2 ≠ 0 then s
  else (s.asleepIn mask).foldl State.wakeDomain s

/-- Admissions that waited for the end of an entry. -/
def State.wakeWaited (s : State) : State :=
  State.wakeForImage { s with power := { s.power with admitWake := 0 } } s.power.admitWake

/-- An entry is over: phase 0. -/
def State.entryOver (s : State) : State :=
  { s.setEntering false with power := { s.power with phase := 0, ask := [], agreed := [] } }

/-- A participant refuses, and the entry rolls back (rule R429). -/
def State.refuse (s : State) (d reason : Nat) (p : Page) : State :=
  let back := (d :: s.power.agreed.reverse).filter fun d => !(domainUnit d).any s.isFailed
  let t := s.power.target
  let s := back.foldl (fun s d => s.setDomain d 2) s
  let s := (s.setReg 0x3110 (w32 p.blockId)).setReg 0x3114 (w32 (reason + d * 256 + t * 65536))
  let s := ((s.bump 0x310C 1).intRaise .power 2).lastCode .power cSLEEP_REFUSED
  s.entryOver.wakeReserves.wakeDeliver.wakeWaited

/-! The save memory (rules R438, R439). -/

/-- The registers that the save memory holds, from word 8 on. -/
def saveAddrs : List Nat :=
  let b := Page.base
  let runs := fun (a n : Nat) => (List.range n).map fun i => a + 4 * i
  ((List.range 18).flatMap fun n => [b (.basin n) + 0xC, b (.basin n) + 0x114]) ++
  ((List.range 9).flatMap fun n => [b (.lane n) + 0xC, b (.lane n) + 0x134, b (.lane n) + 0x118, b (.lane n) + 0x280] ++
    runs (b (.lane n) + 0x200) 32) ++
  ((List.range 4).flatMap fun n => [b (.mc n) + 0x118, b (.mc n) + 0x11C]) ++
  runs 0x64100 4 ++ ((List.range 6).map fun n => b (.csi n) + 0x100) ++ ((List.range 2).map fun n => b (.eth n) + 0x114) ++
  ((List.range 52).flatMap fun i => runs (ringGroup i) 6) ++ ((List.range 16).flatMap fun f => runs (filterGroup f) 4) ++
  ((List.range 8).map fun e => 0x5A100 + 0x20 * e) ++ ((List.range 8).map fun d => 0x5A200 + 0x20 * d) ++
  ((List.range 24).flatMap fun k => runs (0x5A300 + 0x20 * k) 4) ++ [0x5A604] ++ runs 0x58100 128 ++ runs 0x59100 256 ++
  (((List.range 18).map fun n => b (.basin n)) ++ ((List.range 9).map fun n => b (.lane n)) ++
    ((List.range 4).map fun n => b (.mc n)) ++ [0x64000] ++ ((List.range 6).map fun n => b (.csi n)) ++
    ((List.range 2).map fun n => b (.eth n)) ++ [0x5B000, 0x5A000, 0x58000, 0x59000]).map (· + 0x18) ++
  ((List.range 6).map fun n => b (.csi n) + 0x108) ++ runs 0x59500 32 ++
  ((List.range 2).flatMap fun n => [b (.eth n) + 0x118, b (.eth n) + 0x11C, b (.eth n) + 0x120, b (.eth n) + 0x130])

def State.saveW (s : State) (i : Nat) : Word := Cells.get 0 s.power.save i

def State.setSaveW (s : State) (i : Nat) (v : Word) : State :=
  { s with power := { s.power with save := Cells.put 0 s.power.save i v } }

/-- The CRC of the save memory. -/
def State.saveCrc (s : State) : Word := w32 (crc32c (wordBytes ((List.range 2046).map fun i => s.saveW (i + 2))))

/-- Whether VALID holds domain `d`'s bit. -/
def State.saveValid (s : State) (d : Nat) : Bool := bit (s.saveW (2 + d / 32)) (d % 32)

/-- The domain of a register. -/
def regDomain (a : Nat) : Nat := ((pageAt a).map Page.domain).getD 0

/-- The save lists of the domains that go OFF are written (rule R438). -/
def State.saveDomains (s : State) (ds : List Nat) : State :=
  let s := (saveAddrs.zipIdx 8).foldl (fun (s : State) p => if ds.contains (regDomain p.1) then s.setSaveW p.2 (s.reg p.1) else s) s
  let s := ds.foldl (fun s d => s.setSaveW (2 + d / 32) (setBit (s.saveW (2 + d / 32)) (d % 32) true)) s
  let s := ((s.setSaveW 0 0x53560860).setSaveW 4 (s.saveW 4 + 1)).setSaveW 5 s.stamp
  s.setSaveW 1 s.saveCrc

/-- The bits of a register that a restore writes: its writable bits, without the enables that come up as 0. -/
def restoreMask (a : Nat) : Word :=
  match pageAt a with
  | none => 0
  | some p =>
    let off := a % 4096
    let rw := match findReg p off with
      | some d => w32 d.rw
      | none => 0
    let en : Bool := match p with
      | .ingest => off < 0xE00 && off % 0x40 == 0x10
      | .csi _ => off == 0x100
      | .serial => (off < 0x180 && off % 0x20 == 0) || off == 0x180 || off == 0x1A0
      | .can => 0x500 ≤ off && off < 0x580 && off % 0x20 == 0
      | .eth _ => off == 0x118
      | .gmap => off == 0x108
      | _ => false
    if en then rw &&& ~~~1 else rw

/-- Registers that keep their values while their domain is off: boot-loaded ones and counts since wellhouse reset. -/
def keptOff (a : Nat) : Bool :=
  (0x60000 ≤ a && a < 0x64000 && (a % 4096 == 0x100 || a % 4096 == 0x104)) ||
  (0x73200 ≤ a && a < 0x73320) || a == 0x73124 || a == 0x75100 || (0x76104 ≤ a && a ≤ 0x7610C)

/-- The registers of a domain come up at their reset values (rule R438), with the per-requester values of its pages. -/
def State.resetPages (s : State) (d : Nat) : State :=
  { s with regs := s.regs.filter (fun c => regDomain c.1 ≠ d || keptOff c.1),
           perReq := s.perReq.filter (fun c => regDomain (c.1 / 4 % 0x100000) ≠ d) }

/-- A unit's memory is lost (rules R422, R435). -/
def State.clearUnit (s : State) (u : Nat) : State :=
  { s with sram := Cells.clear s.sram (2 ^ 24 * u) (2 ^ 24), sramBad := Cells.clear s.sramBad (2 ^ 21 * u) (2 ^ 21),
           rowErr := Cells.clear s.rowErr (2 ^ 18 * u) (2 ^ 18), rowLost := s.rowLost.filter (fun k => k / 2 ^ 18 ≠ u),
           copying := s.copying.filter fun c => c.1 ≠ u }

/-- The SDIO functions lose their state with domain 1; the window's and the mailbox's registers with them. -/
def State.sdioLost (s : State) : State := { s with sdio := sdioReset, f1Int := 0, evtMask := 0, evtPend := 0 }

/-- The levels that the pad latches hold while domain 31 is off (rules R433, R476): PCFG.IDLE of PWM00–PWM23 in bits [23:0], TOUT_IDLE in
[31:24] and the idle polarity of the SPI clocks in [35:32]. -/
def State.padLevels (s : State) : BitVec 36 :=
  BitVec.ofNat 36 (((List.range 24).map fun k => (bit (s.reg (0x5A300 + 0x20 * k)) 2).toNat * 2 ^ k).sum + s.rf 0x5A604 0 8 * 2 ^ 24 +
    ((List.range 4).map fun k => (bit (s.reg (spiBase k)) 2).toNat * 2 ^ (32 + k)).sum)

/-- What a domain holds besides registers is lost as it goes OFF (rules R422, R423). -/
def State.loseDomain (s : State) (d : Nat) : State :=
  if d = 1 then
    { (s.sdioLost.setRf 0x73124 3 1 0) with
      boot := { s.boot with step := 0, code := 0, stream := [] }
      fabric := { s.fabric with tel := [], last := [], min := [] }
      power := { s.power with seq := none, next := none, throttled := false, checkVout := false } }
  else if d = 2 then
    { s with gates := [], head := { headgateReset with
        fenced := s.head.fenced, subst := s.head.subst, pumpsLost := s.head.pumpsLost, mapLost := s.head.mapLost } }
  else if d < 30 then
    let u := d - 3
    let s := s.clearUnit u
    if u < 18 then s.dropTags fun t => t.basin ≠ s.logicalOf u || fld (s.rm (unitWord u)) 0 2 ≠ 1 else s
  else if d = 30 then { s with loops := [] }
  else if d = 31 then { s with edge := edgeReset, power := { s.power with padHold := s.padLevels } }
  else s

/-- Domains go OFF: registers and all else are lost (rule R423). -/
def State.offDomains (s : State) (ds : List Nat) : State :=
  ds.foldl (fun s d => ((s.loseDomain d).resetPages d).setDomain d 0) s

/-- The failed or retired units whose domains are powered: the commit of an entry to S2 or S3 switches them OFF (rules R427, R483). -/
def State.failedOn (s : State) : List Nat :=
  ((List.range 27).map (· + 3)).filter fun d => (domainUnit d).any s.isFailed && s.domain d == 3

/-- The commit of an entry begins (rule R430): the save lists are written, and an S3 entry revokes every image. DEDUCED, assumption 33. -/
def State.commit (s : State) : State :=
  let t := s.power.target
  let goes := fun d => if t = 0 then s.power.depth else sleepState t d
  let s := s.saveDomains ((s.power.agreed.filter fun d => goes d = 0) ++ (if 2 ≤ t then s.failedOn else []))
  let s := if t = 3 then s.revokeImages fun _ => true else s
  { s with power := { s.power with phase := 2 } }

/-- The next participant is asked; the ones that refuse at once do, and a unit that has retired since the entry began takes no
part (rules R427, R428). -/
def State.askNext (s : State) : State :=
  match s.power.ask.dropWhile fun d => (domainUnit d).any s.isFailed with
  | [] => { s with power := { s.power with ask := [] } }.commit
  | d :: rest =>
    let s := { s with power := { s.power with ask := d :: rest, askNs := s.time.ns } }.setDomain d 4
    match s.refusal d with
    | some r => s.refuse d r.2 r.1
    | none => s

/-- A device entry or the idle entry of one domain begins (rules R424, R425, R427). DEDUCED, assumption 33. -/
def State.entryStart (s : State) (t depth : Nat) (ds : List Nat) : State :=
  let s := s.setEntering true
  State.askNext { s with power := { s.power with phase := 1, target := t, depth := depth, ask := ds, agreed := [] } }

/-- AGREE (rules R427, R461): the participant asked has stopped. DEDUCED, assumption 33. -/
def State.agree (s : State) : State :=
  match s.power.ask with
  | [] => s
  | d :: rest =>
    if s.power.phase ≠ 1 then s
    else if (domainUnit d).any s.isFailed then State.askNext { s with power := { s.power with ask := rest } }
    else if s.domainBusy d then s
    else State.askNext { s with power := { s.power with ask := rest, agreed := s.power.agreed ++ [d] } }

/-- STOP_WAIT_EXPIRY (rule R428): a basin, lane or memory controller whose work has not ended within STOP_WAIT µs of its request
refuses with BUSY. -/
def State.stopWait (s : State) : State :=
  match s.power.ask with
  | [] => s
  | d :: _ =>
    if s.power.phase = 1 ∧ ((domainUnit d).isSome ∨ 32 ≤ d) ∧ !(domainUnit d).any s.isFailed ∧ s.domainBusy d ∧
        s.rf 0x3108 0 16 * 1000 ≤ s.time.ns - s.power.askNs then s.refuse d 1 (domainPage d) else s

/-! Idle timers (rules R415, R425). -/

/-- IDLE_d of a domain. -/
def idleReg (d : Nat) : Nat := 0x3200 + 4 * d

/-- Whether the slot coverage or a placement of an admitted image names the unit of a domain. -/
def State.imageNames (s : State) (d : Nat) : Bool :=
  match domainUnit d with
  | none => false
  | some _ =>
    let u := d - 3
    let l := s.logicalOf u
    fld (s.rm (unitWord u)) 0 2 == 1 &&
      (s.slotEntries.any (fun w => if u < 18 then slotCovers w l || slotCovers w (0x10 + l) else slotCovers w (0x40 + l)) ||
       (u < 18 && s.head.ctxs.any fun p => p.2.state != .free && p.2.places.any fun pl => (usedBasins p.2).any fun b => pl.getD b 0 == l))

/-- The engine codes of the unit whose domain is `d`, under its logical number. -/
def State.unitCodes (s : State) (d : Nat) : List Nat :=
  let l := s.logicalOf (d - 3)
  if fld (s.rm (unitWord (d - 3))) 0 2 ≠ 1 then [] else if d < 21 then [l, 0x10 + l] else [0x40 + l]

/-- Whether a descriptor waits for the unit of domain `d` in an invocation under way. -/
def State.unitQueued (s : State) (d : Nat) : Bool :=
  s.live.any fun p => (List.range p.2.lists.length).any fun i =>
    (s.unitCodes d).contains (s.listEngine p.1 i) && decide (p.2.issued.getD i 0 < s.listTotal p.1 i)

/-- Whether a canal transfer addressed to the unit of domain `d` is in flight: a command running elsewhere that names the unit, or
the checkpoint copy of it. -/
def State.unitAddressed (s : State) (d : Nat) : Bool :=
  let u := d - 3
  s.namedByRun (decide (18 ≤ u)) (s.logicalOf u) || s.ckAddresses u

/-- The idle condition of a domain. -/
def State.domainIdle (s : State) (d : Nat) : Bool :=
  !s.domainBusy d && !s.imageNames d &&
  (if d = 2 then s.head.images.isEmpty && !s.ckBusy && s.head.running.all fun p => p.2.isNone
   else if d < 30 then !s.unitQueued d && !s.unitAddressed d
   else if d = 30 then (List.range 32).all fun c => s.loopState c == 0 || s.loopState c == 6
   else if d = 31 then s.reg 0x5A600 == 0 && (List.range 52).all (fun i => !bit (s.reg (ringGroup i + 0x10)) 0) &&
     (List.range 6).all fun r => !bit (s.reg (csiBase r + 0x100)) 0
   else true)

/-- The timer of domain `d` in ns. -/
def State.idleNs (s : State) (d : Nat) : Nat := Cells.get 0 s.power.idleNs d

/-- One tick of the idle timers. -/
def State.tickIdle (s : State) : State :=
  ((List.range 30).map (· + 2)).foldl (fun s d =>
    let run := fld (s.reg (idleReg d)) 0 20 ≠ 0 ∧ s.domain d = 2 ∧ !s.standsBy d ∧ s.domainIdle d
    let n := if run then s.idleNs d + s.tickNs else 0
    { s with power := { s.power with idleNs := Cells.put 0 s.power.idleNs d n } }) s

/-- Whether the idle timer of a domain has expired. -/
def State.idleDue (s : State) (d : Nat) : Bool :=
  let us := fld (s.reg (idleReg d)) 0 20
  us ≠ 0 && us * 1000 ≤ s.idleNs d && s.domain d == 2 && s.domainIdle d && !s.standsBy d

/-- An idle expiry that has not to wait. -/
def State.idleGo (s : State) (d : Nat) : State :=
  if s.idleDue d then s.entryStart 0 (if s.rf (idleReg d) 20 2 = 2 then 0 else 3) [d] else s

/-- Whether an entry or an exit runs. -/
def State.moving (s : State) : Bool := s.power.phase ≠ 0 || bit (s.reg 0x3104) 3

/-- A device entry that has not to wait. -/
def State.sleepGo (s : State) (t : Nat) : State :=
  if t ≤ s.rf 0x3104 0 2 then s else s.entryStart t 0 (s.participants t)

/-- What waited for the end of an entry or exit goes on, one entry at a time (rule R431). -/
def State.reqsGo (n : Nat) (s : State) : State :=
  match n, s.power.reqs with
  | k + 1, r :: rest =>
    if s.moving then s
    else
      let s := { s with power := { s.power with reqs := rest } }
      State.reqsGo k (match r with
        | .sleep t => s.sleepGo t
        | .idle d => s.idleGo d)
  | _, _ => s

def State.resume (s : State) : State := (s.reqsGo s.power.reqs.length).levelNext

/-- A wake event (rules R431, R434): masked, latched during an entry, without effect during an exit, or acted on. -/
def State.wakeEvent (s : State) (src mask : Nat) : State :=
  if src < 3 ∧ !bit (s.reg 0x3118) src then s
  else if s.power.phase ≠ 0 then
    let s := s.setReg 0x311C (s.reg 0x311C ||| w32 (2 ^ src))
    { s with power := { s.power with wakeMask := s.power.wakeMask ||| mask } }
  else if bit (s.reg 0x3104) 3 then s
  else (s.wakeAct src mask).resume

/-- A write of PWR_REQ by the management controller (rules R424, R431, R441). -/
def State.writePwrReq (s : State) (v : Word) : Nat × State :=
  let t := fld v 0 2
  if t = 0 then (cARG, s)
  else if s.moving then (cOK, { s with power := { s.power with reqs := s.power.reqs ++ [.sleep t] } })
  else if t ≤ s.rf 0x3104 0 2 then (cARG, s)
  else (cOK, (s.sleepGo t).resume)

/-- IDLE_EXPIRY (rules R425, R431). -/
def State.idleExpiry (s : State) (d : Nat) : State :=
  if !s.idleDue d then s
  else if s.moving then
    if s.power.reqs.contains (.idle d) then s else { s with power := { s.power with reqs := s.power.reqs ++ [.idle d] } }
  else (s.idleGo d).resume

/-- AGREE and what follows an entry that it ends. -/
def State.agreeCmd (s : State) : State := s.agree.resume

/-- STOP_WAIT_EXPIRY and what follows the rollback. -/
def State.stopWaitCmd (s : State) : State := s.stopWait.resume

/-- ENTERED (rules R422, R430, R431): the commit completes. To set the P0 triple the sequencer first ends a level change that
runs, so S1 and S2 are not entered before. DEDUCED, assumption 33. -/
def State.entered (s : State) : State :=
  if s.power.phase ≠ 2 ∨ ((s.power.target = 1 ∨ s.power.target = 2) ∧ s.power.seq.isSome) then s
  else
    let t := s.power.target
    let goes := fun d => if t = 0 then s.power.depth else sleepState t d
    let ds := s.power.agreed
    let lost := fun d => (domainUnit d).any s.isFailed
    let failed := if t < 2 then [] else s.failedOn
    let quiet := ds.filter fun d => goes d = 3 && !lost d
    let off := (ds.filter fun d => goes d = 0 && !lost d) ++ failed
    let s := (quiet.foldl (fun s d => s.setDomain d 3) s).offDomains off
    let s := if t = 3 then s.dramLost else s
    let p := if t = 1 ∨ t = 2 then { s.power with vcore := 0, bias := 0, assist := 0 }
      else if t = 3 then { s.power with pen := 0, pg := 0 } else s.power
    let s := { s with power := if t = 0 then p else { p with slept := p.slept ++ ds } }
    let s := (if t = 0 then s else (s.setRf 0x3104 0 2 t).intRaise .power 0).entryOver
    let lat := ones 4 (s.reg 0x311C).toNat
    let mask := s.power.wakeMask
    let s := { s.setReg 0x311C 0 with power := { s.power with wakeMask := 0 } }
    let s := match lat with
      | [] => s
      | i :: _ => s.wakeAct (if t = 0 ∧ lat.contains 3 then 3 else i) mask
    s.wakeReserves.wakeWaited.resume

/-! Restore (rules R435, R439). -/

/-- The rail of a domain: 0 SOC, 1 LOOP, 2 CORE. -/
def domainRail (d : Nat) : Nat := if d = 30 then 1 else if 2 ≤ d ∧ d < 30 then 2 else 0

def State.wakeStep (s : State) (d : Nat) : Nat := if s.domain d = 1 then Cells.get 0 s.power.steps d else 0

def State.setStep (s : State) (d n : Nat) : State :=
  { s with power := { s.power with steps := Cells.put 0 s.power.steps d n } }

/-- REGULATOR_READY: the domain's switch is good, or its rail. -/
def State.regulatorReady (s : State) (d : Nat) : State :=
  if s.wakeStep d = 1 ∧ s.power.pg.getLsbD (domainRail d) then s.setStep d 2 else s

/-- OSC_RDY. -/
def State.oscReady (s : State) (d : Nat) : State := if s.wakeStep d = 2 then s.setStep d 3 else s

/-- MEM_RDY: cisterns and lane memory are zeroed. -/
def State.memReady (s : State) (d : Nat) : State :=
  if s.wakeStep d = 3 then (if 3 ≤ d ∧ d < 30 then s.clearUnit (d - 3) else s).setStep d 4 else s

/-- The save list of a domain is restored where the CRC checks (rules R438, R439). DEDUCED, assumption 33. -/
def State.restoreDomain (s : State) (d : Nat) : State :=
  let s := s.resetPages d
  if !s.saveValid d then s
  else if s.saveW 1 ≠ s.saveCrc then
    (((s.setSaveW 2 0).setSaveW 3 0).setRf 0x3104 4 1 1).intRaise .power 4
  else
    let s := (saveAddrs.zipIdx 8).foldl (fun (s : State) p =>
      if regDomain p.1 = d then s.setReg p.1 (s.saveW p.2 &&& restoreMask p.1) else s) s
    let s := s.setSaveW (2 + d / 32) (setBit (s.saveW (2 + d / 32)) (d % 32) false)
    (s.setSaveW 1 s.saveCrc).setRf 0x3104 4 1 0

/-- LOGIC_RDY: a domain that comes from OFF is reset and restored; it reads ON, and that of a failed or retired unit QUIESCENT
(rules R435, R483). -/
def State.logicReady (s : State) (d : Nat) : State :=
  if s.wakeStep d ≠ 4 then s
  else
    let fresh := Cells.get 0 s.power.steps (64 + d) = 1
    let s := if fresh then s.restoreDomain d else s
    (((s.setStep (64 + d) 0).setStep d 0).setDomain d (if (domainUnit d).any s.isFailed then 3 else 2)).exitEnd.resume

/-! Supplies (rules R471–R473). -/

/-- A supply excursion on the fault alarm path (rules R451, R454). DEDUCED, assumption 33. -/
def State.excursion (s : State) (p : Page) (source : Nat) : State := (s.faultEvent p 1 cDEGRADED source 0xFF 0 0).lastCode p cDEGRADED

/-- Units in progress are discarded, and their rings' next records carry GAP and DROPS (rule R454). -/
def State.gapRings (s : State) : State :=
  (List.range 52).foldl (fun s i =>
    if s.unitOpen i && s.ringTakes i then
      let s := (s.ringDrop i).ringUnbusy i
      { s with edge := { s.edge with
        csi := if i < 24 then Cells.put none s.edge.csi i none else s.edge.csi
        spi := if 40 ≤ i ∧ i < 44 then Cells.put none s.edge.spi (i - 40) none else s.edge.spi
        uart := if i = 44 ∨ i = 45 then Cells.put none s.edge.uart (i - 44) none else s.edge.uart } }
    else s) s

/-- The samples in progress miss under cause 0 (rule R454). -/
def State.missSamples (s : State) : State :=
  (List.range 32).foldl (fun s c =>
    if (s.loop c).busy.isSome then
      let s := s.setLoop c { s.loop c with busy := none }
      s.loopMiss c 0 (s.happened c)
    else s) s

/-- PG_RISE: the next enable goes high; while the block comes out of reset, the mask ROM runs once VDD_SOC is good. DEDUCED, assumption 33. -/
def State.pgRise (s : State) (r : Nat) : State :=
  if !s.power.pen.getLsbD r ∨ s.power.pg.getLsbD r ∨ s.power.stuck then s
  else
    let pen := if r < 2 then s.power.pen ||| (2#3 <<< r) else s.power.pen
    let s := { s with power := { s.power with pg := s.power.pg ||| (1#3 <<< r), pen := pen } }
    if r = 0 ∧ s.domain 1 = 0 then s.setDomain 1 2 else s

/-- PG_TIMEOUT: the sequence stops, with a supply excursion and FAULT_N low. -/
def State.pgTimeout (s : State) (r : Nat) : State :=
  if s.power.pen.getLsbD r ∧ !s.power.pg.getLsbD r ∧ !s.power.stuck then
    { s.excursion .power 0 with power := { (s.excursion .power 0).power with stuck := true } }
  else s

/-- PG_LOSS (rule R473): an excursion of the rail, and the loss of what it feeds. -/
def State.pgLoss (s : State) (r : Nat) : State :=
  if !(s.power.pen.getLsbD r && s.power.pg.getLsbD r) then s
  else
    let s := s.excursion .power 0
    let lower := fun (s : State) (m : BitVec 3) => { s with power := { s.power with
      pen := s.power.pen &&& ~~~m, pg := s.power.pg &&& ~~~m, phase := 0, ask := [], agreed := [], seq := none } }
    let core := (List.range 28).map (· + 2)
    if r = 2 then (lower ((s.excursionTear).offDomains core) 4).raiseStop
    else if r = 1 then
      let cs := (List.range 32).filter fun c => s.grade.loops.getLsbD c
      let s := (s.missSamples.setReg 0x5A600 0)
      let s := (lower (s.offDomains [30]) 2).raiseStop
      cs.foldl (fun s c => s.faultEvent (.loop c) 3 cDEGRADED 4 0xFF 0 0) s
    else
      let s := s.excursionTear.gapRings
      let s := lower (s.offDomains ((List.range 35).map (· + 1))) 7
      s.faultEvent .mbox 3 cDEGRADED 0 0xFF 0 0

end Sys2Proof.Machine
end

