-- ==== Sys2Proof/Machine/Manage.lean ====
section
/-! DEFINITION. Machine/Manage.lean: the management tick, telemetry and energy, the wave-rate monitors, the reference and the
management watchdog (rules R21–R38, R352, R418, R420, R421, R440, R455, R459). -/

namespace Sys2Proof.Machine

/-! The wave-rate monitors (rules R30–R35, R455). -/

/-- The floor rate that monitor `i` compares with, at level `l`. -/
def State.monFloor (s : State) (i l : Nat) : Nat := if i < 29 then s.rf (0x71100 + 4 * l) 0 16 else s.rf 0x71114 0 16

/-- The floor and warning thresholds of a rate: ⌈f × 10.24⌉ and ⌈f × 1.03 × 10.24⌉. -/
def floorThreshold (f : Nat) : Nat := ceilDiv (f * 256) 25
def warnThreshold (f : Nat) : Nat := ceilDiv (f * 103 * 256) 2500

/-- Whether the ring of monitor `i` runs: the grade enables its domain, which is powered and not asleep (rule R30). -/
def State.monPowered (s : State) (i : Nat) : Bool :=
  let d := monDomain i
  (s.domain d == 2 || s.domain d == 4) && !(domainUnit d).any s.gradeDis

/-- MON_ACTIVE: monitors that counted a whole window. -/
def State.monActive (s : State) : Word := wordOf fun i => bit s.fabric.on i && s.monPowered i

/-- TIMING_MARGIN of monitor `i` (rules R31, R405, R451, R455). -/
def State.timingMargin (s : State) (i : Nat) : State :=
  let s := s.setReg 0x7111C (s.reg 0x7111C ||| w32 (2 ^ i))
  let s := (s.bump 0x71128 1).setReg 0x5120 (s.reg 0x5120 ||| w32 (2 ^ i))
  let n := s.sec.tmInTick + 1
  let s := { s with fabric := { s.fabric with clean := Cells.put 0 s.fabric.clean i 0 }, sec := { s.sec with tmInTick := n } }
  let s := (s.lastCode .rate cTIMING_MARGIN).faultEvent .rate 0 cTIMING_MARGIN (s.rf 0x71024 8 8) 0xFF 0 i
  if n = s.rf 0x4118 16 8 then s.alarmTrip 5 else s

/-- The last and the lowest count of a monitor take a window's count. -/
def Fabric.count (x : Fabric) (i n : Nat) : Fabric :=
  let m : Word := Cells.get 0xFFFF x.min i
  { x with last := Cells.put 0 x.last i (w32 n), min := Cells.put 0xFFFF x.min i (if n < m.toNat then w32 n else m) }

/-- A window of monitor `i` at or above the floor: TM_CLEAN such windows in a row end its TM_VOID. -/
def State.cleanWindow (s : State) (i : Nat) : State :=
  let k := Cells.get 0 s.fabric.clean i + 1
  let s := { s with fabric := { s.fabric with clean := Cells.put 0 s.fabric.clean i k } }
  if s.rf 0x5124 0 16 ≤ k then s.setReg 0x5120 (s.reg 0x5120 &&& ~~~ w32 (2 ^ i)) else s

/-- The end of a window of monitor `i` with its wave count. -/
def State.monCount (s : State) (i n : Nat) : State :=
  if !(bit s.fabric.on i && s.monPowered i) then s
  else
    let f := s.monFloor i s.fabric.low
    let s := { s with fabric := s.fabric.count i n }
    if n < floorThreshold f then s.timingMargin i
    else
      let s := if n < warnThreshold f then s.setReg 0x71120 (s.reg 0x71120 ||| w32 (2 ^ i)) else s
      s.cleanWindow i

/-- The level that the next window is compared with (rule R32). -/
def State.windowLevel (s : State) : Nat :=
  match s.power.seq with
  | some c => min c.old c.new
  | none => inForce s

/-- MONITOR_WINDOW: the 32 counts of a window. -/
def State.monitorWindow (s : State) (counts : List (BitVec 16)) : State :=
  let s := (List.range 32).foldl (fun s i => s.monCount i (counts.getD i 0).toNat) s
  { s with fabric := { s.fabric with on := wordOf s.monPowered, low := s.windowLevel } }

/-- MON_LEVEL as it is read. -/
def State.monLevel (s : State) : Word := w32 (s.fabric.low + s.power.seq.isSome.toNat * 256)

/-- MON_READ as it is read. -/
def State.monRead (s : State) : Word :=
  let i := s.rf 0x7112C 0 5
  let last := if bit s.monActive i then (Cells.get 0 s.fabric.last i).toNat else 0
  w32 (last + (Cells.get 0xFFFF s.fabric.min i).toNat * 65536)

/-- MIN_CLR. -/
def State.minClear (s : State) : State :=
  { s with fabric := { s.fabric with min := Cells.put 0xFFFF s.fabric.min (s.rf 0x7112C 0 5) 0xFFFF } }

/-! The reference (rule R38). -/

def State.refLoss (s : State) : State :=
  if s.fabric.refLost then s
  else
    let s := { s with fabric := { s.fabric with refLost := true } }
    (s.lastCode .time cREF_LOST).faultEvent .time 1 cREF_LOST (s.rf 0x1024 8 8) 0xFF (s.reg 0x1028).toNat 0

def State.refBack (s : State) : State := { s with fabric := { s.fabric with refLost := false } }

/-! The management tick. -/

/-- A 64-bit counter in two registers raised by `n`, modulo 2⁶⁴. -/
def State.bump64 (s : State) (a n : Nat) : State :=
  let v := (s.reg a).toNat + 2 ^ 32 * (s.reg (a + 4)).toNat + n
  (s.setReg a (w32 v)).setReg (a + 4) (w32 (v / 2 ^ 32))

/-- The time that a piece of work spent inside the tick that ends now. -/
def State.workTime (s : State) (w : Work) : Nat :=
  let a := max w.start s.head.tickAt
  let b := min w.stop (s.now 7)
  b - a

/-- The engine time of ended and running commands (rule R351). DEDUCED, assumption 35. -/
def State.works (s : State) : List Work :=
  s.head.work ++ s.head.running.filterMap fun p => p.2.map fun q =>
    { eng := p.1, dom := (enginePage p.1 q.phys).domain, ctx := q.head.c, start := q.start, stop := s.now 7 }

/-- The shares of a domain's energy, as (context, weight) pairs (rule R352). DEDUCED, assumption 35. -/
def State.energyShares (s : State) (d : Nat) : List (Nat × Nat) :=
  if d = 2 then s.head.flits
  else (s.works.filter fun w => w.dom = d).map fun w => (w.ctx, s.workTime w)

/-- The energy of domain `d` over the tick: its meter, the contexts' parts, and what nobody claims (rules R352, R440). DEDUCED, assumption 35. -/
def State.energyOf (s : State) (d e : Nat) : State :=
  let e := if s.power.fed.getLsbD d then e else 0
  let s := s.bump64 (0x73200 + 8 * d) e
  let shares := s.energyShares d
  let total := (shares.map (·.2)).sum
  let given := shares.map fun p => (p.1, if total = 0 then 0 else e * p.2 / total)
  let s := given.foldl (fun s p => s.acct64 p.1 18 p.2) s
  s.bump 0x10214 (e - (given.map (·.2)).sum)

/-- ENG_BUSY of an engine (rule R23). -/
def State.engBusy (s : State) (e : Nat) : Nat :=
  min 0xFFFFF (((s.works.filter fun w => w.eng = e).map s.workTime).sum)

/-- The telemetry set of the tick that ends now: TEL_STAMP, TEL_POWER, TEL_TJ, TEL_VCORE and ENG_BUSY. DESIGN CHOICE, assumption 23. -/
def State.telemetry (s : State) (t : TickInputs) : List Word :=
  [s.stamp, w32 t.powerMw.toNat, w32 (t.tjMin.toNat + t.tjMax.toNat * 65536), w32 (t.voutMv.toNat + inForce s * 65536)] ++
    (List.range 0x49).map fun e => w32 (s.engBusy e)

/-- One of the four PMBus reads of a tick: a read that fails counts and keeps the last value (rules R421, R443). -/
def State.pmbGet (s : State) (ok : Bool) (a : Nat) (v : Nat) : State :=
  if ok then s.setReg a (w32 v) else (s.bump 0x74110 1).intRaise .pmb 1

/-- What PMBus reads at a tick, and the READ_VOUT check that follows a level change (rules R418, R421, R443). READ_TEMPERATURE_1
has no register of its own. DEDUCED, assumption 34. -/
def State.pmbRead (s : State) (t : TickInputs) : State :=
  let ok := fun i : Nat => !t.nack.getLsbD i
  let s := ((s.pmbGet (ok 0) 0x74104 t.statusWord.toNat).pmbGet (ok 1) 0x74108 t.voutMv.toNat).pmbGet (ok 2) 0x7410C t.ioutMa.toNat
  let s := if ok 3 then s else (s.bump 0x74110 1).intRaise .pmb 1
  let due := s.power.checkVout && s.power.seq.isNone && ok 1
  let s := { s with power := { s.power with smbalert := false, checkVout := s.power.checkVout && !due } }
  let aim := s.rf (0x73100 + 4 * s.power.vcore) 0 10
  let v := t.voutMv.toNat
  if due ∧ aim * 2 < 100 * (max v aim - min v aim) then s.pmbFault else s

/-- The end of the tick's accounts: work that goes on counts from here (rule R352). DEDUCED, assumption 35. -/
def State.tickEnd (s : State) : State :=
  let now := s.now 7
  { s with
    head := { s.head with
      work := [], flits := [], tickAt := now }
    fabric := { s.fabric with wd := s.fabric.wd + 1 } }

/-- Whether the management firmware runs: booted, and domain 1 has not stopped for an entry (rules R22, R427). -/
def State.mgmtRuns (s : State) : Bool :=
  s.boot.step == 3 && (s.domain 1 == 2 || (s.domain 1 == 4 && !s.power.agreed.contains 1))

/-- What a tick interval leaves behind whatever runs in domain 1: the windows counted for the alarm (rule R405) and the domains that
drew energy (rule R440). DEDUCED, assumption 35. -/
def State.tickMarks (s : State) : State :=
  { s with
    sec := { s.sec with tmInTick := 0 }
    power := { s.power with fed := BitVec.ofNat 36 ((List.range 36).foldl (fun a d => if s.domain d = 0 then a else a + 2 ^ d) 0) } }

/-- MANAGEMENT_TICK: the periodic work of the firmware (rules R21–R23, R352, R418, R420, R421, R440). DESIGN CHOICE, assumption 22. -/
def State.mgmtTick (s : State) (t : TickInputs) : State :=
  if !s.mgmtRuns then s.tickMarks
  else
    let s := s.bump64 0x70104 1
    let s := if t.late then (s.bump 0x7010C 1).intRaise .mbox 0 else s
    let s := { s with fabric := { s.fabric with tel := s.telemetry t } }
    let s := ((List.range 36).foldl (fun s d => s.energyOf d (t.energy.getD d 0).toNat) s)
    let s := (s.setReg 0x73130 (w32 t.tj.toNat)).pmbRead t
    (s.throttle (sext 16 t.tj.toNat)).tickEnd.tickMarks

/-- TEL_CTRL.SNAP: the set of the last whole tick enters the page's registers (rule R23). -/
def State.telSnap (s : State) : State :=
  let w := fun i => s.fabric.tel.getD i 0
  let s := (List.range 4).foldl (fun s i => s.setReg (0x72108 + 4 * i) (w i)) s
  let s := (List.range 0x49).foldl (fun s e => s.setReg (0x72200 + 4 * e) (w (4 + e))) s
  (s.bumpWrap 0x72104 1).intRaise .tel 0

/-- MGMT_WATCHDOG (rule R459): the stop line, a class-3 record, and a reset of domain 1 alone; the ROM restarts without
self-test. -/
def State.mgmtDog (s : State) : State :=
  if s.boot.step ≠ 3 ∨ s.fabric.wd < s.rf 0x5128 4 8 then s
  else
    let s := s.raiseStop.faultEvent .mbox 3 cDEGRADED (s.rf 0x70024 8 8) 0xFF (s.reg 0x70028).toNat 0
    let s := (s.loseDomain 1).resetPages 1
    { s with fabric := { s.fabric with wd := 0 }, boot := { s.boot with resetting := true } }

/-- MGMT_WD.KICK. -/
def State.kick (s : State) : State := { s with fabric := { s.fabric with wd := 0 } }

end Sys2Proof.Machine
end

