-- ==== Sys2Proof/Machine/Access.lean ====
section
/-! DEFINITION. Machine/Access.lean: the register interconnect: how an access is settled, what every register reads as and what
every write does (rules R13–R15, R44–R57, R481 and the register tables of each chapter). -/

namespace Sys2Proof.Machine

/-! Registers whose value follows other state. -/

/-- CAPS of a page (rules R48, R180, R286, R320). DESIGN CHOICE, assumption 7. -/
def capsOf (p : Page) : Word :=
  match p with
  | .basin _ => w32 (128 + 64 * 2 ^ 8 + 12 * 2 ^ 16 + 32 * 2 ^ 24)
  | .lane _ => w32 (128 + 32 * 2 ^ 8 + 16 * 2 ^ 16 + 64 * 2 ^ 24)
  | .loop _ => w32 (4096 + 8 * 2 ^ 16 + 33 * 2 ^ 20)
  | _ => 0

/-- Whether a unit is fenced: its logical number is, or it is the retired unit of a substitution under way (rule R176). -/
def State.unitFenced (s : State) (lane : Bool) (n : Nat) : Bool :=
  let u := unitNo lane n
  s.head.subst.any (fun x => x.lane == lane && x.retired == n) ||
  (fld (s.rm (unitWord u)) 0 2 == 1 && s.isFenced lane (s.logicalOf u))

/-- Whether a mapped unit runs a command of the engine that its logical number names above `base`. -/
def State.unitRuns (s : State) (u base : Nat) : Bool :=
  fld (s.rm (unitWord u)) 0 2 == 1 && (s.running (base + s.logicalOf u)).isSome

/-- STATUS.STATE of a basin (rule R180). -/
def State.basinStatus (s : State) (n : Nat) : Nat :=
  let w := s.rm (unitWord n)
  (s.unitRuns n 0).toNat + (s.unitRuns n 0x10).toNat * 2 + (s.copying.any fun c => c.1 == n).toNat * 4 +
    (s.unitFenced false n).toNat * 8 + (bit w 4).toNat * 16 + (if fld w 0 2 = 1 then fld w 8 4 else 0x1F) * 256

/-- STATUS.STATE of a lane (rule R286). -/
def State.laneStatus (s : State) (n : Nat) : Nat :=
  let u := 18 + n
  let w := s.rm (unitWord u)
  (s.unitRuns u 0x40).toNat + (s.copying.any fun c => c.1 == u).toNat * 2 + (s.unitFenced true n).toNat * 4 +
    (bit w 4).toNat * 8 + (if fld w 0 2 = 1 then fld w 8 4 else 0xF) * 256

/-- STATUS of a page: its STATE with LAST_CODE (rule R49). -/
def State.statusWord (s : State) (p : Page) : Word :=
  let w := s.reg (p.base + 0x10)
  let state := match p with
    | .basin n => s.basinStatus n
    | .lane n => s.laneStatus n
    | .loop n => s.loopStatus n
    | _ => fld w 0 24
  w32 (state + fld w 24 8 * 2 ^ 24)

/-- SPARE_STAT of a unit (rules R180, R286). -/
def State.spareStat (s : State) (u : Nat) : Word := w32 (s.sparesFree u + s.groupsFull u * 65536)

/-- The context a requester's CTX_SEL names (rule R354). -/
def State.ctxSel (s : State) (r : Requester) : Nat := fld (s.own r 0x10114) 0 6

/-- CTX_STAT (rule R354). -/
def State.ctxStat (s : State) (c : Nat) : Word :=
  let x := s.ctx c
  let st := match x.state with
    | .free => 0
    | .admitted => 1
    | .running => 2
    | .faulted => 3
  w32 (st + x.batch.toNat * 4 + x.pend.isSome.toNat * 8 + x.placement * 16 + x.cause.toNat * 256)

/-- Words `w` of a list of bytes as registers show it: byte 4w in [7:0] (rule R412). -/
def digestWord (bs : List Byte) (w : Nat) : Word := wordAt bs (4 * w)

/-- FLAGS of the attestation report (rules R403, R404). -/
def State.attFlags (s : State) : Nat :=
  let alm := s.reg 0x411C
  s.rf 0x76104 0 2 + (bit alm 0).toNat * 4 + (bit alm 2).toNat * 8 + s.sec.cmdKey.isSome.toNat * 16 +
    ((List.range 64).any fun c => s.rpMode c == 2).toNat * 32 + s.stopLine.toNat * 64

/-- The image that a requester's ATT_SEL names. -/
def State.attImage (s : State) (r : Requester) : Option Image := s.head.images[fld (s.own r 0x75108) 0 6]?

/-- The mask of an image's contexts. -/
def Image.mask (i : Image) : Nat := (List.range 64).foldl (fun a c => if i.ctxs.contains c then a + 2 ^ c else a) 0

/-- The gate that a requester's G_SEL names on window `w` (rule R355). -/
def State.gateSel (s : State) (r : Requester) (w : Nat) : Nat := fld (s.own r (0x12100 + 0x1000 * w)) 0 17

/-- G_WAITERS: the head commands that wait on a gate. -/
def State.gateWaiters (s : State) (g : Nat) : Nat :=
  min 255 ((s.live.map fun p => (List.range p.2.lists.length).countP fun i =>
    (s.headWaits p.1 i).any fun w => w.1 == g && s.waitHolds w).sum)

/-- G_CFG (rule R355). -/
def State.gateCfg (s : State) (g : Nat) : Word :=
  let x := s.gate g
  w32 (x.consume.toNat + x.resetInv.toNat * 2 + (s.gateAbandoned g).toNat * 4 + x.sat.toNat * 8 + s.gateOwner g * 65536)

/-- Bus speed, signalling and width in force (rule R392), from CCCR 0x13 and 0x07. -/
def State.sdMode (s : State) : Word :=
  let b := fun a : Nat => (Cells.get 0 s.sdio.f0 a).toNat
  w32 (nfld (b 0x13) 1 3 + s.sdio.v18.toNat * 8 + (nfld (b 0x07) 0 2 == 2).toNat * 16)

/-! Reads. -/

def State.readSlots (s : State) (r : Requester) (off : Nat) : Word :=
  let k := fld (s.own r 0x2100) 0 8
  if off = 0x100 then w32 k
  else if 0x104 ≤ off ∧ off ≤ 0x12C then s.slotW k ((off - 0x104) / 4)
  else if 0x200 ≤ off ∧ off < 0x220 then s.armedWord ((off - 0x200) / 4)
  else s.reg (0x2000 + off)

def State.readIdent (s : State) (off : Nat) : Word :=
  if 0x100 ≤ off ∧ off < 0x120 then digestWord Config.rootHash ((off - 0x100) / 4)
  else if 0x140 ≤ off ∧ off < 0x160 then digestWord s.sec.gradeDigest ((off - 0x140) / 4)
  else if off = 0x164 then w32 (s.boot.step + s.boot.code * 256 + s.rf 0x164 16 8 * 65536)
  else s.reg off

def State.readHeadgate (s : State) (r : Requester) (off : Nat) : Word :=
  let c := s.ctxSel r
  let x := s.ctx c
  match off with
  | 0x114 => w32 c
  | 0x11C => s.ctxStat c
  | 0x120 => w32 x.step.toNat
  | 0x124 => w32 (x.step.toNat / 2 ^ 32)
  | 0x128 => w32 x.seed.toNat
  | 0x12C => w32 (x.seed.toNat / 2 ^ 32)
  | _ => if (0x130 ≤ off ∧ off < 0x158) ∨ (0x300 ≤ off ∧ off < 0x330) then s.hg c off else s.reg (0x10000 + off)

def State.readGates (s : State) (r : Requester) (w off : Nat) : Word :=
  let g := s.gateSel r w
  match off with
  | 0x100 => w32 g
  | 0x104 => (s.gate g).count
  | 0x108 => s.gateCfg g
  | 0x10C => (s.gate g).init
  | 0x110 => w32 (s.gate g).timeout.toNat
  | 0x118 => w32 (s.gateWaiters g)
  | _ => 0

/-- A read of a loop channel page other than TR_DATA (rule R320). -/
def State.readLoop (s : State) (r : Requester) (c off : Nat) : Word :=
  let x := s.loop c
  match off with
  | 0x170 => 0
  | 0x184 => i32 (rsh x.r 16)
  | 0x18C => i32 x.i
  | 0x190 => i32 (x.i / 2 ^ 32)
  | 0x194 => w32 x.j
  | 0x1B4 => w32 (x.cross + x.trips * 256)
  | 0x708 => w32 (x.trace.armed.toNat + x.trace.triggered.toNat * 2 + x.trace.done.toNat * 4 + x.trace.trigIdx * 16)
  | 0x70C => x.trace.stamp
  | 0x710 => s.own r (loopBase c + 0x710)
  | _ => s.lstored c off

/-- A read of the CAN page (rule R138). -/
def State.readCan (s : State) (r : Requester) (off : Nat) : Word :=
  let sel := s.own r 0x59600
  let c := fld sel 0 2
  let b := fld sel 4 4
  if off = 0x600 then sel
  else if off = 0x604 then s.canBufW c b 0
  else if off = 0x608 then s.canBufW c b 1
  else if 0x640 ≤ off ∧ off < 0x680 then s.canBufW c b (2 + (off - 0x640) / 4)
  else s.reg (0x59000 + off)

def State.readAtt (s : State) (r : Requester) (off : Nat) : Word :=
  let i := s.attImage r
  let m := (i.map Image.mask).getD 0
  if off = 0x104 then w32 (s.head.images.length + s.sec.nEvt * 256)
  else if off = 0x108 then s.own r 0x75108
  else if 0x110 ≤ off ∧ off < 0x130 then digestWord ((i.map (·.digest)).getD []) ((off - 0x110) / 4)
  else if off = 0x130 then w32 m
  else if off = 0x134 then w32 (m / 2 ^ 32)
  else if off = 0x138 then w32 s.attFlags
  else s.reg (0x75000 + off)

def State.readRate (s : State) (off : Nat) : Word :=
  match off with
  | 0x118 => s.monActive
  | 0x124 => s.monLevel
  | 0x130 => s.monRead
  | _ => s.reg (0x71000 + off)

def State.readSdio (s : State) (off : Nat) : Word :=
  match off with
  | 0x100 => s.sdMode
  | 0x10C => w32 (s.sdio.ver.getD 0)
  | 0x110 => w32 s.sec.lastCtr.toNat
  | 0x114 => w32 (s.sec.lastCtr.toNat / 2 ^ 32)
  | _ => s.reg (0x80000 + off)

/-- MGMT_STAT.STATE (rule R22): mask ROM, firmware, or domain 1 being reset by its watchdog. DESIGN CHOICE, assumption 62. -/
def State.mgmtState (s : State) : Nat := if s.boot.resetting then 2 else if s.boot.step = 3 then 1 else 0

/-- A read of a block-specific register (offset 0x100 and above) without an effect. DESIGN CHOICE, assumption 3. -/
def State.readOwn (s : State) (r : Requester) (p : Page) (off : Nat) : Word :=
  match p with
  | .ident => s.readIdent off
  | .time => if off < 0x200 then s.readTc ((off - 0x100) / 0x20) (off % 0x20) else s.reg (0x1000 + off)
  | .slots => s.readSlots r off
  | .fault =>
    if off = 0x100 then s.own r 0x5100
    else if off = 0x118 then w32 (s.rf 0x5118 0 4 + s.faultLow.toNat * 16)
    else s.reg (0x5000 + off)
  | .headgate => s.readHeadgate r off
  | .sgw w => s.readGates r w off
  | .basin n =>
    if off = 0x110 then s.spareStat n
    else if off = 0x11C then w32 (fld (s.reg (p.base + 0x11C)) 0 16 + fld (s.rm (nodeWord (unitNode n))) 0 3 * 65536)
    else s.reg (p.base + off)
  | .lane n => if off = 0x130 then s.spareStat (18 + n) else s.reg (p.base + off)
  | .loop c => s.readLoop r c off
  | .can => s.readCan r off
  | .field =>
    if 0x300 ≤ off ∧ off < 0x600 ∧ off % 0x20 = 0x10 then s.pstat ((off - 0x300) / 0x20) else s.reg (0x5A000 + off)
  | .mc _ => if off = 0x104 then s.reg 0x60104 else s.reg (p.base + off)
  | .mbox =>
    if off = 0x100 then w32 (s.mgmtState + s.boot.step * 256) else s.reg (0x70000 + off)
  | .rate => s.readRate off
  | .perf => if off = 0x124 then s.perfStat else s.reg (0x73000 + off)
  | .att => s.readAtt r off
  | .sdio => s.readSdio off
  | _ => s.reg (p.base + off)

/-- A read of the common header (rules R48–R53). BLOCK_ID reads its final value from reset on. DESIGN CHOICE, assumptions 7, 55. -/
def State.readHeader (s : State) (p : Page) (off : Nat) : Word :=
  match off with
  | 0x000 => w32 p.blockId
  | 0x004 => 0x0100
  | 0x008 => capsOf p
  | 0x00C => match p with
    | .loop c => s.lstored c 0xC
    | _ => s.reg (p.base + 0xC)
  | 0x010 => s.statusWord p
  | 0x01C => s.reg (p.base + 0x14)
  | 0x020 => s.reg (p.base + 0x14) &&& s.reg (p.base + 0x18)
  | 0x02C => s.pwrWord p
  | _ => if off < 0x30 then s.reg (p.base + off) else 0

/-- A read of RM_DATA (rule R462): the word, and the requester's IDX moves on. -/
def State.rmData (s : State) (r : Requester) : Word × State :=
  let i := fld (s.own r 0x5100) 0 13
  (s.rmRead i, s.setOwn r 0x5100 (w32 ((i + 1) % 8192)))

/-- A read that a block serves: code, word and state. -/
def State.serveRead (s : State) (r : Requester) (p : Page) (off : Nat) : Nat × Word × State :=
  if off < 0x100 then (cOK, s.readHeader p off, s)
  else if p = .fault ∧ off = 0x104 then (cOK, s.rmData r)
  else
    match p with
    | .loop c => if off = 0x714 then s.traceRead r c else (cOK, s.readOwn r p off, s)
    | _ => (cOK, s.readOwn r p off, s)

/-! Writes. -/

/-- What a write stores by the field types of the register's row (rule R14). An undefined offset discards it (rule R53). -/
def State.storeReg (s : State) (p : Page) (off : Nat) (v : Word) : State :=
  match findReg p off with
  | none => s
  | some d =>
    let a := p.base + off
    let old := s.reg a
    let kept := (old &&& ~~~ w32 d.rw) ||| (v &&& w32 d.rw)
    s.setReg a ((kept &&& ~~~ (v &&& w32 d.w1c)) ||| (v &&& w32 d.w1s))

/-- The value that a register would hold, with its writable bits alone. -/
def writable (p : Page) (off : Nat) (v : Word) : Word :=
  match findReg p off with
  | none => 0
  | some d => v &&& w32 d.rw

/-- A plain write. -/
def State.store (s : State) (p : Page) (off : Nat) (v : Word) : Nat × State := (cOK, s.storeReg p off v)

/-- A write that only the management controller makes; any other is discarded and completes with ARG. -/
def State.mgmtStore (s : State) (r : Requester) (p : Page) (off : Nat) (v : Word) (bad : Bool) : Nat × State :=
  if r ≠ .mgmt ∨ bad then (cARG, s) else s.store p off v

/-- A write that a condition refuses with ARG. -/
def State.storeIf (s : State) (ok : Bool) (p : Page) (off : Nat) (v : Word) : Nat × State := if ok then s.store p off v else (cARG, s)

/-- Whether a write of an enabled unit's configuration clears EN (bit 0) alone. -/
def clearsEn (old new : Word) : Bool := new == setBit old 0 false

/-- A write to a configuration register of a unit whose EN is bit 0 of `cfg` (rules R131, R135, R137): refused while EN is 1, except one
that clears EN alone. -/
def State.storeUnit (s : State) (p : Page) (cfg off : Nat) (v : Word) (bad : Bool) : Nat × State :=
  let c := s.reg (p.base + cfg)
  if bit c 0 && !(off == cfg && clearsEn c (writable p off v)) then (cARG, s)
  else if bad then (cARG, s)
  else s.store p off v

/-- A write of the common header (rules R49–R51). -/
def State.writeHeader (s : State) (p : Page) (off : Nat) (v : Word) : Nat × State :=
  match off with
  | 0x1C => (cOK, s.setReg (p.base + 0x14) (s.reg (p.base + 0x14) &&& ~~~ v))
  | 0x24 => (cOK, if bit v 31 then (s.setReg (p.base + 0x24) 0x00FF0000).setReg (p.base + 0x28) 0 else s)
  | _ => s.store p off v

def State.writeTime (s : State) (r : Requester) (off : Nat) (v : Word) : Nat × State :=
  let n := (off - 0x100) / 0x20
  if off < 0x200 then
    match off % 0x20 with
    | 0x04 => s.writeAddFrac r n v
    | 0x08 => s.writeAddInt r n v
    | 0x0C => s.writeStepLo r n v
    | 0x10 => s.writeStepHi r n v
    | _ => (cOK, s)
  else if off = 0x200 then (cOK, if bit v 0 then s.capture else s)
  else if off = 0x2C8 then s.storeIf (fld v 0 3 < 6 && fld v 4 3 < 6) .time off v
  else s.store .time off v

def State.writeSlots (s : State) (r : Requester) (off : Nat) (v : Word) : Nat × State :=
  let k := fld (s.own r 0x2100) 0 8
  if off = 0x100 then (cOK, s.setOwn r 0x2100 (v &&& 0xFF))
  else if off = 0x104 then s.writeSlotCfg k v
  else if 0x108 ≤ off ∧ off < 0x120 then s.writeSlotW k ((off - 0x104) / 4) v
  else s.store .slots off v

/-- The depths that IDLE_d may name for domain `d` (rules R415, R441): domains 2 and 30 keep their state, domain 31 does not. -/
def idleDepthOk (d depth : Nat) : Bool := (depth == 1 && d != 31) || (depth == 2 && d != 2 && d != 30)

/-- DESIGN CHOICE, assumption 20. -/
def State.writePower (s : State) (r : Requester) (off : Nat) (v : Word) : Nat × State :=
  if off = 0x100 then (if r ≠ .mgmt then (cARG, s) else s.writePwrReq v)
  else if off = 0x108 then s.mgmtStore r .power off v (fld v 0 16 == 0 || 10000 < fld v 0 16)
  else if off = 0x118 then s.mgmtStore r .power off v false
  else if 0x208 ≤ off ∧ off < 0x280 then s.mgmtStore r .power off v (!idleDepthOk ((off - 0x200) / 4) (fld v 20 2))
  else if off = 0x128 then (cOK, if v = 0 then s else s.wakeEvent 3 v.toNat)
  else if off = 0x12C then (cOK, if fld v 0 4 = 0 then s else s.wakeEvent 3 (fld v 0 4 * 2 ^ 32))
  else s.store .power off v

/-- The alarm configuration moves only toward more protection (rules R406, R410, R411). DEDUCED, assumption 19. -/
def State.writeAlarm (s : State) (r : Requester) (off : Nat) (v : Word) : Nat × State :=
  let old := s.reg (0x4000 + off)
  if off < 0x118 then
    s.mgmtStore r .alarm off v (fld v 0 2 == 3 || fld v 0 2 < fld old 0 2 || (bit old 2 && !bit v 2))
  else if off = 0x118 then
    let bad := fun lo top => fld v lo 8 == 0 || top < fld v lo 8 || fld old lo 8 < fld v lo 8
    s.mgmtStore r .alarm off v (bad 0 255 || bad 8 255 || bad 16 97)
  else if (0x11C ≤ off ∧ off < 0x138) ∨ off = 0x140 ∨ (0x200 ≤ off ∧ off < 0x300) then s.mgmtStore r .alarm off v false
  else (cOK, s)

/-- FLT_CLR: the records, HEAD and LOST become 0 (rule R462). -/
def State.faultClear (s : State) : State :=
  (({ s with regs := Cells.clear s.regs 0x5800 0x800 }).setReg 0x510C 0).setReg 0x5114 0

/-- DEDUCED, assumption 19. -/
def State.writeFault (s : State) (r : Requester) (off : Nat) (v : Word) : Nat × State :=
  match off with
  | 0x100 => (cOK, s.setOwn r 0x5100 (v &&& 0x1FFF))
  | 0x11C => s.mgmtStore r .fault off v (4 < fld v 0 3)
  | 0x124 => s.mgmtStore r .fault off v (fld v 0 16 == 0)
  | 0x128 => (s.mgmtStore r .fault off v (fld v 4 8 < 2)).map id fun t => if r = .mgmt ∧ 2 ≤ fld v 4 8 ∧ bit v 0 then t.kick else t
  | 0x12C => (cOK, if bit v 0 then s.faultClear else s)
  | _ => s.store .fault off v

/-- ACL_CLR: the entries, HEAD and LOST become 0; TOTAL is kept (rule R57). -/
def State.aclClear (s : State) : State :=
  (({ s with regs := Cells.clear s.regs 0x6400 0x400 }).setReg 0x6100 0).setReg 0x6108 0

/-- A write of CTX_CMD (rules R323, R348, R350, R354); bits set together act in the order of their numbers until one is refused. DESIGN CHOICE, assumption 20. -/
def State.ctxCmd (s : State) (r : Requester) (v : Word) : Nat × State :=
  let c := s.ctxSel r
  let act := fun (q : Nat × State) (b : Nat) (f : State → Nat × State) => if q.1 ≠ cOK ∨ !bit v b then q else f q.2
  if r ≠ .mgmt ∧ fld v 1 2 ≠ 0 then (cARG, s)
  else
    let q := act (cOK, s) 0 fun s => if s.domain 2 ≠ 2 then (cOFF_DOMAIN, s) else s.start c
    let q := act q 1 fun s =>
      if (s.ctx c).state = .free ∨ (s.ctx c).state = .faulted then (cARG, s) else (cOK, s.tearDown c cTEARDOWN 0xFFFFFF)
    act q 2 fun s => s.restartCtx c

/-- The ledger entries of one descriptor (rule R361). -/
def ledgerCount (k : EngClass) (d : List Word) : Nat :=
  let op := k.opcode d
  if op = 0x64 then ceilDiv (tM d) 352
  else if op = 0x38 ∨ op = 0x39 ∨ op = 0xC3 ∨ op = 0xC4 then 1
  else 0

/-- The entries that an invocation of a context could write (rule R361). -/
def ledgerMost (x : Ctx) : Nat :=
  let one := (x.lists.map fun l => (l.descs.map (ledgerCount (listClass l.code))).sum).sum
  if x.batch then one * x.members + 2 else one + 1

/-- A write of a context's register that `hg` holds. -/
def State.writeCtxReg (s : State) (r : Requester) (off : Nat) (v : Word) : Nat × State :=
  let c := s.ctxSel r
  let x := s.ctx c
  let rcount := fun w rc : Nat => (s.hg c w - s.hg c rc).toNat < (v - s.hg c rc).toNat
  match off with
  | 0x130 => if r ≠ .mgmt then (cARG, s) else (cOK, s.setHg c off v)
  | 0x134 => if r ≠ .mgmt ∨ fld v 0 24 >>> x.members ≠ 0 then (cARG, s) else (cOK, s.setHg c off (v &&& 0xFFFFFF))
  | 0x140 | 0x144 =>
    if x.state = .running ∨ x.state = .faulted then (cARG, s)
    else (cOK, s.setHg c off (v &&& (if off = 0x140 then 0xFFFFF000 else 0xF)))
  | 0x148 | 0x30C =>
    let n := fld v 0 17
    if n < 16 ∨ 65536 < n then (cARG, s) else (cOK, s.setHg c off (w32 n))
  | 0x150 => if rcount 0x14C 0x150 then (cARG, s) else (cOK, s.setHg c off v)
  | 0x300 =>
    let m := fld v 0 2
    if r ≠ .mgmt ∨ m = 3 ∨ x.state = .running ∨ x.pend.isSome ∨ (m = 2 ∧ s.reg 0x5A600 ≠ 0) ∨ (m ≠ 0 ∧ 256 < ledgerMost x) then (cARG, s)
    else (cOK, s.setHg c off (w32 m))
  | 0x304 => (cOK, s.setHg c off (v &&& 0xFFFFFFC0))
  | 0x308 => (cOK, s.setHg c off (v &&& 0xF))
  | 0x310 => if s.rpMode c ≠ 2 then (cARG, s) else (cOK, s.setHg c off v)
  | 0x314 => if rcount 0x310 0x314 then (cARG, s) else (cOK, s.setHg c off v)
  | 0x31C => (cOK, s.setHg c off (s.hg c off &&& ~~~ (v &&& 3)))
  | _ => (cOK, s)

def State.writeHeadgate (s : State) (r : Requester) (off : Nat) (v : Word) : Nat × State :=
  if off = 0x114 then (cOK, s.setOwn r 0x10114 (v &&& 0x3F))
  else if off = 0x118 then s.ctxCmd r v
  else if off = 0x160 then (cOK, if bit v 0 then s.acctSnap (s.ctxSel r) (bit v 1) else s)
  else if (0x120 ≤ off ∧ off < 0x158) ∨ (0x300 ≤ off ∧ off < 0x330) then s.writeCtxReg r off v
  else if off = 0x340 then s.storeIf (fld v 0 4 < 9) .headgate off v
  else if off = 0x354 then s.writeCkCmd v
  else s.store .headgate off v

/-- ALLOC and FREE of G_ALLOC (rules R346, R355). DESIGN CHOICE, assumption 20. -/
def State.gateAlloc (s : State) (g : Nat) : Nat × State :=
  if 1023 < g ∨ (s.gate g).sys then (cARG, s) else (cOK, s.setGate g { s.gate g with count := 0, sys := true })

/-- DESIGN CHOICE, assumption 20. -/
def State.gateFree (s : State) (g : Nat) : Nat × State :=
  if 1023 < g ∨ !(s.gate g).sys then (cARG, s) else (cOK, s.setGate g { s.gate g with sys := false })

/-- G_SIGNAL from a requester (rules R342, R355). -/
def State.gateSignal (s : State) (r : Requester) (g : Nat) (n : Word) : Nat × State :=
  if n = 0 then (cARG, s)
  else if (r = .host ∨ r = .debug) ∧ s.gateOwner g ≠ 0x7F then (cARG, s)
  else (cOK, s.signal g n.toNat)

def State.writeGates (s : State) (r : Requester) (w off : Nat) (v : Word) : Nat × State :=
  let g := s.gateSel r w
  let x := s.gate g
  let own := fun (q : Nat × State) => if r ≠ .mgmt then (cARG, s) else q
  match off with
  | 0x100 => (cOK, s.setOwn r (0x12100 + 0x1000 * w) (v &&& 0x1FFFF))
  | 0x108 => own (cOK, s.setGate g { x with consume := bit v 0, resetInv := bit v 1, sat := x.sat && !bit v 3 })
  | 0x10C => own (cOK, s.setGate g { x with init := v })
  | 0x110 => own (cOK, s.setGate g { x with timeout := BitVec.ofNat 24 v.toNat })
  | 0x114 => s.gateSignal r g v
  | 0x11C => own (
      let q := if bit v 0 then s.gateAlloc g else (cOK, s)
      if q.1 = cOK ∧ bit v 1 then q.2.gateFree g else q)
  | _ => (cOK, s)

/-- A write of a profile's half (rules R103, R286): the high half commits with the pending low half, or the low half in force. DESIGN CHOICE, assumption 20. -/
def State.writeProfile (s : State) (r : Requester) (n off : Nat) (v : Word) : Nat × State :=
  let a := Page.base (.lane n) + off
  if r ≠ .mgmt then (cARG, s)
  else if off % 8 = 0 then (cOK, s.setHalf r a (some v))
  else
    let lo := (s.half r (a - 4)).getD (s.reg (a - 4))
    let x := v.toNat * 2 ^ 32 + lo.toNat
    let s := s.setHalf r (a - 4) none
    let nan := 0x7FF0000000000000 < x % 2 ^ 63
    if nan ∨ (2 ^ 63 < x) then (cARG, s) else (cOK, (s.setReg (a - 4) lo).setReg a v)

def State.writeLane (s : State) (r : Requester) (n off : Nat) (v : Word) : Nat × State :=
  if 0x200 ≤ off ∧ off < 0x280 then s.writeProfile r n off v
  else if off = 0x280 then s.mgmtStore r (.lane n) off v false
  else s.store (.lane n) off v

/-- A write of a loop page (rules R312, R320): CTRL, CMD and the RW registers go to the channel. -/
def State.writeLoop (s : State) (r : Requester) (c off : Nat) (v : Word) : Nat × State :=
  if off = 0x710 then (cOK, s.setOwn r (loopBase c + 0x710) (v &&& 0x7FFF))
  else
    match (loopRegs.find? fun d => d.has off) with
    | none => (cOK, s)
    | some d => s.loopWrite r c off (v &&& w32 d.rw)

def State.writeEth (s : State) (n off : Nat) (v : Word) : Nat × State :=
  if off = 0x118 ∨ off = 0x11C ∨ off = 0x120 then s.storeUnit (.eth n) 0x118 off v false
  else if off = 0x128 then s.writeMdioCmd n v
  else if off = 0x130 then s.storeIf (16 ≤ fld v 0 8) (.eth n) off v
  else s.store (.eth n) off v

def State.writeSerial (s : State) (off : Nat) (v : Word) : Nat × State :=
  let cfg := off / 0x20 * 0x20
  let bad := if off < 0x180 then
      (match off % 0x20 with
      | 0x0 => fld v 6 2 == 3
      | 0x4 => fld v 0 16 < 10
      | 0x8 => fld v 0 13 == 0 || 4096 < fld v 0 13
      | _ => fld v 0 20 == 0 || 1000000 < fld v 0 20)
    else
      (match off % 0x20 with
      | 0x0 => fld v 1 2 == 3 || fld v 5 2 == 3 || 16 < fld v 7 5
      | 0x4 => fld v 0 20 < 256
      | _ => fld v 0 8 < 2 || fld v 16 13 == 0 || 4096 < fld v 16 13)
  if off < 0x1C0 then (if (findReg .serial off).isSome then s.storeUnit .serial cfg off v bad else (cOK, s))
  else s.store .serial off v

/-- Whether a bit timing exceeds its rate: `least` protocol-clock cycles per bit, or an SJW above TSEG2 (rule R138). -/
def timingBad (least brp t1 t2 sjw : Nat) : Bool := (brp + 1) * (3 + t1 + t2) < least || t2 < sjw

def State.writeCanReg (s : State) (r : Requester) (off : Nat) (v : Word) : Nat × State :=
  let sel := s.own r 0x59600
  let c := fld sel 0 2
  let b := fld sel 4 4
  let ctrl := (off - 0x500) / 0x20
  let en := bit (s.reg (canBase ctrl)) 0
  let buf := fun (w : Nat) (v : Word) => if bit (s.reg (0x59680 + 4 * c)) b then (cARG, s) else (cOK, s.setCanBufW c b w v)
  if off = 0x600 then (cOK, s.setOwn r 0x59600 (v &&& 0xF3))
  else if off = 0x604 then buf 0 v
  else if off = 0x608 then (if 8 < fld v 0 4 ∧ !bit (s.canBufW c b 0) 30 then (cARG, s) else buf 1 (v &&& 0xF))
  else if 0x640 ≤ off ∧ off < 0x680 then buf (2 + (off - 0x640) / 4) v
  else if 0x680 ≤ off ∧ off < 0x690 then (if mayTransmit r then s.store .can off v else (cARG, s))
  else if 0x690 ≤ off ∧ off < 0x6A0 then s.txAbort r ((off - 0x690) / 4) v.toNat 0
  else if 0x500 ≤ off ∧ off < 0x580 then
    match off % 0x20 with
    | 0x4 => s.storeIf (!en && !timingBad 80 (fld v 0 9) (fld v 9 8) (fld v 17 7) (fld v 24 7)) .can off v
    | 0x8 => s.storeIf (!en && !timingBad 10 (fld v 0 5) (fld v 8 5) (fld v 16 4) (fld v 24 4)) .can off v
    | 0xC => s.storeIf (!en) .can off v
    | _ => s.store .can off v
  else s.store .can off v

/-- A write of the CAN page (rule R138); what contends for each bus follows it. -/
def State.writeCan (s : State) (r : Requester) (off : Nat) (v : Word) : Nat × State :=
  let q := s.writeCanReg r off v
  (q.1, q.2.canNotes)

/-- EXTEST or CLAMP while an ACT_EN bit is 1 executes as BYPASS and counts in REFUSED (rule R413). DEDUCED, assumption 26. -/
def State.tapBypass (s : State) : State :=
  if s.boot.tap = 0 ∨ s.reg 0x5A600 = 0 then s else { s.bump 0x7610C 1 with boot := { s.boot with tap := 0 } }

/-- A write of the field I/O page (rules R139–R145). -/
def State.writeField (s : State) (r : Requester) (off : Nat) (v : Word) : Nat × State :=
  let k := (off - 0x300) / 0x20
  if off = 0x600 then
    let q := s.mgmtStore r .field off v false
    (q.1, q.2.tapBypass)
  else if off = 0x608 then (cOK, s.pwmSyncWrite (fld v 0 24))
  else if off < 0x200 ∨ 0x600 ≤ off then s.store .field off v
  else if off < 0x300 then s.storeIf (off % 0x20 != 0 || fld v 3 3 < 5) .field off v
  else
    match off % 0x20 with
    | 0x0 => s.writePcfg k v
    | 0x4 => s.storeIf (2 ≤ fld v 0 24) .field off v
    | 0x8 => s.writeDuty k v
    | _ => s.store .field off v

def State.writeIngest (s : State) (off : Nat) (v : Word) : Nat × State :=
  let i := (off - 0x100) / 0x40
  if 0xE00 ≤ off then s.storeIf (off % 0x20 != 0 || !(bit v 0 && fld v 1 2 == 0)) .ingest off v
  else
    match off % 0x40 with
    | 0x0 | 0x4 | 0x8 | 0xC => s.writeRingShape i (off % 0x40) v
    | 0x10 => s.writeRingCtrl i v
    | 0x1C => s.writeRcount i v
    | _ => s.store .ingest off v

def State.writeGmap (s : State) (off : Nat) (v : Word) : Nat × State :=
  let en := bit (s.reg 0x64108) 0
  let lo := sext 16 (fld v 0 16)
  let hi := sext 16 (fld v 16 16)
  match off with
  | 0x100 | 0x104 => s.storeIf (!en) .gmap off v
  | 0x108 => s.writeMapCtrl v
  | 0x10C => s.storeIf (!en && decide (lo ≤ 0) && decide (0 ≤ hi) && decide (lo ≤ hi)) .gmap off v
  | _ => s.store .gmap off v

/-- A write of a block-specific register of a page. -/
def State.writeOwn (s : State) (r : Requester) (p : Page) (off : Nat) (v : Word) : Nat × State :=
  match p with
  | .time => s.writeTime r off v
  | .slots => s.writeSlots r off v
  | .power => s.writePower r off v
  | .alarm => s.writeAlarm r off v
  | .fault => s.writeFault r off v
  | .acl => (cOK, if off = 0x10C ∧ bit v 0 then s.aclClear else s)
  | .headgate => s.writeHeadgate r off v
  | .sgw w => s.writeGates r w off v
  | .lane n => s.writeLane r n off v
  | .loop c => s.writeLoop r c off v
  | .csi _ => if off = 0x100 ∨ off = 0x108 then s.storeUnit p 0x100 off v (off == 0x100 && fld v 1 2 == 3) else s.store p off v
  | .eth n => s.writeEth n off v
  | .serial => s.writeSerial off v
  | .can => s.writeCan r off v
  | .field => s.writeField r off v
  | .ingest => s.writeIngest off v
  | .mc _ => s.storeIf (off != 0x11C || fld v 8 8 != 0) p off v
  | .gmap => s.writeGmap off v
  | .rate => if off = 0x134 then (cOK, if bit v 0 then s.minClear else s) else s.store p off v
  | .tel => (cOK, if off = 0x100 ∧ bit v 0 then s.telSnap else s)
  | .perf =>
    if off = 0x120 ∨ off = 0x128 ∨ off = 0x12C then
      (if r ≠ .mgmt then (cARG, s)
       else if off = 0x120 then s.writePerfReq v else if off = 0x128 then s.writePerfLimit v
       else s.storeIf (!throtBad v) p off v)
    else (cOK, s)
  | .pmb | .dbg => if off = 0x100 then s.mgmtStore r p off v false else (cOK, s)
  | .att => (cOK, if off = 0x108 then s.setOwn r 0x75108 (v &&& 0x3F) else s)
  | _ => s.store p off v

/-- A write that a block serves. CTRL of a loop channel belongs to the channel. -/
def State.serveWrite (s : State) (r : Requester) (p : Page) (off : Nat) (v : Word) : Nat × State :=
  match p with
  | .loop c => if off = 0xC then s.writeLoop r c off v else if off < 0x100 then s.writeHeader p off v else s.writeOwn r p off v
  | _ => if off < 0x100 then s.writeHeader p off v else s.writeOwn r p off v

/-! The interconnect (rules R44–R57, R481). -/

/-- The access log takes an access (rule R56). -/
def State.logAccess (s : State) (r : Requester) (a : Nat) (write : Bool) (code : Nat) : State :=
  let w0 := w32 (a + write.toNat * 2 ^ 20 + (match r with
    | .mgmt => 0 | .host => 1 | .debug => 2 | .slot => 3) * 2 ^ 21 + code * 2 ^ 24)
  let head := s.rf 0x6100 0 6
  let last := 0x6400 + 16 * ((head + 63) % 64)
  let s := s.bump 0x6104 1
  if s.reg last = w0 then
    (s.setReg (last + 4) s.stamp).setRf (last + 8) 0 16 (satAdd 0xFFFF (s.rf (last + 8) 0 16) 1)
  else
    let e := 0x6400 + 16 * head
    let s := if s.reg e ≠ 0 then (s.bump 0x6108 1).intRaise .acl 1 else s
    let s := ((s.setReg e w0).setReg (e + 4) s.stamp).setReg (e + 8) 0
    (s.setReg 0x6100 (w32 ((head + 1) % 64))).intRaise .acl 0

/-- Whether DBG_POLICY forbids the debug port an access (rule R414). -/
def State.debugForbids (s : State) (a : Nat) (write : Bool) : Bool :=
  let p := s.reg 0x76100
  if write then !(bit p 1 && bit p (2 + regionOf a)) else !bit p 0

/-- The code with which the interconnect ends an access before any block serves it, if it does (steps 1, 2, 3 and 5). DEDUCED, assumption 19. -/
def State.settled (s : State) (r : Requester) (a : Access) (write : Bool) : Option Nat :=
  let n := a.addr.toNat
  if !a.word ∨ n % 4 ≠ 0 then some cWIDTH
  else
    match pageAt n with
    | none => some cNO_PAGE
    | some p =>
      let off := n % 4096
      if r = .debug ∧ s.debugForbids n write then some cARG
      else if !write ∧ (off = 0x0 ∨ off = 0x4 ∨ off = 0x8 ∨ off = 0x2C) then none
      else
        let st := s.pwrState p
        if st < 2 ∨ (st = 4 ∧ s.power.agreed.contains p.domain) then some cOFF_DOMAIN else none

/-- An access that no block serves: its record in the access log, or the debug port's count. -/
def State.unserved (s : State) (r : Requester) (a : Nat) (write : Bool) (code : Nat) : State :=
  if code = cOFF_DOMAIN ∨ code = cNO_PAGE then s.logAccess r a write code
  else if code = cARG then s.bump 0x7610C 1
  else s

/-- A register read (rule R481): code, word and state. DEDUCED, assumption 19. -/
def State.readAccess (s : State) (r : Requester) (a : Access) : Nat × Word × State :=
  match s.settled r a false, pageAt a.addr.toNat with
  | some code, _ => (code, 0, s.unserved r a.addr.toNat false code)
  | none, some p => s.serveRead r p (a.addr.toNat % 4096)
  | none, none => (cNO_PAGE, 0, s)

/-- A register write (rule R481): code and state. DEDUCED, assumption 19. -/
def State.writeAccess (s : State) (r : Requester) (a : Access) (v : Word) : Nat × State :=
  match s.settled r a true, pageAt a.addr.toNat with
  | some code, _ => (code, s.unserved r a.addr.toNat true code)
  | none, some p => s.serveWrite r p (a.addr.toNat % 4096) v
  | none, none => (cNO_PAGE, s)

/-- The status, and the word of a read, that the requester receives (rule R45). DESIGN CHOICE, assumption 21. -/
def State.respond (s : State) (r : Requester) (code : Nat) (data : Word) : State :=
  { s with resp := Cells.put responseNone s.resp (reqIdx r) { code := BitVec.ofNat 8 code, data := data } }

/-- A word access at a byte address. -/
def wordAccess (a : Nat) : Access := { addr := BitVec.ofNat 20 a, word := true }

/-- A register write with its answer. -/
def State.regWrite (s : State) (r : Requester) (a : Access) (v : Word) : State :=
  let q := s.writeAccess r a v
  q.2.respond r q.1 0

/-- A register read with its answer. -/
def State.regRead (s : State) (r : Requester) (a : Access) : State :=
  let q := s.readAccess r a
  q.2.2.respond r q.1 q.2.1

end Sys2Proof.Machine
end

