-- ==== Sys2Proof/Machine/SlotFire.lean ====
section
/-! DEFINITION. Machine/SlotFire.lean: the actions of the scheduled-action slots and their firing (rules R110–R115, R437). -/

namespace Sys2Proof.Machine

/-- SAMPLE_TRIGGER: every selected unit that is ON takes its sample; a selected unit that is off, or that the grade disables, makes the
action complete with OFF_DOMAIN (rule R111). DEDUCED, assumption 45. -/
def State.sampleTrigger (s : State) (kind mask : Nat) : Nat × State :=
  if kind = 0 then
    let cs := (List.range 32).filter fun c => nbit mask c
    let on := cs.filter fun c => s.pwrState (.loop c) == 2
    (if on.length = cs.length then cOK else cOFF_DOMAIN, on.foldl State.loopTrigger s)
  else if kind = 1 then
    if mask % 256 = 0 then (cOK, s)
    else if s.domain 31 ≠ 2 then (cOFF_DOMAIN, s)
    else (cOK, s.lowRateTrigger (mask % 256))
  else (cARG, s)

/-- REG_WRITE: one register write with the slot as requester. ARG0 is taken as a byte address; one at or above 1 MiB names no page, and
its low 20 bits are logged. DESIGN CHOICE, assumption 56. -/
def State.slotWriteReg (s : State) (a v : Word) : Nat × State :=
  if a.toNat % 4 = 0 ∧ 0x100000 ≤ a.toNat then (cNO_PAGE, s.logAccess .slot (a.toNat % 0x100000) true cNO_PAGE)
  else s.writeAccess .slot { addr := BitVec.ofNat 20 a.toNat, word := true } v

/-- The action of slot `k`: its status and the state (rule R111). -/
def State.slotAction (s : State) (k : Nat) : Nat × State :=
  let a0 := s.slotW k 5
  let a1 := s.slotW k 6
  match fld (s.slotW k 0) 1 3 with
  | 0 => (cOK, s)
  | 1 => if s.domain 2 ≠ 2 then (cOFF_DOMAIN, s) else s.start (fld a0 0 6)
  | 2 => if s.domain 2 ≠ 2 then (cOFF_DOMAIN, s) else (cOK, s.signal (fld a0 0 17) a1.toNat)
  | 3 => s.outputEdge (fld a0 0 8) (bit a0 8)
  | 4 => s.sampleTrigger (fld a0 28 4) a1.toNat
  | _ => s.slotWriteReg a0 a1

/-- SLOT_FIRE of slot `k` (rules R110–R115): the action, the record with the re-arming, a disarm that came on the same tick, and the wake event of WAKE = 1. DEDUCED, assumption 45. -/
def State.fireSlot (s : State) (k : Nat) : State :=
  if !(s.time.firing.contains k || s.slotDue k) then s
  else
    let wake := bit (s.slotW k 0) 9
    let q := s.slotAction k
    let s := (q.2.slotRecord k q.1).firingOver k
    if wake then s.wakeEvent 2 0 else s

end Sys2Proof.Machine
end

