-- ==== Sys2Proof/Machine/Admission.lean ====
section
/-! DEFINITION. Machine/Admission.lean: graph images, their checks and their admission (rules R322, R329–R338). -/

namespace Sys2Proof.Machine

/-! The image (rules R330, R334, R335). -/

/-- Word at byte offset `o` of an image. -/
def imgW (img : List Byte) (o : Nat) : Word := wordAt img o

/-- `k` entries of `n` words from byte offset `o` on. -/
def imgRows (img : List Byte) (o n k : Nat) : List (List Word) :=
  (List.range k).map fun i => bytesWords n (img.drop (o + 4 * n * i))

/-- The header's counts and offsets. -/
def imgCtxs (img : List Byte) : Nat := fld (imgW img 0) 16 7
def imgSlots (img : List Byte) : Nat := fld (imgW img 12) 0 9
def imgSlotOfs (img : List Byte) : Nat := (imgW img 16).toNat
def imgCtxOfs (img : List Byte) : Nat := (imgW img 20).toNat

/-- Byte offset of declaration `i`. -/
def declAt (img : List Byte) (i : Nat) : Nat := imgCtxOfs img + 64 * i

/-- Word `w` of declaration `i`. -/
def declW (img : List Byte) (i w : Nat) : Word := imgW img (declAt img i + 4 * w)

/-- The entry counts of a declaration's lists, regions and imports, and its placements. -/
def declLists (img : List Byte) (i : Nat) : Nat := fld (declW img i 5) 0 8
def declRegions (img : List Byte) (i : Nat) : Nat := fld (declW img i 5) 8 8
def declImports (img : List Byte) (i : Nat) : Nat := fld (declW img i 5) 16 8
def declPlaces (img : List Byte) (i : Nat) : Nat := fld (declW img i 0) 12 2 + 1

/-- The slot entries of an image. -/
def imgSlotRows (img : List Byte) : List (List Word) := imgRows img (imgSlotOfs img) 8 (imgSlots img)

/-- A declaration as the context that it makes, before its seed and step. -/
def declCtx (img : List Byte) (i : Nat) : Ctx :=
  let w0 := declW img i 0
  let w5 := declW img i 5
  let lists := imgRows img (declW img i 6).toNat 2 (declLists img i)
  let regions := imgRows img (declW img i 7).toNat 2 (declRegions img i)
  let imports := imgRows img (declW img i 8).toNat 2 (declImports img i)
  { ctxReset with
    state := .admitted
    batch := bit w0 6
    members := fld w0 7 5
    wpm := fld w0 14 8
    windows := if fld w5 24 8 = 0 then 256 else fld w5 24 8
    gateBase := fld (declW img i 3) 0 17
    gateCnt := fld (declW img i 4) 0 18
    imports := imports.map fun e =>
      { first := fld (dw e 0) 0 17, count := fld (dw e 1) 0 18, producer := fld (dw e 0) 17 6, sys := bit (dw e 0) 23 }
    regions := regions.map fun e => { ofs := fld (dw e 0) 0 24, basin := fld (dw e 0) 24 4, size := (dw e 1).toNat }
    lists := lists.map fun e =>
      let code := fld (dw e 0) 0 8
      { code := code, descs := imgRows img (dw e 1).toNat (listClass code).words (fld (dw e 0) 8 24) }
    places := (List.range (declPlaces img i)).map fun p =>
      (List.range 16).map fun b => nfld (leNat ((img.drop ((declW img i 9).toNat + 8 * p)).take 8)) (4 * b) 4 }

/-- The context number of a declaration. -/
def declNo (img : List Byte) (i : Nat) : Nat := fld (declW img i 0) 0 6

/-- The numbers and contexts that an image declares. -/
def imgDecls (img : List Byte) : List (Nat × Ctx) := (List.range (imgCtxs img)).map fun i => (declNo img i, declCtx img i)

/-! Checks 1 and 12: format (rules R334, R338). -/

/-- The declarations that lie in the image. -/
def declsIn (img : List Byte) : List Nat := (List.range (imgCtxs img)).filter fun i => declAt img i + 64 ≤ img.length

/-- Pairs of a word's byte offset and the mask of its bits that the format marks 0, in the header, the declarations and their
tables. -/
def zeroMasks (img : List Byte) : List (Nat × Nat) :=
  [(0, 0xFF800000), (4, 0x80000000), (12, 0xFFFFFE00)] ++ (List.range 9).map (fun i => (28 + 4 * i, allOnes)) ++
  (declsIn img).flatMap fun i =>
    let a := declAt img i
    [(a, 0xFFC00000)] ++ (List.range 6).map (fun w => (a + 40 + 4 * w, allOnes)) ++
    (List.range (declRegions img i)).map (fun k => ((declW img i 7).toNat + 8 * k, 0xF0000000)) ++
    (List.range (declImports img i)).flatMap fun k =>
      [((declW img i 8).toNat + 8 * k, 0xFF000000)]

/-- The same of slot entries. -/
def slotMasks (img : List Byte) : List (Nat × Nat) :=
  (List.range (imgSlots img)).flatMap fun i =>
    let a := imgSlotOfs img + 32 * i
    [(a + 8, 0x00808080), (a + 20, 0xFFFFFE00), (a + 24, allOnes), (a + 28, allOnes)]

/-- The byte of its word in which a field begins. -/
def fieldByte (m : Nat) : Nat := if m % 256 ≠ 0 then 0 else if m % 65536 ≠ 0 then 1 else if m % 2 ^ 24 ≠ 0 then 2 else 3

/-- The byte offsets of the fields, each a word's offset and a mask, whose bits are not 0. -/
def maskFaults (img : List Byte) (l : List (Nat × Nat)) : List Nat :=
  (l.filter fun p => imgW img p.1 &&& w32 p.2 != 0).map fun p => p.1 + fieldByte p.2

/-- The device's own minor version of the image format (DESIGN CHOICE, assumption 13). -/
def ownMinor : Nat := 0

/-- Check 1 of rule R338. DESIGN CHOICE, assumption 13. -/
def check1 (img : List Byte) : Bool :=
  fld (imgW img 0) 8 8 != 1 || (ownMinor < fld (imgW img 0) 0 8 && maskFaults img (zeroMasks img ++ slotMasks img) != [])

/-- The offsets of the malformed fields of an image other than bits that must be 0. DEDUCED, assumption 39. -/
def formFaults (img : List Byte) : List Nat :=
  let n := img.length
  let past := fun o k size => decide (k ≠ 0) && decide (n < (imgW img o).toNat + k * size)
  (if imgCtxs img = 0 ∨ 64 < imgCtxs img then [2] else []) ++ (if imgSlots img = 0 ∨ 256 < imgSlots img then [12] else []) ++
  (if past 16 (imgSlots img) 32 then [16] else []) ++ (if past 20 (imgCtxs img) 64 then [20] else []) ++
  (declsIn img).flatMap fun i =>
    let a := declAt img i
    let w0 := declW img i 0
    let mem := fld w0 7 5
    (if (bit w0 6 && (mem == 0 || 24 < mem)) || (!bit w0 6 && mem != 0) then [a] else []) ++
    (if (declW img i 4).toNat % 2 ^ 18 = 0 ∨ 130048 < (declW img i 4).toNat % 2 ^ 18 then [a + 16] else []) ++
    (if past (a + 24) (declLists img i) 8 then [a + 24] else []) ++ (if past (a + 28) (declRegions img i) 8 then [a + 28] else []) ++
    (if past (a + 32) (declImports img i) 8 then [a + 32] else []) ++ (if past (a + 36) (declPlaces img i) 8 then [a + 36] else []) ++
    (List.range (declLists img i)).flatMap fun k =>
      let e := (declW img i 6).toNat + 8 * k
      let code := fld (imgW img e) 0 8
      if (engClass code).isNone then [e]
      else if past (e + 4) (fld (imgW img e) 8 24) (4 * (listClass code).words) then [e + 4] else []

/-- The smallest of a list of offsets. -/
def leastOf (l : List Nat) : Option Nat := l.foldl (fun m a => some (min a (m.getD a))) none

/-- Check 12: the DETAIL that refuses the image, if one does. `seeds` is the length of the payload's part for contexts. DEDUCED, assumption 39. -/
def check12 (img : List Byte) (seeds : Nat) : Option Nat :=
  if (imgW img 24).toNat ≠ img.length then some 0xFFFFFFFF
  else
    match leastOf (formFaults img ++ maskFaults img (zeroMasks img)) with
    | some o => some o
    | none => if seeds ≠ 16 * imgCtxs img then some 0xFFFFFFFF else none

/-! Checks 2 to 5. -/

/-- The logical basins or lanes that the repair map maps. -/
def State.mappedUnits (s : State) (lane : Bool) : Nat :=
  (List.range (if lane then 9 else 18)).countP fun p => fld (s.rm (if lane then laneWord p else basinWord p)) 0 2 == 1

/-- The loop channels that the grade enables and the repair map does not hold LOST. -/
def State.loopsMapped (s : State) : Nat := (ones 32 s.grade.loops.toNat).countP fun c => !bit (s.rm (31 + c)) 3

/-- Check 2: resource × 65,536 + count needed. -/
def State.check2 (s : State) (img : List Byte) : Option Nat :=
  let w := imgW img 4
  let need := [fld w 0 5, fld w 5 4, fld w 9 6, fld w 15 5]
  let have_ := [s.mappedUnits false, s.mappedUnits true, s.loopsMapped, 4 * countOnes 6 s.grade.csi.toNat]
  ((List.range 4).find? fun i => have_.getD i 0 < need.getD i 0).map fun i => i * 65536 + need.getD i 0

/-- The engines of a slot entry. -/
def slotEngines (w : List Word) : List Nat := (List.range 0x49).filter (slotCovers w)

/-- Whether two static slots overlap in time on an engine (rule R331). -/
def slotsClash (a b : List Word) : Bool :=
  !slotOpen a && !slotOpen b && (dw a 0).toNat < (dw b 0).toNat + (dw b 1).toNat &&
  (dw b 0).toNat < (dw a 0).toNat + (dw a 1).toNat && (List.range 0x49).any fun e => slotCovers a e && slotCovers b e

/-- Whether a slot entry breaks rule R330 or R331 by itself; `batch` tells a context's kind. -/
def slotBadEntry (frame : Nat) (batch : Nat → Option Bool) (w : List Word) : Bool :=
  fld (dw w 2) 7 1 != 0 || fld (dw w 2) 15 1 != 0 || fld (dw w 2) 23 1 != 0 || fld (dw w 5) 9 23 != 0 || dw w 6 != 0 || dw w 7 != 0 ||
  dw w 1 == 0 || frame < (dw w 0).toNat + (dw w 1).toNat || !bit (dw w 2) 6 ||
  (slotCtxs w).any fun c => match batch c with
    | some b => b != slotOpen w
    | none => false

/-- Check 5: the slot index. -/
def State.check5 (s : State) (img : List Byte) : Option Nat :=
  let frame := (imgW img 8).toNat
  let rows := imgSlotRows img
  let decls := imgDecls img
  let old := s.slotEntries
  let batch := fun c => match decls.find? fun d => d.1 == c with
    | some d => some d.2.batch
    | none => if (s.ctx c).state = .free then none else some (s.ctx c).batch
  if !s.head.images.isEmpty && (s.reg 0x10100).toNat != frame then some 0
  else if (old.findIdx? fun w => (slotCtxs w).any fun c => decls.any fun d => d.1 == c && d.2.batch != slotOpen w).isSome then
    old.findIdx? fun w => (slotCtxs w).any fun c => decls.any fun d => d.1 == c && d.2.batch != slotOpen w
  else
    (rows.zipIdx.find? fun p => slotBadEntry frame batch p.1 || old.any (slotsClash p.1) ||
      (rows.take p.2).any (slotsClash p.1)).map (·.2)

/-! Checks 6 to 8. -/

/-- Whether two ranges overlap. -/
def rangesMeet (a n b m : Nat) : Bool := a < b + m && b < a + n

/-- The contexts admitted before. -/
def State.oldCtxs (s : State) : List (Nat × Ctx) := s.head.ctxs.filter fun p => p.2.state ≠ .free

/-- Check 6: the context. -/
def State.check6 (s : State) (decls : List (Nat × Ctx)) : Option Nat :=
  let old := s.oldCtxs
  (decls.zipIdx.find? fun p =>
    let c := p.1.1
    let x := p.1.2
    let others := old ++ decls.take p.2
    others.any (fun o => o.1 == c || rangesMeet x.gateBase x.gateCnt o.2.gateBase o.2.gateCnt) ||
    x.gateBase < 1024 || 131072 < x.gateBase + x.gateCnt ||
    x.imports.any fun i =>
      if i.sys then 1024 < i.first + i.count
      else
        match (old ++ decls).find? fun o => o.1 == i.producer with
        | some o => i.first < o.2.gateBase || o.2.gateBase + o.2.gateCnt < i.first + i.count
        | none => true).map fun p => p.1.1

/-- The regions of a context under a placement, as logical basin, offset and size. -/
def placedRegions (x : Ctx) (p : Nat) : List (Nat × Nat × Nat) := x.regions.map fun r => (placed x p r.basin, r.ofs, r.size)

/-- Check 7: logical basin × 2²⁴ + end of the region. -/
def State.check7 (s : State) (decls : List (Nat × Ctx)) : Option Nat :=
  let old := s.oldCtxs
  decls.zipIdx.findSome? fun d =>
    let x := d.1.2
    let others := (old ++ decls.take d.2).flatMap fun o => (List.range o.2.places.length).flatMap fun p => placedRegions o.2 p
    (List.range x.places.length).findSome? fun p =>
      let l := placedRegions x p
      (l.zipIdx.find? fun r =>
        0xC00000 < r.1.2.1 + r.1.2.2 ||
        (others ++ l.take r.2).any fun o => o.1 == r.1.1 && rangesMeet r.1.2.1 r.1.2.2 o.2.1 o.2.2).map fun r =>
          r.1.1 * 2 ^ 24 + r.1.2.1 + r.1.2.2

/-- Check 8: context × 256 + placement. -/
def check8 (rows : List (List Word)) (decls : List (Nat × Ctx)) : Option Nat :=
  decls.findSome? fun d =>
    let x := d.2
    let covers := fun e => rows.any fun w => (slotCtxs w).contains d.1 && slotCovers w e
    ((List.range x.places.length).find? fun p => (usedBasins x).any fun b =>
      let lb := placed x p b
      let array := x.lists.any fun l => l.code == b
      let vector := x.lists.any fun l => l.code == 0x10 + b
      (array && !covers lb) || (vector && !covers (0x10 + lb)) || (!array && !vector && !covers lb && !covers (0x10 + lb))).map
        fun p => d.1 * 256 + p

/-! Checks 9 and 10. -/

/-- The code of a descriptor's checks at admission, of list code `code` under placement `p` (rule R184). -/
def State.descCheck (s : State) (x : Ctx) (p code : Nat) (d : List Word) : Nat :=
  let pl := placed x p
  match listClass code with
  | .pump => pumpCheck x d
  | .map => mapCheck (gateInRange x) pl s.logicalBasins d
  | .solver =>
    if fld (dw d 1) 24 3 ≠ code - 0x40 then cARG
    else if laneCheck (gateInRange x) s.logicalLanes d ≠ cOK then laneCheck (gateInRange x) s.logicalLanes d
    else if s.logicalLanes ≤ code - 0x40 then cBOUNDS else cOK
  | k => if fld (dw d 1) 24 4 ≠ code % 16 then cARG else tileCheck k (gateInRange x) pl s.logicalBasins d

/-- Check 9: the code and the LCN. -/
def State.check9 (s : State) (decls : List (Nat × Ctx)) : Option (Nat × Nat) :=
  decls.findSome? fun c => c.2.lists.findSome? fun l => l.descs.findSome? fun d =>
    (List.range c.2.places.length).findSome? fun p =>
      let code := s.descCheck c.2 p l.code d
      if code = cOK then none else some (code, (listClass l.code).lcn d)

/-- The engines of a list under every placement. -/
def listEngines (x : Ctx) (code : Nat) : List Nat :=
  if code < 0x20 then (List.range x.places.length).map fun p => code / 16 * 16 + placed x p (code % 16) else [code]

/-- The gates that a context's descriptors wait on or signal, each with an engine. -/
def gateUses (x : Ctx) (waits : Bool) : List (Nat × Nat) :=
  x.lists.flatMap fun l =>
    let k := listClass l.code
    l.descs.flatMap fun d => (gatesAt d (if waits then k.waitAt else k.sigAt)).flatMap fun g =>
      (listEngines x l.code).map fun e => (g.1, e)

/-- Check 10: the gate. -/
def State.check10 (s : State) (rows : List (List Word)) (decls : List (Nat × Ctx)) : Option Nat :=
  let all := (s.oldCtxs ++ decls).filter fun c => !c.2.batch
  let slots := (s.slotEntries ++ rows).filter fun w => !slotOpen w
  all.findSome? fun w => (gateUses w.2 true).findSome? fun g =>
    match all.find? fun p => p.1 ≠ w.1 ∧ p.2.gateBase ≤ g.1 ∧ g.1 < p.2.gateBase + p.2.gateCnt with
    | none => none
    | some p =>
      let bad := (gateUses p.2 false).any fun q => q.1 == g.1 && slots.any fun a => (slotCtxs a).contains p.1 && slotCovers a q.2 &&
        slots.any fun b => (slotCtxs b).contains w.1 && slotCovers b g.2 &&
          (List.range 0x49).any (fun e => slotCovers a e && slotCovers b e) &&
          decide ((dw b 0).toNat < (dw a 0).toNat + (dw a 1).toNat)
      if bad then some g.1 else none

/-! Admission. -/

/-- Check 11: the recomputed WCET that exceeds the stated one or the deadline. -/
def check11 (img : List Byte) : Option Nat :=
  (List.range (imgCtxs img)).findSome? fun i =>
    let w := wcetOf i img (declCtx img i)
    if (declW img i 2).toNat < w ∨ (declW img i 1).toNat < w then some (min w 0xFFFFFFFF) else none

/-- The first check that fails, in the order of rule R338: its number, its code and DETAIL. DEDUCED, assumption 39. -/
def State.checkImage (s : State) (img : List Byte) (seeds limit : Nat) : Option (Nat × Nat × Nat) :=
  let decls := imgDecls img
  let rows := imgSlotRows img
  let tag := fun n code (o : Option Nat) => o.map fun d => (n, code, d)
  if check1 img then some (1, cVERSION, fld (imgW img 0) 8 8 * 256 + fld (imgW img 0) 0 8)
  else (tag 12 cARG (check12 img seeds)).or <| (tag 2 cBOUNDS (s.check2 img)).or <|
    (if fld (imgW img 4) 23 4 ≠ s.rf 0x60100 0 4 ∨ fld (imgW img 4) 27 4 ≠ s.chans.length then some (3, cARG, s.chans.length)
      else none).or <|
    (if limit < fld (imgW img 4) 20 3 then some (4, cARG, limit) else none).or <|
    (tag 5 cARG (s.check5 img)).or <| (tag 6 cARG (s.check6 decls)).or <| (tag 7 cBOUNDS (s.check7 decls)).or <|
    (tag 8 cARG (check8 rows decls)).or <| ((s.check9 decls).map fun q => (9, q.1, q.2)).or <|
    (tag 10 cYIELD (s.check10 rows decls)).or (tag 11 cDEADLINE_MISS (check11 img))

/-- A context is admitted with its seed and STEP0 (rules R160, R321, R322, R346, R354). -/
def State.takeCtx (s : State) (c : Nat) (x : Ctx) (seed step0 : Nat) (deadline : Word) : State :=
  let gates := s.gates.filter fun p => p.1 < x.gateBase || x.gateBase + x.gateCnt ≤ p.1
  let s := { s with gates := gates }
  let given := (List.range x.places.length).flatMap fun p => placedRegions x p
  let s := s.dropTags fun t => !given.any fun r => t.basin == r.1 && rangesMeet t.ofs t.size r.2.1 r.2.2
  let step : DWord := BitVec.ofNat 64 step0 - 1
  let s := ((s.setHg c (acctOff 0) (w32 step.toNat)).setHg c (acctOff 1) (w32 (step.toNat / 2 ^ 32))).clearSums c 6
  (s.setCtx c { x with seed := BitVec.ofNat 64 seed, step := step }).setHg c 0x130 deadline

/-- ADM_LAST and ADM_DETAIL (rule R354), with the ADMIT event. -/
def State.admRecord (s : State) (code check sub detail : Nat) : State :=
  ((s.setReg 0x1010C (w32 (code + check * 256 + sub * 65536))).setReg 0x10110 (w32 detail)).intRaise .headgate 1

/-- An image whose bytes have the payload's digest is checked and admitted (rule R338); `seeds` holds a seed and STEP0 for
each context, `limit` the performance-level limit in force. DEDUCED, assumption 39. -/
def State.takeImage (s : State) (img digest seeds : List Byte) (limit : Nat) : Nat × State :=
  match s.checkImage img seeds.length limit with
  | some (n, code, detail) => (cADMIT_REFUSED, (s.admRecord cADMIT_REFUSED n code detail).lastCode .headgate cADMIT_REFUSED)
  | none =>
    let decls := imgDecls img
    let s := if s.head.images.isEmpty then
        (((s.setReg 0x10100 (imgW img 8)).setReg 0x10104 (w32 (s.now 7))).setReg 0x10108 (w32 (s.now 7 / 2 ^ 32)) : State)
      else s
    let s := decls.zipIdx.foldl (fun (s : State) p =>
      let o := seeds.drop (16 * p.2)
      s.takeCtx p.1.1 { p.1.2 with compiled := compiledFor p.2 img } (leNat (o.take 8)) (leNat ((o.drop 8).take 8)) (declW img p.2 1)) s
    let s : State := { s with head := { s.head with images := s.head.images ++
      [{ digest := digest, level := fld (imgW img 4) 20 3, ctxs := decls.map (·.1), slots := imgSlotRows img }] } }
    (cOK, s.admRecord cOK 0 0 0)

end Sys2Proof.Machine
end

