-- ==== Sys2Proof/Machine/P256.lean ====
section
/-! DEFINITION. Machine/P256.lean: P-256 with SHA-256: points, ECDSA and ECDH (rules R393, R399, R401; FIPS 186-5). Points are held
in Jacobian coordinates, (X ÷ Z², Y ÷ Z³), with Z = 0 at infinity. -/

namespace Sys2Proof.Machine

/-- The field prime, the group order, the constant b and the base point. -/
def p256P : Nat := 0xffffffff00000001000000000000000000000000ffffffffffffffffffffffff
def p256N : Nat := 0xffffffff00000000ffffffffffffffffbce6faada7179e84f3b9cac2fc632551
def p256B : Nat := 0x5ac635d8aa3a93e7b3ebbd55769886bc651d06b0cc53b0f63bce3c3e27d2604b
def p256Gx : Nat := 0x6b17d1f2e12c4247f8bce6e563a440f277037d812deb33a0f4a13945d898c296
def p256Gy : Nat := 0x4fe342e2fe1a7f9b8ee7eb4a7c0f9e162bce33576b315ececbb6406837bf51f5

/-- b ^ e modulo m, by `n` bits of the exponent from the lowest. -/
def powMod (m : Nat) (n : Nat) (b e a : Nat) : Nat :=
  match n with
  | 0 => a
  | k + 1 => powMod m k (b * b % m) (e / 2) (if e % 2 = 1 then a * b % m else a)

/-- The inverse modulo a prime below 2²⁵⁶. -/
def invMod (m a : Nat) : Nat := powMod m 256 (a % m) (m - 2) 1

/-- A point in Jacobian coordinates. -/
structure Jac where
  x : Nat
  y : Nat
  z : Nat
deriving DecidableEq, Repr

def jacInf : Jac := { x := 1, y := 1, z := 0 }

/-- a − b modulo p. -/
def subP (a b : Nat) : Nat := (a + p256P - b) % p256P

/-- The double of a point. -/
def Jac.double (q : Jac) : Jac :=
  if q.z = 0 ∨ q.y = 0 then jacInf
  else
    let z2 := q.z * q.z % p256P
    let y2 := q.y * q.y % p256P
    let s := 4 * q.x * y2 % p256P
    let m := 3 * (subP q.x z2) * (q.x + z2) % p256P
    let x := subP (m * m % p256P) (2 * s % p256P)
    { x := x, y := subP (m * subP s x % p256P) (8 * y2 * y2 % p256P), z := 2 * q.y * q.z % p256P }

/-- The sum of two points. -/
def Jac.add (a b : Jac) : Jac :=
  if a.z = 0 then b
  else if b.z = 0 then a
  else
    let za := a.z * a.z % p256P
    let zb := b.z * b.z % p256P
    let u1 := a.x * zb % p256P
    let u2 := b.x * za % p256P
    let s1 := a.y * zb * b.z % p256P
    let s2 := b.y * za * a.z % p256P
    if u1 = u2 then (if s1 = s2 then a.double else jacInf)
    else
      let h := subP u2 u1
      let r := subP s2 s1
      let h2 := h * h % p256P
      let h3 := h * h2 % p256P
      let v := u1 * h2 % p256P
      let x := subP (subP (r * r % p256P) h3) (2 * v % p256P)
      { x := x, y := subP (r * subP v x % p256P) (s1 * h3 % p256P), z := h * a.z * b.z % p256P }

/-- The multiple of a point by the low `n` bits of `k`. -/
def Jac.mulGo (n k : Nat) (q a : Jac) : Jac :=
  match n with
  | 0 => a
  | m + 1 => Jac.mulGo m (k / 2) q.double (if k % 2 = 1 then a.add q else a)

def Jac.mul (q : Jac) (k : Nat) : Jac := Jac.mulGo 256 k q jacInf

/-- The affine coordinates of a point that is not at infinity. -/
def Jac.affine (q : Jac) : Nat × Nat :=
  let i := invMod p256P q.z
  let i2 := i * i % p256P
  (q.x * i2 % p256P, q.y * i2 * i % p256P)

def p256G : Jac := { x := p256Gx, y := p256Gy, z := 1 }

/-- The point that 64 bytes spell, if they are a point of the curve (rule R393). -/
def pointOf (bs : List Byte) : Option Jac :=
  let x := beNat (bs.take 32)
  let y := beNat ((bs.drop 32).take 32)
  if bs.length = 64 ∧ x < p256P ∧ y < p256P ∧ y * y % p256P = (x * x * x + (p256P - 3) * x + p256B) % p256P
  then some { x := x, y := y, z := 1 } else none

/-- The 64 bytes of a public key. -/
def pointBytes (q : Jac) : List Byte := beBytes 32 q.affine.1 ++ beBytes 32 q.affine.2

/-- The public key of a private key. -/
def publicKey (d : Nat) : List Byte := pointBytes (p256G.mul d)

/-- Verification of an ECDSA signature over a SHA-256 digest. -/
def ecdsaVerify (pub digest sig : List Byte) : Bool :=
  let r := beNat (sig.take 32)
  let t := beNat ((sig.drop 32).take 32)
  match pointOf pub with
  | none => false
  | some q =>
    if sig.length ≠ 64 ∨ r = 0 ∨ p256N ≤ r ∨ t = 0 ∨ p256N ≤ t then false
    else
      let w := invMod p256N t
      let x := (p256G.mul (beNat digest * w % p256N)).add (q.mul (r * w % p256N))
      x.z ≠ 0 && x.affine.1 % p256N == r

/-- The ECDSA signature of a SHA-256 digest under `d` with the per-signature secret `k`. -/
def ecdsaSign (d k : Nat) (digest : List Byte) : List Byte :=
  let r := (p256G.mul k).affine.1 % p256N
  beBytes 32 r ++ beBytes 32 (invMod p256N k * (beNat digest + r * d) % p256N)

/-- The X coordinate of a multiple of a point: the shared value of ECDH. -/
def sharedX (d : Nat) (q : Jac) : List Byte := beBytes 32 (q.mul d).affine.1

/-- A private scalar from random bytes or a digest: 1 to n − 1 (rule R399). -/
def scalarOf (bs : List Byte) : Nat := beNat bs % (p256N - 1) + 1

end Sys2Proof.Machine
end

