-- ==== Sys2Proof/Machine/Trust.lean ====
section
/-! DEFINITION. Machine/Trust.lean: self-test and the repair map, boot, keys, attestation, supply and temperature glitches, reset
and the debug port (rules R393–R414, R445–R449, R454, R469–R474). -/

namespace Sys2Proof.Machine

/-! Random bytes (rule R401). -/

/-- `n` bytes of the silicon's random generator. DESIGN CHOICE, assumption 6. -/
def State.draw (s : State) (n : Nat) : List Byte × State :=
  ((Config.random s.freeCtr ++ List.replicate n 0).take n, { s with freeCtr := s.freeCtr + 1 })

/-- A random private scalar. -/
def State.drawKey (s : State) : Nat × State := let q := s.draw 32; (scalarOf q.1, q.2)

/-- A random word other than 0. -/
def State.drawMask (s : State) : Word × State :=
  let q := s.draw 4
  (if leNat q.1 = 0 then 1 else w32 (leNat q.1), q.2)

/-! Self-test (rules R174, R445–R449, R214). -/

/-- The unit number of a unit's name. -/
def unitOfId (u : UnitId) : Nat :=
  match u with
  | .basin n => n
  | .lane n => 18 + n

/-- Whether the grade disables unit `u`. -/
def State.unitDis (s : State) (u : Nat) : Bool := s.gradeDis (unitPage u)

/-- Whether a row is replaced by a spare that the map holds. -/
def State.rowReplaced (s : State) (u r : Nat) : Bool :=
  let pl := rowPlace u r
  let e := groupEntry u pl.1 (pl.2 / 512)
  [e, e + 1].any fun e => 0x8000 ≤ s.rowEntry e && s.rowEntry e % 512 == pl.2 % 512

/-- A row that fails the march test: replaced by a free spare of its group, or a failure of its unit. -/
def State.rowTest (q : List Nat × State) (x : UnitId × Nat × Nat) : List Nat × State :=
  let u := unitOfId x.1
  let r := if u < 18 then x.2.2 * 32 + x.2.1 else x.2.2 * 16 + x.2.1
  let inside := if u < 18 then x.2.1 < 32 && x.2.2 < 6144 else x.2.1 < 16 && x.2.2 < 1024
  if !inside || q.2.unitDis u || q.2.rowReplaced u r then q
  else
    match q.2.freeSpare u r with
    | some e => (q.1, q.2.setRowEntry e (x.2.2 % 512 + 0x8000))
    | none => (q.1 ++ [u], q.2)

/-- The lowest SOURCE among the failing sub-units of unit `u`, if one fails (rule R447). -/
def selfTestSource (r : SelfTest) (full : List Nat) (u : Nat) : Option Nat :=
  let own := if u < 18 then (r.basinFail.filter fun x => x.1.val = u).map (·.2.toNat)
    else (r.laneFail.filter fun x => 18 + x.1.val = u).map (·.2.toNat)
  let all := own ++ (if full.contains u then [1] else []) ++ (if r.bypass.any fun n => n.val = unitNode u then [5] else [])
  all.foldl (fun m x => some (match m with
    | none => x
    | some y => min x y)) none

/-- A mapped unit's domain is in service: at once while the block comes out of reset, and else through its exit. DEDUCED, assumption 24. -/
def State.inService (s : State) (d : Nat) : State :=
  if s.domain d = 1 ∨ s.domain d = 2 then s
  else if s.grade.code.isNone then s.setDomain d 2
  else (s.setDomain d 0).wakeDomain d

/-- A unit's domain leaves service for the state `v`. -/
def State.outOfService (s : State) (d v : Nat) : State := (s.setStep d 0).setDomain d v

/-- The domain of a unit that failed self-test: QUIESCENT, through its exit where it wakes or is OFF after S3 (rules R447, R483). -/
def State.toQuiescent (s : State) (d : Nat) : State :=
  if s.domain d = 1 then s
  else if s.domain d = 0 ∧ s.grade.code.isSome then s.wakeDomain d
  else s.outOfService d 3

/-- One unit takes its place in the logical mapping: `q` is the number of units mapped so far (rules R174, R448). -/
def State.placeUnit (lane : Bool) (q : Nat × State) (n : Nat) : Nat × State :=
  let s := q.2
  let u := unitNo lane n
  let d := unitDomain u
  let top := if lane then s.logicalLanes else s.logicalBasins
  if s.unitDis u then (q.1, (s.setRm (unitWord u) 0xF00).outOfService d 0)
  else if fld (s.rm (unitWord u)) 0 2 = 3 then (q.1, s.toQuiescent d)
  else if q.1 < top then (q.1 + 1, (s.setRm (unitWord u) (w32 (1 + q.1 * 256))).inService d)
  else (q.1 + 1, (s.setRm (unitWord u) 0xF02).outOfService d 0)

/-- The logical mapping of the basins or of the lanes; too few units are reported once the grade is known. -/
def State.mapUnits (s : State) (lane : Bool) : State :=
  let q := (List.range (if lane then 9 else 18)).foldl (State.placeUnit lane) (0, s)
  let top := if lane then s.logicalLanes else s.logicalBasins
  if q.1 < top ∧ s.grade.code.isSome then q.2.faultEvent (if lane then .lane 0 else .basin 0) 1 cDEGRADED 0 0xFF 0 0 else q.2

/-- The status words of all units before the mapping: FAILED with its SOURCE, or nothing; the march test leaves every cistern and
lane memory zeroed, and the counts since self-test are 0. -/
def State.testUnit (r : SelfTest) (full : List Nat) (s : State) (u : Nat) : State :=
  let s := if s.domain (unitDomain u) = 3 then s.resetPages (unitDomain u) else s
  let s := (s.setReg (corrReg u) 0).setReg (corrReg u + 4) 0
  let s := (s.setReg (checkReg u) 0).clearUnit u
  s.setRm (unitWord u) (match selfTestSource r full u with
    | some src => w32 (3 + 0xF00 + src * 2 ^ 24)
    | none => 0)

/-- What a loop channel reports after its test (rule R447). -/
def State.loopReport (s : State) (c : Nat) : State :=
  let w := s.rm (31 + c)
  let bad := (List.range 3).filter fun k => bit w (4 + k)
  match bad with
  | [] => s
  | [k] => s.loopRetire c k
  | _ =>
    let s := (s.errCapture (.loop c) cDEGRADED 4 0xFF 0).intRaise (.loop c) 3
    (s.lastCode (.loop c) cDEGRADED).faultEvent (.loop c) 3 cDEGRADED 4 0xFF 0 0

/-- The replicas of loop channel `c` are tested: its word of the map. -/
def State.testLoop (r : SelfTest) (s : State) (c : Nat) : State :=
  let bad := wordOf fun k => r.replicaFail.any fun x => x.1.val == c && x.2.val == k
  let n := (List.range 3).countP fun k => bit bad k
  s.setRm (31 + c) (w32 ((7 - bad.toNat) + (if 2 ≤ n then 8 else 0) + bad.toNat * 16))

/-- Canal links and bypass segments, the pump ports and the map unit's port with them (rules R168–R170, R446). -/
def State.testCanal (s : State) (r : SelfTest) : State :=
  let nodes := List.range 30
  let s := nodes.foldl (fun s n => s.setRm (nodeWord n) 0) s
  let s := nodes.foldl (fun s n =>
    if r.bypass.any (fun b => b.val = n) then
      (s.setRm (nodeWord n) 1).faultEvent (nodePage n) 1 cDEGRADED 5 0xFF 0 0
    else s) s
  let s := r.linkFail.foldl (fun s x => s.linkFail x.1 x.2) s
  let down := fun n => r.bypass.any fun b => b.val = n
  { s with head := { s.head with pumpsLost := (List.range 32).filter (fun p => down (pumpNode p)), mapLost := down 10,
                                 fenced := [], subst := [] } }

/-- LPDDR6 training (rule R214): the rate and the density, and the channels that fail it. -/
def State.trainDram (s : State) (r : SelfTest) : State :=
  let s := (List.range 4).foldl (fun s m =>
    let s := (s.setRf (mcCfg m) 0 4 r.speed.toNat).setRf (mcCfg m) 4 4 r.dens.toNat
    [8, 12, 16, 20].foldl (fun s o => s.setReg (mcCfg m + o) 0) s) s
  let s := r.channelFail.foldl (fun s k =>
    if s.chanRetired k then s
    else
      let p := Page.mc (k.val / 2)
      let s := s.setRf (mcCfg (k / 2)) (8 + k % 2) 1 1
      let s := ((s.errCapture p cDEGRADED (k % 2) 0xFF 0).intRaise p 3).intRaise p 2
      (s.lastCode p cDEGRADED).faultEvent p 1 cDEGRADED (k % 2) 0xFF 0 0) s
  s.loadMemTop

/-- The map is checked and kept, or zeroed (rule R445). BUILDS goes on. -/
def State.testMap (s : State) (bad : Bool) : State :=
  let kept := s.rm 0 ≠ 0
  let builds := satAdd 0xFFFF (fld (s.rm 2) 0 16) 1
  let s := if kept ∧ (bad ∨ s.rm 1 ≠ 0) then
      let s := { s with rmap := [] }.setRf 0x5108 0 1 1
      (List.range 4).foldl (fun s m => s.setRf (mcCfg m) 8 2 0) s
    else s
  (((s.setRm 0 0x524D0860).setRm 1 0).setRm 2 (w32 builds)).setRm 3 s.stamp

/-- Domains other than the basins' and lanes' come up with the wellhouse's release from reset. -/
def State.domainsUp (s : State) : State :=
  ([1, 2, 30, 31, 32, 33, 34, 35]).foldl (fun s d => if s.domain d = 0 then s.setDomain d 2 else s) s

/-- What self-test does (rules R445–R449): every unit is tested and mapped. DESIGN CHOICE, assumption 23. DEDUCED, assumption 24. -/
def State.testRun (s : State) (r : SelfTest) : State :=
  let fresh := s.grade.code.isNone
  let s := (s.testMap r.mapBad).testCanal r
  let q := r.rowFail.foldl State.rowTest ([], s)
  let s := (List.range 27).foldl (State.testUnit r q.1) q.2
  let s := (List.range 32).foldl (fun s c => if s.gradeDis (.loop c) then s.setRm (31 + c) 0 else s.testLoop r c) s
  let s := (List.range 32).foldl (fun s c => if (fresh && 16 ≤ c) || s.gradeDis (.loop c) then s else s.loopReport c) s
  let s := s.trainDram r
  let s := (s.mapUnits false).mapUnits true
  let s := if fresh then s.domainsUp else s
  { s with testing := false, boot := { s.boot with tested := true, rootPub := [] } }

/-- SELF_TEST at reset release or S3 exit, once the supplies are good. DEDUCED, assumption 24. -/
def State.selfTest (s : State) (r : SelfTest) : State :=
  if !s.testing ∨ s.power.held ∨ s.power.pg ≠ 7 ∨ s.power.stuck ∨ 3 < r.speed.toNat ∨ 3 < r.dens.toNat then s
  else (s.testRun r).exitEnd.resume

/-! Boot (rules R394–R398). -/

/-- A field of a byte string. -/
def slice (bs : List Byte) (a n : Nat) : List Byte := (bs.drop a).take n
def field (bs : List Byte) (a n : Nat) : Nat := leNat (slice bs a n)

/-- Whether bytes are all zero. -/
def allZero (bs : List Byte) : Bool := bs.all (· == 0)

/-- Whether a FORMAT word is that of major 1. -/
def formatOk (w : Nat) : Bool := nfld w 8 8 == 1 && nfld w 16 16 == 0

/-- Whether a firmware-image header is well formed (rule R396). -/
def headerOk (h : List Byte) : Bool :=
  field h 0 4 == 0x46570860 && formatOk (field h 4 4) && 64 ≤ field h 12 4 && field h 12 4 ≤ 4194304 &&
    field h 12 4 % 64 == 0 && allZero (slice h 112 16)

/-- The length of a boot stream by its header: image and grade record. -/
def streamLen (h : List Byte) : Nat := 128 + field h 12 4 + 64 + 1024

/-- A boot step fails: BOOT = 4 with its code. -/
def State.bootFail (s : State) (code : Nat) : State := { s with boot := { s.boot with step := 4, code := code } }

/-- Bytes that function 2 takes while the ROM runs. A stream whose header is malformed waits for its verification from the header on, and
takes no more. DEDUCED, assumption 25. -/
def State.bootTake (s : State) (bs : List Byte) : State :=
  if bs.isEmpty ∨ 2 < s.boot.step then s
  else if s.boot.step = 2 then (if headerOk (s.boot.stream.take 128) then s.bootFail cBOUNDS else s)
  else
    let s := if s.boot.step = 0 then { s.bumpFld 0x164 16 8 with boot := { s.boot with step := 1, resetting := false } } else s
    let b := s.boot.stream ++ bs
    let s := { s with boot := { s.boot with stream := b } }
    if b.length < 128 then s
    else if !headerOk (b.take 128) then { s with boot := { s.boot with step := 2 } }
    else if streamLen b < b.length then s.bootFail cBOUNDS
    else if streamLen b = b.length then { s with boot := { s.boot with step := 2 } }
    else s

/-- CCCR RES while BOOT is 4 (rule R395). -/
def State.bootAgain (s : State) : State :=
  if s.boot.step = 4 then { s with boot := { s.boot with step := 0, code := 0, stream := [] } } else s

/-- K_root, which HELPER reproduces, and d_id (rule R399). -/
def identityKey (root : List Byte) : Nat := scalarOf (sha256 (root ++ [1]))

/-- Step 3 of the boot sequence: nothing where image and grade record verify, and else the code (rules R394, R396, R397). -/
def bootCheck (b : List Byte) : Option Nat :=
  let len := field b 12 4
  let root := slice b 16 64
  let gr := slice b (128 + len + 64) 1024
  let ident := publicKey (identityKey (Config.rootKey (slice gr 256 704)))
  if !headerOk (b.take 128) then some cARG
  else if sha256 root ≠ Config.rootHash ∨ sha256 (slice b 128 len) ≠ slice b 80 32 ∨
      !ecdsaVerify root (sha256 (slice b 0 128)) (slice b (128 + len) 64) then some cAUTH_FAIL
  else if field gr 0 4 ≠ 0x47520860 ∨ !formatOk (field gr 4 4) ∨ !allZero (slice gr 12 4) ∨ !allZero (slice gr 176 80)
    then some cARG
  else if !ecdsaVerify root (sha256 (slice gr 0 960)) (slice gr 960 64) ∨ slice gr 16 32 ≠ sha256 ident
    then some cAUTH_FAIL
  else if 2 < field gr 8 4 then some cARG
  else none

/-- A list without `n` of its elements, which the grade record names. DESIGN CHOICE, assumption 15. -/
def dropUnits (f : Nat → Nat) (i n : Nat) (l : List Nat) : List Nat :=
  match n with
  | 0 => l
  | k + 1 => dropUnits f (i + 1) k (l.eraseIdx (f i % l.length))

/-- The mask of a list of numbers. -/
def maskOf (l : List Nat) : Nat := (List.range 32).foldl (fun a i => if l.contains i then a + 2 ^ i else a) 0

/-- The units that a grade record enables (rule R3). DESIGN CHOICE, assumption 15. -/
def gradeOf (gr : List Byte) : Grade :=
  let g := field gr 8 4
  let bs := dropUnits (Config.gradeDrop gr) 0 (4 * g) (List.range 18)
  let ls := dropUnits (Config.gradeDrop gr) (4 * g) (2 * g) (List.range 9)
  { code := some g, basins := BitVec.ofNat 18 (maskOf bs), lanes := BitVec.ofNat 9 (maskOf ls),
    loops := if g = 2 then 0xFFFF else 0xFFFFFFFF, csi := if g = 2 then 7 else 0x3F }

/-- The grade is loaded: units that it disables go, and the mapping follows (rules R4, R174, R394). DESIGN CHOICE, assumption 15. DEDUCED, assumption 24. -/
def State.loadGrade (s : State) (g : Grade) : State :=
  if g = s.grade then s
  else
    let fresh := s.grade.code.isNone
    let before := { s with grade := { g with code := none } }
    let s := if fresh then before else { s with grade := g }
    let s := (s.mapUnits false).mapUnits true
    let s := { s with grade := g }
    let lack := fun (lane : Bool) => decide ((List.range (if lane then 9 else 18)).countP (fun n =>
      fld (s.rm (unitWord (unitNo lane n))) 0 2 == 1) < if lane then s.logicalLanes else s.logicalBasins)
    let note := fun (s : State) (lane : Bool) =>
      if fresh && lack lane then s.faultEvent (if lane then .lane 0 else .basin 0) 1 cDEGRADED 0 0xFF 0 0 else s
    let s := note (note s false) true
    (List.range 32).foldl (fun s c =>
      if s.gradeDis (.loop c) then s.setRm (31 + c) 0 else if fresh && 16 ≤ c then s.loopReport c else s) s

/-- The firmware selects the boot level (rules R421, R471). DEDUCED, assumption 34. -/
def State.bootLevel (s : State) (first : Bool) (level : Nat) (linear : Bool) : State :=
  let s := (s.setReg 0x73120 (w32 level))
  let s := { s with power := { s.power with noReg := !linear } }
  if !first then (if linear then s.levelRequest level else s.pmbFault)
  else
    let l := if linear then level else 3
    let s := (s.setRf 0x73124 0 3 l).setRf 0x73124 4 3 l
    let s := { s with power := { s.power with vcore := l, bias := l, assist := l }, fabric := { s.fabric with low := l } }
    if linear then s else s.pmbFault

/-- Words stored in registers from an address on. -/
def State.setRegs (s : State) (a : Nat) (ws : List Word) : State := (ws.zipIdx).foldl (fun s p => s.setReg (a + 4 * p.2) p.1) s

/-- Image and grade record are accepted: identity, grade and level; the firmware starts. DEDUCED, assumption 25. -/
def State.bootAccept (s : State) (level : Nat) (linear : Bool) : State :=
  let b := s.boot.stream
  let gr := slice b (streamLen b - 1024) 1024
  let digest := sha256 (slice gr 0 960)
  let s := if s.sec.gradeDigest ≠ [] ∧ s.sec.gradeDigest ≠ digest then s.eraseKeys else s
  let root := Config.rootKey (slice gr 256 704)
  let owners := (List.range 4).map fun i => slice gr (48 + 32 * i) 32
  let s := { s with sec := { s.sec with
    rootKey := root, did := identityKey root, gradeDigest := digest, owners := owners.filter fun h => !allZero h } }
  let s := s.setReg 0x160 (w32 (field b 8 4))
  let s := s.setRegs 0x120 ((List.range 8).map fun w => digestWord (slice gr 16 32) w)
  let first := s.boot.rootPub = []
  let s := (s.loadGrade (gradeOf gr)).bootLevel first level linear
  { s with boot := { s.boot with step := 3, code := 0, stream := [], fwDigest := sha256 (slice b 0 128),
                                 ident := publicKey (identityKey root), rootPub := slice b 16 64 } }

/-- BOOT_VERIFY: acts once the stream and self-test are complete; a verification that fails trips IMAGE (rule R405).
DEDUCED, assumption 25. -/
def State.bootVerify (s : State) (level : Nat) (linear : Bool) : State :=
  if s.boot.step ≠ 2 ∨ !s.boot.tested ∨ s.domain 1 ≠ 2 then s
  else
    match bootCheck s.boot.stream with
    | some code => (s.alarmTrip 4).bootFail code
    | none => s.bootAccept level linear

/-! Keys (rules R401, R402). -/

/-- The alarm's counts of consecutive failures (rule R411): TAG_RUN at 8, REPLAY_RUN at 16; a source trips as its count reaches
the limit (rule R405). DEDUCED, assumption 26. -/
def State.alarmRun (s : State) (lo limLo src : Nat) : State :=
  let n := satAdd 255 (s.rf 0x411C lo 8) 1
  let s := s.setRf 0x411C lo 8 n
  if n = s.rf 0x4118 limLo 8 then s.alarmTrip src else s

/-- DEDUCED, assumption 26. -/
def State.tagFailure (s : State) : State := s.alarmRun 8 0 2
/-- DEDUCED, assumption 26. -/
def State.replayFailure (s : State) : State := s.alarmRun 16 8 3

/-- KEY_EXCHANGE phase 1: an ephemeral key and a nonce, signed by the identity key. -/
def State.keyPhase1 (s : State) (p : List Byte) : Nat × List Byte × State :=
  if p.length ≠ 32 ∨ p.headD 0 ≠ 1 ∨ !allZero (p.drop 1) then (cARG, [], s)
  else
    let e := s.drawKey
    let n := e.2.draw 16
    let k := n.2.drawKey
    let q := publicKey e.1
    let s := { k.2 with sec := { k.2.sec with eph := some (e.1, n.1, k.2.time.ns) } }
    let digest := sha256 (q ++ n.1 ++ sha256 s.boot.ident)
    (cOK, q ++ n.1 ++ s.boot.ident ++ ecdsaSign s.sec.did k.1 digest, s)

/-- The command key that two ephemeral keys give. -/
def commandKey (d : Nat) (qd qh : List Byte) (h : Jac) : List Byte := sha256 (sharedX d h ++ qd ++ qh)

/-- A command key is installed: LAST_CTR is 0. -/
def State.installKey (s : State) (k : List Byte) : State :=
  { s with sec := { s.sec with cmdKey := some k, lastCtr := 0 } }.setRf 0x411C 1 1 1

/-- KEY_EXCHANGE phase 2. -/
def State.keyPhase2 (s : State) (p : List Byte) : Nat × List Byte × State :=
  if p.length ≠ 208 ∨ p.headD 0 ≠ 2 ∨ !allZero (slice p 1 15) then (cARG, [], s)
  else
    match s.sec.eph with
    | none => (cNO_KEY, [], s)
    | some (d, n, t) =>
      if 10000000000 < s.time.ns - t then (cNO_KEY, [], s)
      else
        let qh := slice p 16 64
        let po := slice p 80 64
        let qd := publicKey d
        let s := { s with sec := { s.sec with eph := none } }
        match pointOf qh with
        | some h =>
          if s.sec.owners.contains (sha256 po) ∧ ecdsaVerify po (sha256 (qh ++ qd ++ n)) (slice p 144 64) then
            (cOK, [], ((s.installKey (commandKey d qd qh h)).setRf 0x411C 0 1 0).setRf 0x411C 2 1 0)
          else (cAUTH_FAIL, [], s.tagFailure)
        | none => (cAUTH_FAIL, [], s.tagFailure)

/-- KEY_ROTATE: the response's payload and the key that is installed after it. -/
def State.keyRotate (s : State) (p : List Byte) : Nat × List Byte × Option (List Byte) × State :=
  match pointOf p with
  | none => (cARG, [], none, s)
  | some h =>
    let e := s.drawKey
    let q := publicKey e.1
    (cOK, q, some (commandKey e.1 q p h), e.2)

/-! Attestation (rule R403). -/

/-- The alarm events that the ring holds, oldest first, as words. -/
def State.alarmEvents (s : State) : List Word :=
  let head := s.rf 0x4140 0 4
  (List.range s.sec.nEvt).flatMap fun i =>
    (List.range 4).map fun w => s.reg (0x4200 + 16 * ((head + 16 - s.sec.nEvt + i) % 16) + 4 * w)

/-- The report without its signature. -/
def State.reportBody (s : State) (nonce : List Byte) : List Byte :=
  let imgs := s.head.images
  let len := 256 + 16 * s.sec.nEvt + 40 * imgs.length
  leBytes 2 len ++ [1, 0] ++ leBytes 4 s.attFlags ++ wordBytes [s.reg 0x160] ++
    [BitVec.ofNat 8 (s.grade.code.getD 0), 0, BitVec.ofNat 8 imgs.length, BitVec.ofNat 8 s.sec.nEvt] ++ nonce ++ s.boot.fwDigest ++
    s.sec.gradeDigest ++ sha256 s.boot.ident ++ wordBytes ((List.range 6).map fun i => s.reg (0x4120 + 4 * i)) ++
    wordBytes [s.reg 0x76108, s.reg 0x75100] ++ List.replicate 16 0 ++ wordBytes s.alarmEvents ++
    imgs.flatMap fun i => i.digest ++ leBytes 8 i.mask

/-- ATTEST_GET: the signed report. DEDUCED, assumption 49. -/
def State.attest (s : State) (nonce : List Byte) : List Byte × State :=
  let s := (s.bumpWrap 0x75100 1).intRaise .att 0
  let k := s.drawKey
  let body := k.2.reportBody nonce
  (body ++ ecdsaSign s.sec.did k.1 (sha256 body), k.2)

/-! Glitches (rules R405, R454). -/

/-- The CRCs of the repair map and the save memory are checked again. -/
def State.recheck (s : State) (crcBad saveBad : Bool) : State :=
  let s := if crcBad then
      let m := s.drawMask
      (m.2.setRm 1 m.1).setRf 0x5108 0 1 1
    else s
  if saveBad then
    let m := s.drawMask
    m.2.setSaveW 1 (m.2.saveCrc ^^^ m.1)
  else s

/-- VGLITCH. A detector compares a rail while its enable is high. DEDUCED, assumption 26. -/
def State.vglitch (s : State) (r : Supply) (crcBad saveBad : Bool) : State :=
  let on := match r with
    | .core => s.power.pen.getLsbD 2
    | .loop => s.power.pen.getLsbD 1
    | .aon => true
  if s.power.held ∨ !on then s
  else
    let s := (s.alarmTrip 0).excursion .alarm 0
    match r with
    | .core => s.excursionTear
    | .loop => s.missSamples
    | .aon => s.excursionTear.gapRings.recheck crcBad saveBad

/-- TGLITCH. -/
def State.tglitch (s : State) : State := if s.power.held then s else ((s.alarmTrip 1).excursion .alarm 1).excursionTear

/-! Trips within a VCP command (rules R406, R408). -/

/-- The alarm source of a detection within a command. -/
def midSource (t : MidTrip) : Nat :=
  match t with
  | .vglitch _ => 0
  | .tglitch => 1
  | .timing => 5

/-- A detection within a command is taken. DEDUCED, assumption 26. -/
def State.midTrip (s : State) (t : MidTrip) : State :=
  match t with
  | .vglitch r => s.vglitch r false false
  | .tglitch => s.tglitch
  | .timing => s.alarmTrip 5

/-- Whether taking it was a DRAIN: the source's SEV says so, and the trip was counted. DEDUCED, assumption 26. -/
def State.midDrains (s : State) (t : MidTrip) : Bool :=
  s.rf (0x4100 + 4 * midSource t) 0 2 == 2 && (s.midTrip t).reg 0x4140 != s.reg 0x4140

/-! Reset (rules R471, R474). -/

/-- Everything is at reset until AON_RST_N rises. -/
def State.wellhouse (s : State) : State := { State.reset with pending := s.pending, freeCtr := s.freeCtr }

/-- WELLHOUSE_RESET: a low of 4.9 µs or less is ignored, one of 5.1 µs or more is taken, and one between the two is either. DEDUCED, assumption 4. -/
def State.aonLow (s : State) (ns : Nat) (taken : Bool) : State :=
  if ns ≤ 4900 ∨ (ns < 5100 ∧ !taken) then s else s.wellhouse

/-- AON_RST_N_RISE: PEN_SOC goes high, unless TEST_EN reads high (rules R468, R471). DEDUCED, assumption 4. -/
def State.aonRise (s : State) (testEn : Bool) : State :=
  if !s.power.held then s
  else { s with power := { s.power with held := false, pen := if testEn then 0 else 1, stuck := testEn } }

/-! The debug TAP (rule R413). -/

def State.dbgAttach (s : State) : State :=
  if s.power.held ∨ bit (s.reg 0x76104) 1 then s
  else (((s.setReg 0x76104 3).bump 0x76108 1).intRaise .dbg 0)

def State.dbgDetach (s : State) : State := { s.setRf 0x76104 1 1 0 with boot := { s.boot with tap := 0 } }

/-- EXTEST (1) and CLAMP (2). -/
def State.dbgScan (s : State) (i : Nat) : State :=
  if !bit (s.reg 0x76104) 1 then s
  else if s.reg 0x5A600 = 0 then { s with boot := { s.boot with tap := i } }
  else { s.bump 0x7610C 1 with boot := { s.boot with tap := 0 } }

end Sys2Proof.Machine
end

