-- ==== Sys2Proof/Machine/Sdio.lean ====
section
/-! DEFINITION. Machine/Sdio.lean: the SDIO card: functions 0, 1 and 2, the register window, the mailboxes, interrupts and bulk
data (rules R371–R383, R388, R389, R392). -/

namespace Sys2Proof.Machine

/-! Function 0 (rules R373–R376). -/

/-- The reset value of a writable byte of function 0. The low bytes of block sizes, held until their high bytes come, lie at
0x10000 above their addresses. PRESUMED, assumption 40. -/
def f0Init (a : Nat) : Byte :=
  if a % 0x10000 = 0x10 then 0x40
  else if a = 0x111 ∨ a = 0x211 then 2
  else 0

def State.f0 (s : State) (a : Nat) : Nat := (Cells.get (f0Init a) s.sdio.f0 a).toNat

def State.setF0 (s : State) (a v : Nat) : State :=
  { s with sdio := { s.sdio with f0 := Cells.put (f0Init a) s.sdio.f0 a (BitVec.ofNat 8 v) } }

/-- The bytes of a string of 7-bit characters. -/
def asciiBytes (t : List Char) : List Byte := t.map fun c => BitVec.ofNat 8 c.toNat

/-- The common CIS (rule R375). PRESUMED, assumption 40. -/
def cisCommon (grade : Nat) : List Byte :=
  let card := if grade = 0 then 0x0860 else if grade = 1 then 0x0840 else 0x0820
  let vers := [8, 0] ++ asciiBytes ['R', 'e', 'r', 'u', 'r', 'v', 'a', ' ', 'M', 'i', 'c', 'r', 'o', 's', 'y', 's', 't', 'e', 'm', 's'] ++ [0] ++
    asciiBytes ['E', 'w', 'e', 't', 'a', 'r', 'o', 'n', ' ', 'E', 'T', '-', '8', '6', '0'] ++ [0, 0xFF]
  [0x20, 4, 0x57, 0x0E] ++ leBytes 2 card ++ [0x21, 2, 0x0C, 0] ++ [0x22, 4, 0, 0, 1, 0x5A] ++
    [0x15, BitVec.ofNat 8 vers.length] ++ vers ++ [0x80, 8, 1, 1, 0, 0, BitVec.ofNat 8 grade, 0, 0, 0, 0xFF]

/-- The CIS of function 1 or 2: the fields of its CISTPL_FUNCE that the manual does not give read 0 (PRESUMED, assumption 40). -/
def cisFunction (timeout : Nat) : List Byte :=
  [0x21, 2, 0x0C, 0, 0x22, 42] ++ ([1] ++ List.replicate 11 0 ++ leBytes 2 2048 ++ List.replicate 14 0 ++ leBytes 2 timeout ++
    List.replicate 12 0) ++ [0xFF]

/-- The CIS bytes, with the code of the grade record; 0 outside the chains. -/
def State.cisByte (s : State) (a : Nat) : Nat :=
  let bs := if a < 0x1100 then (cisCommon (s.grade.code.getD 0)).drop (a - 0x1000)
    else if a < 0x1180 then (cisFunction 2000).drop (a - 0x1100)
    else (cisFunction 100).drop (a - 0x1180)
  (bs.headD 0).toNat

/-- The block size of a function (rules R371, R374). -/
def State.blockSize (s : State) (fn : Nat) : Nat := s.f0 (0x100 * fn + 0x10) + 256 * s.f0 (0x100 * fn + 0x11)

/-- F1_INT with F1_INT_EN, and whether function 2 has an interrupt (rule R381). -/
def State.f1Irq (s : State) : Bool := s.f1Int &&& s.sdio.intEn != 0
def State.f2Irq (s : State) : Bool := s.sdio.bulkDone || s.sdio.bulkErr

/-- Whether DAT1 carries an interrupt (rule R381): IENM and the function's IEN enable it. In 4-bit mode it signals in the interrupt period
and, with EAI set, while no transfer is in progress; in 1-bit mode whenever no data block is on the bus. `period` is whether that moment
holds. DEDUCED, assumption 27. -/
def State.dat1Irq (s : State) (period : Bool) : Bool :=
  let en := s.f0 0x04
  let irq := nbit en 0 && ((s.f1Irq && nbit en 1) || (s.f2Irq && nbit en 2))
  let wide := nfld (s.f0 0x07) 0 2 == 2
  irq && decide (1 < s.domain 1) && (period || (wide && nbit (s.f0 0x16) 1 && s.sdio.openXfer.isNone))

/-- A byte of function 0. -/
def State.f0Read (s : State) (a : Nat) : Nat :=
  let ready := 4 + (if s.boot.step = 3 then 2 else 0)
  match a with
  | 0x00 => 0x43
  | 0x01 => 0x03
  | 0x03 => s.f0 0x02 &&& ready
  | 0x05 => s.f1Irq.toNat * 2 + s.f2Irq.toNat * 4
  | 0x06 => 0
  | 0x08 => 0x13 ||| s.f0 0x08
  | 0x0A => 0x10
  | 0x13 => 1 ||| s.f0 0x13
  | 0x14 => 0x07
  | 0x15 => 0x05 ||| s.f0 0x15
  | 0x16 => 0x01 ||| s.f0 0x16
  | 0xF1 => s.boot.step
  | 0xF2 => s.boot.code
  | 0xF3 => s.sdio.ver.isSome.toNat
  | 0x10A => 0x11
  | 0x209 => 0x80
  | 0x20A => 0x11
  | _ => if 0x1000 ≤ a then (if a < 0x1200 then s.cisByte a else 0) else s.f0 a

/-- A byte of a block size: the low byte is held until the high one comes, and 0 or a size above the maximum is not taken. DESIGN CHOICE, assumption 27. -/
def State.writeBlk (s : State) (fn : Nat) (high : Bool) (v : Nat) : State :=
  let a := 0x100 * fn + 0x10
  if !high then s.setF0 (0x10000 + a) v
  else
    let lo := s.f0 (0x10000 + a)
    let n := lo + 256 * v
    if n = 0 ∨ (if fn = 0 then 256 else 2048) < n then s else (s.setF0 a lo).setF0 (a + 1) v

/-- RES: the SDIO interface is at its reset state, and a refused boot starts again (rules R373, R395). A load ends with its bytes counted,
for LOAD_END to answer. The card keeps its place on the bus. DESIGN CHOICE, assumption 27. -/
def State.sdioReset (s : State) : State :=
  let old := s.sdio
  let ended := match old.load with
    | some l => l.live
    | none => false
  State.bootAgain { s with
    sdio := { Machine.sdioReset with
      ready := old.ready, rca := old.rca, sel := old.sel, dead := old.dead, v18 := old.v18, bulkDone := ended
      load := old.load.map fun l => { l with live := false } }
    f1Int := 0, evtMask := 0, evtPend := 0 }

/-- A write of a byte of function 0; a value that a field does not support leaves the field unchanged. DESIGN CHOICE, assumption 27. -/
def State.f0Write (s : State) (a v : Nat) : State :=
  match a with
  | 0x02 => s.setF0 a (v &&& 6)
  | 0x04 => s.setF0 a (v &&& 7)
  | 0x06 => if nbit v 3 then s.sdioReset
    else if s.sdio.openXfer = some (nfld v 0 3) then { s with sdio := { s.sdio with openXfer := none } } else s
  | 0x07 => s.setF0 a ((if nfld v 0 2 = 0 ∨ nfld v 0 2 = 2 then nfld v 0 2 else nfld (s.f0 a) 0 2) + (v &&& 0x80))
  | 0x08 => s.setF0 a (v &&& 0x20)
  | 0x10 => s.writeBlk 0 false v
  | 0x11 => s.writeBlk 0 true v
  | 0x13 => if nfld v 1 3 < 2 ∨ (nfld v 1 3 < 5 ∧ s.sdio.v18) then s.setF0 a (v &&& 0x0E) else s
  | 0x15 => if nfld v 4 2 = 2 then s else s.setF0 a (v &&& 0x30)
  | 0x16 => s.setF0 a (v &&& 2)
  | 0xF0 => if v = 0x5A then s.raiseStop else s
  | 0x110 => s.writeBlk 1 false v
  | 0x111 => s.writeBlk 1 true v
  | 0x210 => s.writeBlk 2 false v
  | 0x211 => s.writeBlk 2 true v
  | _ => s

/-! The register window (rules R378–R380). -/

/-- What an issued access leaves in the window. -/
def State.winAfter (s : State) (code : Nat) : State :=
  let x := s.sdio
  { s with sdio := { x with
    last := BitVec.ofNat 8 code, err := x.err || code != 0, cnt := x.cnt + 1, winD := 0,
    winAddr := if x.inc then x.winAddr + 4 else x.winAddr } }

/-- An access beyond the register space completes with NO_PAGE; the access log holds its low 20 address bits. DESIGN CHOICE, assumption 27. -/
def State.winBeyond (s : State) (write : Bool) : State :=
  s.logAccess .host (s.sdio.winAddr.toNat % 2 ^ 20) write cNO_PAGE

/-- One word write through the window. -/
def State.winWrite (s : State) (v : Word) : State :=
  let a := s.sdio.winAddr
  if 2 ^ 20 ≤ a.toNat then (s.winBeyond true).winAfter cNO_PAGE
  else
    let q := s.writeAccess .host (wordAccess a.toNat) v
    (q.2.respond .host q.1 0).winAfter q.1

/-- One word read through the window. -/
def State.winRead (s : State) : Word × State :=
  let a := s.sdio.winAddr
  if 2 ^ 20 ≤ a.toNat then (0, (s.winBeyond false).winAfter cNO_PAGE)
  else
    let q := s.readAccess .host (wordAccess a.toNat)
    let w := if q.1 = cOK then q.2.1 else 0
    (w, (q.2.2.respond .host q.1 w).winAfter q.1)

/-! Function 1 (rules R377, R381, R383). -/

/-- Byte `i` of a word. -/
def byteOf (v i : Nat) : Byte := BitVec.ofNat 8 (v / 256 ^ i)

/-- Byte `i` of a register of the window with a byte replaced. -/
def putByte (w : Word) (i : Nat) (b : Byte) : Word := setFld w (8 * i) 8 b.toNat

/-- A byte of function 1 that no access of the window makes. -/
def State.f1Byte (s : State) (a : Nat) : Byte :=
  let x := s.sdio
  if 0x1000 ≤ a ∧ a < 0x2000 then x.rx.byte (a - 0x1000)
  else if 0x2000 ≤ a ∧ a < 0x2004 then byteOf x.winAddr.toNat (a - 0x2000)
  else if 0x2004 ≤ a ∧ a < 0x2008 then byteOf x.latch.toNat (a - 0x2004)
  else if 0x2010 ≤ a ∧ a < 0x2014 then byteOf x.cnt.toNat (a - 0x2010)
  else
    match a with
    | 0x200C => x.last
    | 0x200D => BitVec.ofNat 8 (x.err.toNat + x.inc.toNat * 2)
    | 0x2102 => BitVec.ofNat 8 (x.busy.toNat + x.resp.toNat * 2)
    | 0x2104 => byteOf x.rxLen 0
    | 0x2105 => byteOf x.rxLen 1
    | 0x2200 => s.f1Int
    | 0x2201 => x.intEn
    | 0x2204 => byteOf s.evtMask.toNat 0
    | 0x2205 => byteOf s.evtMask.toNat 1
    | 0x2206 => byteOf s.evtBits.toNat 0
    | 0x2207 => byteOf s.evtBits.toNat 1
    | _ => 0

/-- A read of a byte of function 1 other than WIN_BURST. -/
def State.f1Read (s : State) (a : Nat) : Byte × State :=
  let s := if a = 0x2004 then
      let q := s.winRead
      { q.2 with sdio := { q.2.sdio with latch := q.1 } }
    else s
  (s.f1Byte a, s)

/-- The doorbell rings with the length `n`: the frame is copied, or refused with OVERRUN (rule R383). -/
def State.ring (s : State) (n : Nat) : State :=
  let x := s.sdio
  if x.busy ∨ x.resp then { s with f1Int := s.f1Int ||| 8 }
  else { s with sdio := { x with busy := true, frame := x.tx.bytes 0 (min n 4096) ++ List.replicate (n - 4096) 0 } }

/-- A write of a byte of function 1 other than WIN_BURST. -/
def State.f1Write (s : State) (a : Nat) (v : Byte) : State :=
  let x := s.sdio
  if a < 0x1000 then (if x.busy then s else { s with sdio := { x with tx := x.tx.store a [v] } })
  else if 0x2000 ≤ a ∧ a < 0x2004 then
    let b := putByte x.winB (a - 0x2000) v
    { s with sdio := { x with winB := b, winAddr := if a = 0x2003 then b else x.winAddr } }
  else if 0x2004 ≤ a ∧ a < 0x2008 then
    let d := putByte x.winD (a - 0x2004) v
    let s := { s with sdio := { x with winD := d } }
    if a = 0x2007 then s.winWrite d else s
  else
    match a with
    | 0x200D => { s with sdio := { x with err := x.err && !v.getLsbD 0, inc := v.getLsbD 1 } }
    | 0x2100 => { s with sdio := { x with bell := v } }
    | 0x2101 => s.ring (x.bell.toNat + 256 * v.toNat)
    | 0x2106 => if v.getLsbD 0 then { s with sdio := { x with
        resp := false, bulkDone := x.bulkDone && !x.bulkSeen.getLsbD 0, bulkErr := x.bulkErr && !x.bulkSeen.getLsbD 1, bulkSeen := 0 } } else s
    | 0x2200 => { s with f1Int := s.f1Int &&& ~~~v }
    | 0x2201 => { s with sdio := { x with intEn := v &&& 0x0F } }
    | 0x2204 => { s with evtMask := (s.evtMask &&& 0x100) ||| BitVec.ofNat 16 v.toNat }
    | 0x2205 => { s with evtMask := (s.evtMask &&& 0xFF) ||| BitVec.ofNat 16 (v.toNat % 2 * 256) }
    | _ => s

/-- Bytes written to function 1 with their addresses; WIN_BURST forms a word from every four and drops a partial one. -/
def State.f1Writes (s : State) (acc : List Byte) (l : List (Nat × Byte)) : List Byte × State :=
  match l with
  | [] => (acc, s)
  | (a, v) :: rest =>
    if a = 0x2008 then
      let w := acc ++ [v]
      if w.length = 4 then (s.winWrite (w32 (leNat w))).f1Writes [] rest else s.f1Writes w rest
    else (s.f1Write a v).f1Writes acc rest

/-- Bytes read from function 1: `left` reads of WIN_BURST are to come, `i` have been, and `w` is the word of the present four. -/
def State.f1Reads (s : State) (left i : Nat) (w : Word) (l : List Nat) : List Byte × State :=
  match l with
  | [] => ([], s)
  | a :: rest =>
    if a = 0x2008 then
      let q : Word × State := if i % 4 ≠ 0 then (w, s) else if left < 4 then (0, s) else s.winRead
      let r := q.2.f1Reads (left - 1) (i + 1) q.1 rest
      (byteOf q.1.toNat (i % 4) :: r.1, r.2)
    else
      let q := s.f1Read a
      let r := q.2.f1Reads left i w rest
      (q.1 :: r.1, r.2)

/-! Function 2 (rules R389, R394). -/

/-- BULK_ERR rises. -/
def State.bulkFail (s : State) : State := { s with sdio := { s.sdio with bulkErr := true, bulkSeen := s.sdio.bulkSeen &&& 1 } }

/-- Bytes for the open load: those within its length are written in order of arrival. Bytes that fall into the map region, enabled since, are
discarded with BULK_ERR. DESIGN CHOICE, assumption 53. -/
def State.bulkTake (s : State) (bs : List Byte) : State :=
  match s.sdio.load.filter (·.live) with
  | none => s.bulkFail
  | some l =>
    let now := bs.take (l.len - l.bytes.length)
    let extra := bs.length - now.length
    let lost := !now.isEmpty && s.dramReach (l.addr + l.bytes.length) now.length != cOK
    let s := if now.isEmpty then s else (s.dramSet none (l.addr + l.bytes.length) now).2
    let s : State := { s with sdio := { s.sdio with load := some { l with bytes := l.bytes ++ now, beyond := l.beyond + extra } } }
    if extra ≠ 0 ∨ lost then s.bulkFail else s

/-- Bytes written to function 2. -/
def State.f2Write (s : State) (bs : List Byte) : State :=
  if bs.isEmpty then s else if s.boot.step = 3 then s.bulkTake bs else s.bootTake bs

/-! Commands (rules R371, R372). -/

/-- Whether the card answers: domain 1 is on and CMD15 has not made the card inactive. -/
def State.cardOn (s : State) : Bool := decide (1 < s.domain 1) && !s.sdio.dead

/-- What the card answers: a response, and data. -/
def State.answer (s : State) (rsp : Option (List Byte)) (data : List Byte) : State :=
  { s with sdio := { s.sdio with rsp := rsp, rdata := data, blockCrc := [] } }

/-- The flags of an R5 response: the card's state, with an error. -/
def State.r5 (s : State) (flags : Nat) : Byte := BitVec.ofNat 8 (flags + (if s.sdio.sel then 0x10 else 0))

/-- OUT_OF_RANGE of R5, and FUNCTION_NUMBER. -/
def rOutOfRange : Nat := 1
def rFunction : Nat := 2

/-- Whether a function is enabled and ready. -/
def State.fnReady (s : State) (fn : Nat) : Bool :=
  fn == 0 || (nbit (s.f0 0x02) fn && (fn == 2 || s.boot.step == 3))

/-- The error that a function's number or state gives a CMD52 or CMD53. DESIGN CHOICE, assumption 27. -/
def State.fnError (s : State) (fn : Nat) : Option Nat :=
  if 2 < fn then some rFunction else if s.fnReady fn then none else some rOutOfRange

/-- Bytes written to a function at the addresses given. -/
def State.fnWrites (s : State) (fn : Nat) (acc : List Byte) (l : List (Nat × Byte)) : List Byte × State :=
  if fn = 0 then (acc, l.foldl (fun s p => s.f0Write p.1 p.2.toNat) s)
  else if fn = 1 then s.f1Writes acc l
  else (acc, s.f2Write (l.map (·.2)))

/-- Bytes read from a function at the addresses given. -/
def State.fnReads (s : State) (fn : Nat) (l : List Nat) : List Byte × State :=
  if fn = 0 then (l.map fun a => BitVec.ofNat 8 (s.f0Read a), s)
  else if fn = 1 then s.f1Reads (l.countP (· == 0x2008)) 0 0 l
  else (l.map fun _ => 0, s)

/-- A command dropped for its CRC error. -/
def State.crcDrop (s : State) : State := (s.bump 0x80104 1).answer none []

/-- A command of the bus: with a CRC error it is neither executed nor answered (rule R372). -/
def State.cmdTake (s : State) (crcOk : Bool) (run : State → State) : State := if !crcOk ∧ s.cardOn then s.crcDrop else run s

/-- CMD52. -/
def State.cmd52 (s : State) (crcOk write : Bool) (fn addr : Nat) (data : Byte) : State :=
  if !s.cardOn then s.answer none []
  else if !crcOk then s.crcDrop
  else
    match s.fnError fn with
    | some e => s.answer (some [0, 0, s.r5 e, 0]) []
    | none =>
      if write then
        let s := (s.fnWrites fn [] [(addr, data)]).2
        s.answer (some [0, 0, s.r5 0, data]) []
      else
        let q := s.fnReads fn [addr]
        q.2.answer (some [0, 0, q.2.r5 0, q.1.headD 0]) q.1

/-- The blocks of a write: each with its number and its bytes with their addresses. -/
def blocksOf (n size i : Nat) (l : List (Nat × Byte)) : List (Nat × List (Nat × Byte)) :=
  match n with
  | 0 => []
  | k + 1 => (i, l.take size) :: blocksOf k size (i + 1) (l.drop size)

/-- The blocks of a write in turn: one with a CRC error is discarded and counted. DEDUCED, assumption 27. -/
def State.writeBlocks (s : State) (fn : Nat) (bad : List Nat) (acc : List Byte) (l : List (Nat × List (Nat × Byte))) : State :=
  match l with
  | [] => s
  | (i, b) :: rest =>
    if bad.contains i then (s.bump 0x80108 1).writeBlocks fn bad acc rest
    else
      let q := s.fnWrites fn acc b
      q.2.writeBlocks fn bad q.1 rest

/-- The CRC status of the blocks of a write, in order. -/
def State.statusOf (s : State) (n : Nat) (bad : List Nat) : State :=
  { s with sdio := { s.sdio with blockCrc := (List.range n).map fun i => !bad.contains i } }

/-- CMD53: `n` blocks of `size` bytes each, with the CRC status of each block of a write. -/
def State.cmd53Run (s : State) (write : Bool) (fn : Nat) (inc : Bool) (addr n size : Nat) (d : Cmd53Data) : State :=
  let at' := fun k : Nat => if inc then (addr + k) % 2 ^ 17 else addr
  if write then
    let bytes := d.bytes.take (n * size) ++ List.replicate (n * size - d.bytes.length) 0
    let l := bytes.zipIdx.map fun p => (at' p.2, p.1)
    let s := s.writeBlocks fn d.badBlocks [] (blocksOf n size 0 l)
    (s.answer (some [0, 0, s.r5 0, 0]) []).statusOf n d.badBlocks
  else
    let q := s.fnReads fn ((List.range (n * size)).map at')
    q.2.answer (some [0, 0, q.2.r5 0, 0]) q.1

/-- CMD53 of `n` blocks, or of an open end (0), of which `d` gives those that move before an I/O Abort: until that comes the transfer stays
in progress (rules R371, R373). DEDUCED, assumption 27. -/
def State.cmd53Blocks (s : State) (write : Bool) (fn : Nat) (inc : Bool) (addr n size : Nat) (d : Cmd53Data) : State :=
  let sent := if write then d.bytes.length / size else 0
  let k := if n = 0 then d.blocks.getD sent else min n (d.blocks.getD n)
  let s : State := { s with sdio := { s.sdio with openXfer := if n = 0 ∨ k < n then some fn else none } }
  s.cmd53Run write fn inc addr k size d

/-- CMD53. -/
def State.cmd53 (s : State) (crcOk write : Bool) (fn : Nat) (block inc : Bool) (addr count : Nat) (d : Cmd53Data) : State :=
  if !s.cardOn then s.answer none []
  else if !crcOk then s.crcDrop
  else
    match s.fnError fn with
    | some e => s.answer (some [0, 0, s.r5 e, 0]) []
    | none =>
      if !block then s.cmd53Run write fn inc addr 1 (if count = 0 then 512 else count) d
      else
        if count = 0 ∧ fn ≠ 2 then s.answer (some [0, 0, s.r5 rOutOfRange, 0]) []
        else s.cmd53Blocks write fn inc addr count (s.blockSize fn) d

/-- An access to WIN_BURST of function 1 of some length. DESIGN CHOICE, assumption 27. -/
def State.burst (s : State) (write : Bool) (data : List Byte) (words : Nat) : State :=
  if !s.cardOn then s.answer none []
  else
    match s.fnError 1 with
    | some e => s.answer (some [0, 0, s.r5 e, 0]) []
    | none => s.cmd53Run write 1 false 0x2008 1 (if write then data.length else 4 * words) { bytes := data, badBlocks := [], blocks := none }

/-! Commands of the bus, as the SDIO 3.00 standard gives them (PRESUMED, assumption 40). -/

/-- CMD0. PRESUMED, assumption 40. -/
def State.cmd0 (s : State) : State :=
  if s.sdio.dead ∨ s.domain 1 < 2 then s
  else { s with sdio := { s.sdio with ready := false, rca := 0, sel := false, rsp := none, rdata := [], blockCrc := [] } }

/-- CMD5: an inquiry, or the initialisation with a voltage window that the card shares. PRESUMED, assumption 40. -/
def State.cmd5 (s : State) (ocr : Word) : State :=
  if !s.cardOn then s.answer none []
  else
    let window := fld ocr 0 24
    let ok := window &&& 0xFF8000 ≠ 0
    if window ≠ 0 ∧ !ok then s.answer none []
    else
      let ready := s.sdio.ready || decide (window ≠ 0)
      let r := 0xFF8000 + (bit ocr 24).toNat * 2 ^ 24 + 2 * 2 ^ 28 + ready.toNat * 2 ^ 31
      State.answer { s with sdio := { s.sdio with ready := ready } } (some (beBytes 4 r)) []

/-- CMD3: the card publishes a new address, which the manual does not give. PRESUMED, assumption 40. -/
def State.cmd3 (s : State) : State :=
  if !s.cardOn ∨ !s.sdio.ready then s.answer none []
  else
    let q := s.drawMask
    let w := fld q.1 0 16
    let a : BitVec 16 := if w = 0 then 1 else BitVec.ofNat 16 w
    State.answer { q.2 with sdio := { q.2.sdio with rca := a } } (some (beBytes 2 a.toNat ++ [0, 0])) []

/-- CMD7: the card with the address is selected, and any other is deselected without a response. PRESUMED, assumption 40. -/
def State.cmd7 (s : State) (rca : BitVec 16) : State :=
  if !s.cardOn then s.answer none []
  else if s.sdio.rca ≠ 0 ∧ rca = s.sdio.rca then State.answer { s with sdio := { s.sdio with sel := true } } (some [0, 0, 0, 0]) []
  else State.answer { s with sdio := { s.sdio with sel := false } } none []

/-- CMD11: the signalling goes to 1.8 V. PRESUMED, assumption 40. -/
def State.cmd11 (s : State) : State :=
  if !s.cardOn then s.answer none []
  else State.answer { s with sdio := { s.sdio with v18 := true } } (some [0, 0, 0, 0]) []

/-- CMD15: the addressed card becomes inactive. PRESUMED, assumption 40. -/
def State.cmd15 (s : State) (rca : BitVec 16) : State :=
  if !s.cardOn ∨ rca ≠ s.sdio.rca then s.answer none []
  else State.answer { s with sdio := { s.sdio with dead := true } } none []

/-- The tuning block. -/
def tuningBlock : List Byte := [
  0xFF, 0x0F, 0xFF, 0x00, 0xFF, 0xCC, 0xC3, 0xCC, 0xC3, 0x3C, 0xCC, 0xFF, 0xFE, 0xFF, 0xFE, 0xEF,
  0xFF, 0xDF, 0xFF, 0xDD, 0xFF, 0xFB, 0xFF, 0xFB, 0xBF, 0xFF, 0x7F, 0xFF, 0x77, 0xF7, 0xBD, 0xEF] ++ [
  0xFF, 0xF0, 0xFF, 0xF0, 0x0F, 0xFC, 0xCC, 0x3C, 0xCC, 0x33, 0xCC, 0xCF, 0xFF, 0xEF, 0xFF, 0xEE,
  0xFF, 0xFD, 0xFF, 0xFD, 0xDF, 0xFF, 0xBF, 0xFF, 0xBB, 0xFF, 0xF7, 0xFF, 0xF7, 0x7F, 0x7B, 0xDE]

/-- CMD19 in SDR50 and SDR104. PRESUMED, assumption 40. -/
def State.cmd19 (s : State) : State :=
  let bss := nfld (s.f0 0x13) 1 3
  if !s.cardOn ∨ (bss ≠ 2 ∧ bss ≠ 3) then s.answer none [] else s.answer (some [0, 0, 0, 0]) tuningBlock

end Sys2Proof.Machine
end

