-- ==== Sys2Proof/Machine/Vcp.lean ====
section
/-! DEFINITION. Machine/Vcp.lean: the Voxper Command Protocol: the checks of a frame, the commands and their responses (rules
R382–R389, R401–R403, R408, R414). The layouts of payloads that the manual does not give are those of DESIGN CHOICE, assumption 41. -/

namespace Sys2Proof.Machine

/-! Frames (rules R382, R384, R385). -/

/-- The command codes of the table, and those of them that are critical (rule R387). -/
def vcpCodes : List Nat := [0x01, 0x02, 0x03, 0x04, 0x05, 0x06, 0x10, 0x11, 0x12, 0x13, 0x14, 0x15, 0x16, 0x17, 0x20, 0x21]
def vcpCritical (cmd : Nat) : Bool := (0x10 ≤ cmd && cmd ≤ 0x17) || cmd == 0x21

/-- The CMD byte of a frame. -/
def frameCmd (f : List Byte) : Nat := field f 2 1

/-- Check 1: FRAME_LEN, CMD, CRIT and the zero fields. The frame is as long as its doorbell says. -/
def frameBad (f : List Byte) : Bool :=
  let n := field f 0 2
  let cmd := frameCmd f
  let flags := field f 3 1
  decide (n < 32) || decide (4096 < n) || n != f.length || !vcpCodes.contains cmd || flags != (vcpCritical cmd).toNat ||
    (!vcpCritical cmd && !allZero (slice f 8 24))

/-- The tag of a frame or of a response under a key. -/
def frameTag (key f : List Byte) : List Byte := (hmac key (f.take 16 ++ f.drop 32)).take 16

/-- What a frame's command answered: STATUS, payload, and whether the response carries a tag. -/
structure Reply where
  status : Nat
  payload : List Byte
  tagged : Bool
deriving DecidableEq, Repr

def replyOf (status : Nat) (payload : List Byte) (tagged : Bool) : Reply := { status := status, payload := payload, tagged := tagged }

/-- Checks 4 to 8 of a critical frame: a reply, or nothing where the command runs. DESIGN CHOICE, assumption 41. -/
def State.checkCritical (s : State) (f : List Byte) : Option Reply × State :=
  if s.lockdown then (some (replyOf cLOCKED [] false), s)
  else
    match s.sec.cmdKey with
    | none => (some (replyOf cNO_KEY [] false), s)
    | some key =>
      let ctr := field f 8 8
      if frameTag key f ≠ slice f 16 16 then (some (replyOf cAUTH_FAIL [] false), (s.bump 0x80118 1).tagFailure)
      else if ctr ≤ s.sec.lastCtr.toNat then
        let same := ctr = s.sec.lastCtr.toNat ∧ ctr ≠ 0
        (some (replyOf cREPLAY (if same then [s.sec.lastStatus] else []) true), (s.bump 0x8011C 1).replayFailure)
      else
        (none, ({ s with sec := { s.sec with lastCtr := BitVec.ofNat 64 ctr } }.setRf 0x411C 8 8 0).setRf 0x411C 16 8 0)

/-- The response to a frame (rules R22, R382, R383): it is written, BUSY clears and RESP rises. -/
def State.sendReply (s : State) (f : List Byte) (r : Reply) : State :=
  let ver := s.sdio.ver.getD 0
  let head := leBytes 2 (32 + r.payload.length) ++ [BitVec.ofNat 8 (frameCmd f), BitVec.ofNat 8 r.status, BitVec.ofNat 8 ver, 0] ++
    leBytes 10 (field f 6 10)
  let bare := head ++ List.replicate 16 0 ++ r.payload
  let tag := match s.sec.cmdKey with
    | some k => if r.tagged then frameTag k bare else List.replicate 16 0
    | none => List.replicate 16 0
  let bytes := head ++ tag ++ r.payload
  let s := (s.bumpWrap 0x70110 1).setReg 0x70114 (w32 (frameCmd f + r.status * 256 + field f 6 2 * 65536))
  let s := (if r.status = cOK then s else s.bump 0x70118 1).intRaise .mbox 1
  { s with
    f1Int := s.f1Int ||| 1
    sdio := { s.sdio with rx := s.sdio.rx.store 0 bytes, rxLen := bytes.length, busy := false, resp := true } }

/-- A key is installed after the response that announces it (rule R402). -/
def State.keyAfter (s : State) (k : Option (List Byte)) : State :=
  match k with
  | some k => s.installKey k
  | none => s

/-- The frame that the doorbell rang is processed by `run`, which answers its STATUS, its payload, a key that takes over after the
response and the state, in the order of rule R384. DESIGN CHOICE, assumption 22. -/
def State.vcpRun (s : State) (f : List Byte) (run : State → List Byte → Nat × List Byte × Option (List Byte) × State) : State :=
  let cmd := frameCmd f
  if frameBad f then s.sendReply f (replyOf cARG [] false)
  else if cmd = 0x03 then s.raiseStop.sendReply f (replyOf cOK [] false)
  else if cmd ≠ 0x01 ∧ (s.sdio.ver ≠ some (field f 4 1) ∨ field f 5 1 ≠ 0) then s.sendReply f (replyOf cVERSION [] false)
  else if vcpCritical cmd then
    match s.checkCritical f with
    | (some r, s) => s.sendReply f r
    | (none, s) =>
      let q := run s (f.drop 32)
      let s := q.2.2.2
      let s := { s with sec := { s.sec with lastStatus := BitVec.ofNat 8 q.1 } }
      (s.sendReply f (replyOf q.1 q.2.1 true)).keyAfter q.2.2.1
  else
    let q := run s (f.drop 32)
    q.2.2.2.sendReply f (replyOf q.1 q.2.1 (cmd == 0x20 && q.1 == cOK && field f 32 1 == 2))

/-- A command of the table takes the waiting frame where the frame holds its code, or no code of the table. -/
def State.vcpTakeKey (s : State) (code : Nat) (run : State → List Byte → Nat × List Byte × Option (List Byte) × State) : State :=
  let f := s.sdio.frame
  if s.sdio.busy ∧ (frameCmd f = code ∨ !vcpCodes.contains (frameCmd f)) then s.vcpRun f run else s

/-- As `vcpTakeKey`, for a command that announces no key. -/
def State.vcpTake (s : State) (code : Nat) (run : State → List Byte → Nat × List Byte × State) : State :=
  s.vcpTakeKey code fun s p =>
    let q := run s p
    (q.1, q.2.1, none, q.2.2)

/-! Link and state (rules R386, R387). -/

/-- HELLO: the highest major common to both ranges, which is 1, minor 0. DESIGN CHOICE, assumption 41. -/
def State.vcpHello (s : State) (p : List Byte) : Nat × List Byte × State :=
  if p.length ≠ 2 then (cARG, [], s)
  else if field p 0 1 ≤ 1 ∧ 1 ≤ field p 1 1 then (cOK, [1, 0], { s with sdio := { s.sdio with ver := some 1 } })
  else (cVERSION, [], { s with sdio := { s.sdio with ver := none } })

/-- STATUS_GET. DESIGN CHOICE, assumption 41. -/
def State.vcpStatus (s : State) (p : List Byte) : Nat × List Byte × State :=
  if !p.isEmpty then (cARG, [], s)
  else (cOK, leBytes 8 s.sec.lastCtr.toNat ++ [BitVec.ofNat 8 (s.sdio.ver.getD 0), 0] ++ wordBytes [s.reg 0x411C] ++
    [BitVec.ofNat 8 s.stopLine.toNat, BitVec.ofNat 8 s.boot.step], s)

/-- ATTEST_GET. -/
def State.vcpAttest (s : State) (p : List Byte) : Nat × List Byte × State :=
  if p.length ≠ 32 then (cARG, [], s)
  else
    let q := s.attest p
    (cOK, q.1, q.2)

/-! Bulk loads (rules R381, R389). -/

/-- BULK_DONE and BULK_ERR as a load command's response carries them; the acknowledgement of that response clears them. DESIGN CHOICE,
assumption 41. -/
def State.bulkBits (s : State) : List Byte × State :=
  let b := BitVec.ofNat 8 (s.sdio.bulkDone.toNat + s.sdio.bulkErr.toNat * 2)
  ([b], { s with sdio := { s.sdio with bulkSeen := b } })

/-- The ranges of LPDDR6 that a load must leave alone. -/
def State.loadAvoids (s : State) : List (Nat × Nat) :=
  let rings := ((List.range 52).filter s.ringOn).map fun i => (s.ringBase i, s.ringSlots i * s.ringSlotBytes i)
  let at' : Nat → Nat → Nat := fun c o => fld (s.hg c (o + 4)) 0 4 * 2 ^ 32 + (s.hg c o).toNat
  let ctxs : List (Nat × Nat) := (s.head.ctxs.filter fun p => p.2.state ≠ .free).flatMap fun p =>
    [(at' p.1 0x140, (s.hg p.1 0x148).toNat * 64)] ++
    [(at' p.1 0x304, (s.hg p.1 0x30C).toNat * 64)] ++
    (if p.2.state = .running ∨ p.2.pend.isSome then
      p.2.bound.filterMap fun w => w.2.bind fun w => if w.basin.isNone then some (w.base, w.size) else none
    else [])
  rings ++ ctxs

/-- LOAD_BEGIN. -/
def State.vcpLoadBegin (s : State) (p : List Byte) : Nat × List Byte × State :=
  let a := field p 0 8
  let n := field p 8 8
  if p.length ≠ 16 ∨ s.sdio.load.any (·.live) ∨ a % 64 ≠ 0 ∨ n = 0 then (cARG, [], s)
  else if s.memTop < a + n ∨ s.inMap a n ∨ s.loadAvoids.any (fun r => rangesMeet r.1 r.2 a n) then (cBOUNDS, [], s)
  else
    let q := State.bulkBits { s with sdio := { s.sdio with load := some { addr := a, len := n, beyond := 0, bytes := [], live := true } } }
    (cOK, q.1, q.2)

/-- LOAD_END. DESIGN CHOICE, assumption 41. -/
def State.vcpLoadEnd (s : State) (p : List Byte) : Nat × List Byte × State :=
  match s.sdio.load with
  | none => (cARG, [], s)
  | some l =>
    if !p.isEmpty then (cARG, [], s)
    else
      let q := State.bulkBits { s with sdio := { s.sdio with load := none, bulkDone := true } }
      (cOK, leBytes 8 l.bytes.length ++ leBytes 8 l.beyond ++ sha256 l.bytes ++ q.1, q.2)

/-! Critical commands (rules R387, R388). -/

/-- A register write of the management controller at a word address of a payload. -/
def State.mgmtWrite (s : State) (a v : Word) : Nat × State :=
  if a.toNat % 4 = 0 ∧ 2 ^ 20 ≤ a.toNat then (cNO_PAGE, s.logAccess .mgmt (a.toNat % 2 ^ 20) true cNO_PAGE)
  else s.writeAccess .mgmt (wordAccess a.toNat) v

/-- STOP_REL of the channels of a list, until one write does not complete with OK. -/
def State.releaseAll (s : State) (cs : List Nat) : Nat × State :=
  match cs with
  | [] => (cOK, s)
  | c :: rest =>
    let q := s.mgmtWrite (w32 (loopBase c + 0x170)) 0x80
    if q.1 ≠ cOK then q else q.2.releaseAll rest

/-- ACT_ENABLE (rules R144, R307, R308, R361). DESIGN CHOICE, assumption 41. -/
def State.vcpActEnable (s : State) (p : List Byte) : Nat × List Byte × State :=
  if p.length ≠ 8 ∨ 2 ^ 24 ≤ field p 0 4 then (cARG, [], s)
  else if (List.range 64).any (fun c => s.rpMode c == 2) then (cLOCKED, [], s)
  else
    let q := State.mgmtWrite { s with stopLine := false } 0x5A600 (w32 (field p 0 4))
    if q.1 ≠ cOK then (q.1, [], q.2)
    else
      let r := q.2.releaseAll (ones 32 (field p 4 4))
      (r.1, [], r.2)

/-- The writes of a list in order, until one does not complete with OK: the writes made and the code. A trip that falls in the write at an
index is taken after it, and a DRAIN stops the list there (rule R408). -/
def State.writeList (s : State) (done : Nat) (mid : Option (Nat × MidTrip)) (l : List (Word × Word)) : Nat × Nat × State :=
  match l with
  | [] => (done, cOK, s)
  | (a, v) :: rest =>
    let q := s.mgmtWrite a v
    let n := if q.1 = cOK then done + 1 else done
    match mid.filter (·.1 == done) with
    | some t =>
      let u := q.2.midTrip t.2
      if q.2.midDrains t.2 then (n, cNO_KEY, u) else if q.1 ≠ cOK then (n, q.1, u) else u.writeList n none rest
    | none => if q.1 ≠ cOK then (n, q.1, q.2) else q.2.writeList n mid rest

/-- The entries of a write list, if its count and length agree. -/
def listEntries (p : List Byte) : Option (List (Word × Word)) :=
  let c := field p 0 4
  if p.length < 4 ∨ c = 0 ∨ 504 < c ∨ p.length ≠ 4 + 8 * c then none
  else some ((List.range c).map fun i => (w32 (field p (4 + 8 * i) 4), w32 (field p (8 + 8 * i) 4)))

/-- MISSION_LOAD, restricted to loop-channel pages, and MODE_CHANGE. DESIGN CHOICE, assumption 41. -/
def State.vcpWrites (s : State) (loops : Bool) (mid : Option (BitVec 9 × MidTrip)) (p : List Byte) : Nat × List Byte × State :=
  match listEntries p with
  | none => (cARG, [], s)
  | some l =>
    let outside := fun (e : Word × Word) => decide (2 ^ 20 ≤ e.1.toNat) || regionOf e.1.toNat != 4
    if loops ∧ l.any outside then (cARG, [], s)
    else
      let q := s.writeList 0 (mid.map fun t => (t.1.toNat, t.2)) l
      (q.2.1, leBytes 4 q.1 ++ [BitVec.ofNat 8 q.2.1], q.2.2)

/-- Domains asleep by their idle timers that an admission names leave sleep (rule R426). -/
def State.wakeAdmitted (s : State) : State :=
  s.wakeForImage (((List.range 28).map (· + 2)).foldl (fun a d => if d = 2 ∨ s.imageNames d then a + 2 ^ d else a) 0)

/-- ADMIT (rules R338, R387). DEDUCED, assumption 39. -/
def State.vcpAdmitImage (s : State) (p : List Byte) : Nat × List Byte × State :=
  if p.length < 48 then (cARG, [], s)
  else if s.domain 2 < 2 then (cOFF_DOMAIN, [], s)
  else
    let digest := slice p 16 32
    let q := s.dramGet none (field p 0 8) (field p 8 8)
    if q.1 ≠ cOK then (q.1, [], q.2.2)
    else if sha256 q.2.1 ≠ digest then (cAUTH_FAIL, [], (q.2.2.bump 0x80118 1).tagFailure)
    else
      let r := q.2.2.takeImage q.2.1 digest (p.drop 48) (s.rf 0x73128 0 3)
      (r.1, [], if r.1 = cOK then r.2.wakeAdmitted else r.2)

/-- REVOKE (rule R321). -/
def State.vcpRevoke (s : State) (p : List Byte) : Nat × List Byte × State :=
  if p.length ≠ 8 then (cARG, [], s)
  else if s.domain 2 < 2 then (cOFF_DOMAIN, [], s)
  else (cOK, [], s.revokeImages fun i => i.ctxs.any fun c => nbit (field p 0 8) c)

/-- The window that a payload's base and size name: LPDDR6, or the cistern of a logical basin where bit 63 of the base is 1 (rules
R154, R200, R206). -/
def State.windowOf (s : State) (base size : Nat) : Nat × Window :=
  let w : Window := { basin := none, base := base, size := size }
  if base % 64 ≠ 0 then (cARG, w)
  else if nbit base 63 then
    let b := nfld base 24 4
    if nfld base 28 35 ≠ 0 then (cARG, w)
    else if s.logicalBasins ≤ b ∨ 0xC00000 < nfld base 0 24 + size then (cBOUNDS, w)
    else (cOK, { basin := some b, base := nfld base 0 24, size := size })
  else if s.memTop < base + size then (cBOUNDS, w)
  else (cOK, w)

/-- WINDOW_BIND (rules R201, R387). DESIGN CHOICE, assumption 41. -/
def State.vcpBind (s : State) (p : List Byte) : Nat × List Byte × State :=
  let c := field p 0 1
  let n := field p 1 1
  let x := s.ctx c
  if p.length ≠ 24 ∨ !allZero (slice p 2 6) ∨ 63 < c then (cARG, [], s)
  else if s.domain 2 < 2 then (cOFF_DOMAIN, [], s)
  else if x.state = .free ∨ x.state = .running ∨ x.pend.isSome ∨ x.tearing.isSome ∨ x.windows ≤ n then (cARG, [], s)
  else
    let q := s.windowOf (field p 8 8) (field p 16 8)
    if q.1 ≠ cOK then (q.1, [], s) else (cOK, [], s.setCtx c { x with bound := Cells.put none x.bound n (some q.2) })

/-- PERF_LIMIT. DESIGN CHOICE, assumption 41. -/
def State.vcpPerfLimit (s : State) (p : List Byte) : Nat × List Byte × State :=
  if p.length ≠ 1 then (cARG, [], s)
  else
    let q := if 4 < field p 0 1 then (cARG, s) else s.writePerfLimit (w32 (field p 0 1))
    (q.1, [], q.2)

/-- DEBUG_POLICY (rule R414). -/
def State.vcpDebug (s : State) (p : List Byte) : Nat × List Byte × State :=
  if p.length ≠ 4 then (cARG, [], s)
  else
    let q := s.mgmtWrite 0x76100 (w32 (field p 0 4))
    (q.1, [], q.2)

/-- A trip that falls in a command which would install a key: a DRAIN ends it with NO_KEY and nothing installed (rule R408), and any other
lets `run` go on. -/
def State.midKey {α : Type} (s : State) (mid : Option MidTrip) (ended : State → α) (run : State → α) : α :=
  match mid with
  | none => run s
  | some t => if s.midDrains t then ended (s.midTrip t) else run (s.midTrip t)

/-- KEY_EXCHANGE: a failure of phase 2 counts as AUTH_FAIL does (rule R401). -/
def State.vcpExchange (s : State) (phase2 : Bool) (mid : Option MidTrip) (p : List Byte) : Nat × List Byte × State :=
  if phase2 then
    s.midKey mid (fun s => (cNO_KEY, [], s)) fun s =>
      let q := s.keyPhase2 p
      (q.1, q.2.1, if q.1 = cAUTH_FAIL then q.2.2.bump 0x80118 1 else q.2.2)
  else s.keyPhase1 p

/-- The frame's phase: payload byte 0 is 2 for phase 2. -/
def State.exchangeTake (s : State) (phase2 : Bool) (mid : Option MidTrip) : State :=
  let f := s.sdio.frame
  if vcpCodes.contains (frameCmd f) && (field f 32 1 == 2) != phase2 then s
  else s.vcpTake 0x20 fun s p => s.vcpExchange phase2 mid p

/-- KEY_ROTATE. -/
def State.rotateTake (s : State) (mid : Option MidTrip) : State :=
  s.vcpTakeKey 0x21 fun s p => s.midKey mid (fun s => (cNO_KEY, [], none, s)) fun s => s.keyRotate p

end Sys2Proof.Machine
end

