-- ==== Sys2Proof/Machine/Events.lean ====
section
/-! DEFINITION. Machine/Events.lean: what every command shares (reset and sleeping domains, rules R422, R430, R474), events
of the LPDDR6 controllers and the headgate, writes whose operands the outside refines, and the tick of the timing clock that an empty
queue gives. -/

namespace Sys2Proof.Machine

/-- The outcome of a command. -/
abbrev Res := Host.Outcome State Fault Refusal

/-- The next state after a command: what the rules R50, R215, R381 and R420 derive is brought up to date, unless AON_RST_N holds the
block in reset. -/
def State.fin (s : State) : Res := .next (if s.power.held then s else s.done)

/-- A command with the effect `f`; while AON_RST_N holds the block in reset, none has one (rule R474). DEDUCED, assumption 4. DEDUCED, assumption 16. -/
def State.act (s : State) (f : State → State) : Res := if s.power.held then .next s else .next (f s).done

/-- Whether what lies in power domain `d` runs: the domain is ON, or is being asked to sleep and has not agreed (rules R427,
R430). DEDUCED, assumption 16. -/
def State.runs (s : State) (d : Nat) : Bool :=
  s.domain d == 2 || (s.domain d == 4 && !s.power.agreed.contains d)

/-- An event of domain `d`: it does not occur while the domain does not run (DEDUCED, assumption 16). -/
def State.actIn (s : State) (d : Nat) (f : State → State) : Res := s.act fun s => if s.runs d then f s else s

/-! LPDDR6 (rules R205–R214). -/

/-- The lines in error of controller `m`'s channels, below MEM_TOP. -/
def State.mcLines (s : State) (m : Nat) : List Nat :=
  (s.dramBad.map (·.1)).filter fun line => 64 * line < s.memTop && s.lineChan line / 2 == m

/-- One pass of the patrol scrub of controller `m` (rule R212); then the upsets of the pass strike, each a line and its wrong
bytes. DESIGN CHOICE, assumption 23. -/
def State.patrol (s : State) (m : Nat) (upsets : List (Nat × Nat)) : State :=
  let on := bit (s.reg (mcCfg m + 0x1C)) 0 && s.runs (32 + m)
  let s := if on then ((s.mcLines m).foldl (fun s line => (s.readLine line none true).2) s).bumpWrap (mcCfg m + 0x24) 1 else s
  upsets.foldl (fun s x =>
    if 64 * x.1 < s.memTop ∧ s.lineChan x.1 / 2 = m then s.setLineBad x.1 (min 64 (s.lineBad x.1 + x.2)) else s) s

/-- The temperature status of both channels is read: REFRESH_STAT (rules R211, R217). Code 0b11 is not used. -/
def State.dramTemp (s : State) (m : Nat) (r0 r1 : BitVec 2) : State :=
  if r0 = 3 ∨ r1 = 3 then s else s.setReg (mcCfg m + 0x20) (w32 (r0.toNat + r1.toNat * 4))

/-- A refresh of controller `m`'s banks changes timing only (rule R211). -/
def State.refreshed (s : State) (_m : Fin 4) : State := s

/-- A channel does not respond within 10 µs (rules R214, R217, R482). -/
def State.channelDead (s : State) (m c : Nat) : State :=
  if s.chanRetired (2 * m + c) then s
  else ((s.errCapture (.mc m) cDEGRADED 3 0xFF 0).lastCode (.mc m) cDEGRADED).foldChannel (2 * m + c)

/-! Supplies (rules R471–R473). -/

/-- The number of a rail: 0 SOC, 1 LOOP, 2 CORE. -/
def railNo (r : Rail) : Nat :=
  match r with
  | .soc => 0
  | .loop => 1
  | .core => 2

/-! The headgate (rule R343). -/

/-- The wait of a descriptor at the first or the second place, if it is enabled. -/
def waitAtPlace (k : EngClass) (d : List Word) (second : Bool) : Option (Nat × Nat) :=
  match k.waitAt[second.toNat]? with
  | some i => (gatesAt d [i]).head?
  | none => none

/-- Whether a slot in force on an engine is one in which context `c` issues (rules R331, R341). -/
def State.slotHas (s : State) (c e : Nat) : Bool :=
  let act := s.slotsAt e (s.now 7)
  (s.slotOrder act false 63 ++ s.slotOrder act true 63).contains c

/-- The wait of the head of list `i` of context `c` at a place, while its timeout runs: the gate wait, and what is held of the head's
waits (rule R343). -/
def State.timedWait (s : State) (c i : Nat) (second : Bool) : Option ((Nat × Nat) × HeadWait) :=
  match (s.ctx c).lists[i]?, s.listHead c i, Cells.get none (s.ctx c).waits i with
  | some l, some (d, _), some h =>
    if (if second then h.gone1 else h.gone0) then none
    else (waitAtPlace (listClass l.code) d second).map fun w => (w, h)
  | _, _, _ => none

/-- Whether the timeout of a wait has run out: G_TIMEOUT µs from the moment from which it runs; 0 disables it (rule R343). -/
def State.waitExpired (s : State) (w : (Nat × Nat) × HeadWait) : Bool :=
  let t := (s.gate w.1.1).timeout.toNat
  t != 0 && decide (w.2.since + 1000 * t ≤ s.now 7)

/-- TIMEOUT of a gate on which the head of context `c` on engine `eng` waits (rule R343): the command does not run, unless the wait is
satisfied when its timeout expires, which ends that timeout. -/
def State.waitTimeout (s : State) (c eng : Nat) (second : Bool) : State :=
  match s.listOn c eng with
  | none => s
  | some i =>
    match s.timedWait c i second with
    | none => s
    | some w =>
      if !s.waitExpired w then s
      else if s.waitHolds w.1 then (s.skipHead c i cTIMEOUT).sweep
      else
        let x := s.ctx c
        let h := if second then { w.2 with gone1 := true } else { w.2 with gone0 := true }
        s.setCtx c { x with waits := Cells.put none x.waits i (some h) }

/-- From now on the timeouts run of every head that waits while a slot of its context covers its engine (rule R343). -/
def State.noteWaits (s : State) : State :=
  s.live.foldl (fun s p => (List.range p.2.lists.length).foldl (fun s i =>
    let x := s.ctx p.1
    if (s.headWaits p.1 i).isEmpty ∨ (Cells.get none x.waits i).isSome ∨ !s.slotHas p.1 (s.listEngine p.1 i) then s
    else s.setCtx p.1 { x with waits := Cells.put none x.waits i (some { since := s.now 7, gone0 := false, gone1 := false }) }) s) s

/-! Writes whose operands the outside refines. -/

/-- A write of TX_ABORT, with the buffers that have begun arbitration (rule R138). -/
def State.abortWrite (s : State) (r : Requester) (c bufs begun : Nat) : State :=
  let a := wordAccess (0x59690 + 4 * c)
  match s.settled r a true with
  | some code => (s.unserved r a.addr.toNat true code).respond r code 0
  | none =>
    let q := s.txAbort r c bufs begun
    q.2.respond r q.1 0

/-- WAKE_REQ (rule R441): the words of the mask that are not 0, the low one first. -/
def State.wakeWrite (s : State) (r : Requester) (mask : BitVec 36) : State :=
  let lo := w32 mask.toNat
  let hi := w32 (mask.toNat / 2 ^ 32)
  let s := if lo ≠ 0 ∨ hi = 0 then s.regWrite r (wordAccess 0x3128) lo else s
  if hi = 0 then s else s.regWrite r (wordAccess 0x312C) hi

/-- A write of CFG of the requester's slot with ARM = 0, the other fields kept (rule R116). -/
def State.disarmWrite (s : State) (r : Requester) : State :=
  s.regWrite r (wordAccess 0x2104) (setBit (s.slotW (fld (s.own r 0x2100) 0 8) 0) 0 false)

/-- A write of MGMT_WD with KICK = 1, the other fields kept (rule R462). -/
def State.kickWrite (s : State) (r : Requester) : State := s.regWrite r (wordAccess 0x5128) (setBit (s.reg 0x5128) 0 true)

/-- An edge of SPIk_DRDY (rule R137). -/
def State.drdy (s : State) (k : Nat) (rising : Bool) : State :=
  if bit (s.reg (spiBase k)) 8 = rising then s.spiTrigger k 1 else s

/-- The ring's CTRL with EN as given (rule R147). -/
def ringCtrl (en : Bool) (ctrl : BitVec 3) : Word := setBit (w32 ctrl.toNat) 0 en

/-- A byte access of the host's SDIO controller (rule R374). -/
def State.hostByte (s : State) (write : Bool) (fn addr : Nat) (data : Byte) : State := s.cmd52 true write fn addr data

/-! The tick (DESIGN CHOICE, assumption 17). -/

/-- The slots of the frame whose nominal start lies after `t0` and not after `t1` on TC7 (rules R329, R332). -/
def State.slotsPassed (s : State) (t0 t1 : Nat) : List Nat :=
  let frame := (s.reg 0x10100).toNat
  (s.slotEntries.zipIdx.filter fun p =>
    let first := s.frameOrigin + (dw p.1 0).toNat
    frame ≠ 0 && first ≤ t1 && (t0 < first || (t0 - first) / frame != (t1 - first) / frame)).map (·.2)

/-- The wait timeouts of a context that run out at this moment. -/
def State.timeouts (s : State) (c : Fin 64) : List Instr :=
  (List.range (s.ctx c.val).lists.length).flatMap fun i => [false, true].filterMap fun second =>
    match s.timedWait c.val i second with
    | some w => if s.waitExpired w then some (Instr.timeout c (BitVec.ofNat 8 (s.listEngine c.val i)) second) else none
    | none => none

/-- The commands that the headgate's contexts raise at this moment. -/
def State.ctxEvents (s : State) (c : Fin 64) : List Instr :=
  let x := s.ctx c.val
  (if x.state = .running ∧ !x.missed ∧ x.deadline ≤ s.now 7 then [Instr.deadline c] else []) ++
  (if x.tearing.isSome ∧ !s.ctxRuns c.val then [Instr.teardownComplete c] else []) ++
  (if x.state = .running ∧ x.tearing.isNone then s.timeouts c else []) ++
  (if x.pend.isSome ∧ x.state = .admitted ∧ x.tearing.isNone ∧ !s.ckBusy then [Instr.pendingStart c] else [])

/-- SLEEP_NS of the device's sleep state (rule R441). -/
def State.tickSleep (s : State) : State :=
  let t := s.rf 0x3104 0 2
  if t = 0 then s else s.bump64 (0x3130 + 8 * (t - 1)) s.tickNs

/-- The outputs whose period ends at the tick that comes (rule R142). -/
def State.pwmEnding (s : State) : List (Fin 24) := (List.finRange 24).filter fun k => s.pwmEnds k.val

/-- One tick of everything that counts the timing clock; the engines' commands whose end has come then end. DESIGN CHOICE, assumption 17. -/
def State.tickClocks (s : State) : State :=
  let s := if s.runs 2 then s.noteWaits else s
  let s := s.tickCounters.tickIdle.tickSleep
  let s := if s.runs 31 then (List.range 24).foldl State.pwmTick s else s
  let s := { (if s.runs 2 then s.endDue else s) with boot := { s.boot with resetting := false } }
  s.fixFirings

/-- The commands that fall due with a tick from state `s0` to state `s`: ends of PWM periods, slot firings in ascending number (rule R114),
what the contexts raise, slots of the frame, and idle expiries. DESIGN CHOICE, assumption 17. -/
def State.tickCommands (s0 s : State) : List Instr :=
  (if s0.runs 31 then s0.pwmEnding.map Instr.pwmPeriodEnd else []) ++
  s.dueSlots.map Instr.slotFire ++
  (if s.runs 2 then (List.finRange 64).flatMap s.ctxEvents ++ (s.slotsPassed (s0.now 7) (s.now 7)).map Instr.frameSlotStart else []) ++
  ((List.finRange 36).filter fun d => s.idleDue d.val).map Instr.idleExpiry

/-- A step on an empty queue: one tick of the timing clock, and the commands that fall due with it. DESIGN CHOICE, assumption 17. -/
def State.tick (s : State) : Res :=
  if s.power.held then .next s
  else
    let t := s.tickClocks
    .next ({ t with pending := t.pending ++ State.tickCommands s t } : State).done

end Sys2Proof.Machine
end

