-- ==== Sys2Proof/Machine/CmdEdge.lean ====
section
/-! DEFINITION. Machine/CmdEdge.lean: the edge ports (rules R107, R118–R147). -/

namespace Sys2Proof.Machine

/-- A frame-start packet (rule R130). -/
def execFrameStart (r : Fin 6) (vc : Fin 4) (num : BitVec 16) (s : State) : Res := s.actIn 31 fun s => s.csiStart r.val vc.val num

/-- A long packet (rules R130, R131). -/
def execLongPacket (r : Fin 6) (h : HdrEcc) (vc : Fin 4) (dt : BitVec 6) (data : List Byte) (crcOk : Bool) (s : State) : Res :=
  s.actIn 31 fun s => s.csiLong r.val h vc.val dt data crcOk

/-- A frame-end packet (rule R130). -/
def execFrameEnd (r : Fin 6) (vc : Fin 4) (s : State) : Res := s.actIn 31 fun s => s.csiEnd r.val vc.val

/-- Loss of HS synchronisation (rule R130). -/
def execHsSyncLoss (r : Fin 6) (s : State) : Res := s.actIn 31 fun s => s.csiLoss r.val

/-- A lane regains HS synchronisation (rule R129). -/
def execResync (r : Fin 6) (s : State) : Res := s.actIn 31 fun s => s.csiResync r.val

/-- A received Ethernet frame (rules R107, R132, R133). -/
def execEthFrameReceive (p : Fin 2) (frame : List Byte) (fcsOk : Bool) (dur : BitVec 32) (s : State) : Res :=
  s.actIn 31 fun s => s.ethReceive p frame fcsOk dur.toNat

/-- A frame of the management controller is sent (rules R107, R135). -/
def execEthFrameTransmit (p : Fin 2) (frame : List Byte) (s : State) : Res :=
  s.actIn 31 fun s => if s.mgmtRuns then s.ethTransmit p frame else s

/-- Loss of link (rule R135). -/
def execLinkDown (p : Fin 2) (s : State) : Res := s.actIn 31 fun s => s.ethLinkDown p.val

/-- The link is up again (rules R129, R135). -/
def execLinkRetry (p : Fin 2) (speed : BitVec 2) (s : State) : Res := s.actIn 31 fun s => s.ethLinkRetry p.val speed

/-- A write of MDIO_CMD with GO as given (rule R135). -/
def execMdioGo (req : Requester) (p : Fin 2) (cmd : BitVec 13) (s : State) : Res :=
  s.act fun s => s.regWrite req (wordAccess (ethBase p.val + 0x128)) (w32 (cmd.toNat + 2 ^ 13))

/-- An MDIO frame completes (rule R135). -/
def execMdioDone (p : Fin 2) (data : BitVec 16) (s : State) : Res := s.actIn 31 fun s => s.mdioDone p.val data

/-- An edge of SPIk_DRDY (rules R136, R137). -/
def execDrdyEdge (k : Fin 4) (rising : Bool) (s : State) : Res := s.actIn 31 fun s => s.drdy k.val rising

/-- PERIOD_US of an SPI controller expires (rules R136, R137). -/
def execSpiPeriod (k : Fin 4) (s : State) : Res := s.actIn 31 fun s => s.spiTrigger k.val 2

/-- The last SCLK edge of an SPI transfer (rules R125, R126). -/
def execSpiTransferEnd (k : Fin 4) (data : List Byte) (s : State) : Res := s.actIn 31 fun s => s.spiEnd k.val data

/-- A received UART byte (rules R125, R126, R137). -/
def execUartByte (u : Fin 2) (b : Byte) (parityErr framingErr : Bool) (dur : BitVec 32) (s : State) : Res :=
  s.actIn 31 fun s => s.uartByte u.val b parityErr framingErr dur.toNat

/-- IDLE bit-times of line idle (rule R126). -/
def execUartIdleGap (u : Fin 2) (s : State) : Res := s.actIn 31 fun s => s.uartGap u.val

/-- A received CAN frame (rules R126, R138). -/
def execCanFrameReceive (c : Fin 4) (f : CanFrame) (s : State) : Res := s.actIn 31 fun s => s.canReceive c.val f

/-- A write of TX_REQ (rule R138). -/
def execTxReq (req : Requester) (c : Fin 4) (bufs : BitVec 16) (s : State) : Res :=
  s.act fun s => s.regWrite req (wordAccess (0x59680 + 4 * c.val)) (w32 bufs.toNat)

/-- A write of TX_ABORT; `begun` marks the buffers that have begun arbitration (rule R138). -/
def execTxAbort (req : Requester) (c : Fin 4) (bufs : BitVec 16) (begun : BitVec 16) (s : State) : Res :=
  s.act fun s => s.abortWrite req c.val bufs.toNat begun.toNat

/-- A CAN buffer has been sent (rule R138). -/
def execTxDone (c : Fin 4) (b : Fin 16) (s : State) : Res := s.actIn 31 fun s => s.txDone c.val b.val

/-- A CAN controller enters bus-off (rule R138). -/
def execBusOff (c : Fin 4) (s : State) : Res := s.actIn 31 fun s => s.canBusOff c.val

/-- A CAN controller recovers from bus-off (rule R138). -/
def execBusOffRecovery (c : Fin 4) (s : State) : Res := s.actIn 31 fun s => s.canRecover c.val

/-- A level change of an encoder input that holds for `held` ticks; the filter accepts it or not (rules R139, R141). -/
def execEncoderEdge (e : Fin 8) (a b : Bool) (s : State) (held : BitVec 9 := 0x1FF) : Res :=
  s.actIn 31 fun s => if s.encAccepts e.val held.toNat then s.encEdge e.val a b else s

/-- A rising change of Z that holds for `held` ticks, with a count step accepted on the same tick (rule R139). -/
def execIndexEdge (e : Fin 8) (step : Option (Bool × Bool)) (s : State) (held : BitVec 9 := 0x1FF) : Res :=
  s.actIn 31 fun s => if s.encAccepts e.val held.toNat then s.encIndex e.val step else s

/-- The sinc3 filter writes an output (rules R140, R141). -/
def execSdOutput (d : Fin 8) (bits : List Bool) (s : State) : Res := s.actIn 31 fun s => s.sdOutput d.val bits

/-- 256 identical sigma-delta bits (rule R140). -/
def execStuck (d : Fin 8) (s : State) : Res := s.actIn 31 fun s => s.sdStuck d.val true

/-- A PWM counter ends its period (rule R142). -/
def execPwmPeriodEnd (k : Fin 24) (s : State) : Res := s.actIn 31 fun s => s.pwmPeriodEnd k.val

/-- A write of DUTY (rules R143, R145). -/
def execDutyWrite (req : Requester) (k : Fin 24) (duty : BitVec 24) (s : State) : Res :=
  s.act fun s => s.regWrite req (wordAccess (pwmBase k.val + 8)) (w32 duty.toNat)

/-- A write of PWM_SYNC (rule R145). -/
def execPwmSync (req : Requester) (mask : BitVec 24) (s : State) : Res :=
  s.act fun s => s.regWrite req (wordAccess (0x5A608)) (w32 mask.toNat)

/-- A write of a ring's CTRL with EN = 1 (rules R123, R147). -/
def execRingEnable (req : Requester) (i : Fin 52) (ctrl : BitVec 3) (s : State) : Res :=
  s.act fun s => s.regWrite req (wordAccess (ringGroup i.val + 0x10)) (ringCtrl true ctrl)

/-- A write of a ring's CTRL with EN = 0 (rules R123, R147). -/
def execRingDisable (req : Requester) (i : Fin 52) (ctrl : BitVec 3) (s : State) : Res :=
  s.act fun s => s.regWrite req (wordAccess (ringGroup i.val + 0x10)) (ringCtrl false ctrl)

/-- A write of RCOUNT (rule R120). -/
def execRcountWrite (req : Requester) (i : Fin 52) (v : Word) (s : State) : Res :=
  s.act fun s => s.regWrite req (wordAccess (ringGroup i.val + 0x1C)) (v)

/-- A protocol error on a CAN bus (rule R138). -/
def execCanProtocolError (c : Fin 4) (tec rec : BitVec 9) (s : State) : Res :=
  s.actIn 31 fun s => s.canError c.val tec.toNat rec.toNat

/-- A differing sigma-delta bit (rule R140). -/
def execStuckClear (d : Fin 8) (s : State) : Res := s.actIn 31 fun s => s.sdStuck d.val false

end Sys2Proof.Machine
end

