-- ==== Sys2Proof/Machine/CmdEngine.lean ====
section
/-! DEFINITION. Machine/CmdEngine.lean: map commands, pumps and solver lanes (rules R200–R204, R218–R280). -/

namespace Sys2Proof.Machine

/-- MAP_INSERT (rule R223). -/
def execMapInsert (e : RunEnv) (s : State) : Res := s.actIn 2 fun s => s.runMap 0x60 e []

/-- MAP_QUERY (rule R224). -/
def execMapQuery (e : RunEnv) (s : State) : Res := s.actIn 2 fun s => s.runMap 0x61 e []

/-- MAP_RAYCLEAR (rule R225). -/
def execMapRayclear (e : RunEnv) (s : State) : Res := s.actIn 2 fun s => s.runMap 0x62 e []

/-- MAP_AGEOUT (rule R226). -/
def execMapAgeout (e : RunEnv) (s : State) : Res := s.actIn 2 fun s => s.runMap 0x63 e []

/-- MAP_ACCUM_ARRIVAL; `order` is the order of arrival, true for source B (rule R227). -/
def execMapAccumArrival (e : RunEnv) (order : List Bool) (s : State) : Res := s.actIn 2 fun s => s.runMap 0x64 e order

/-- COPY (rules R200–R202). -/
def execPumpCopy (p : Fin 32) (e : RunEnv) (s : State) : Res := s.actIn 2 fun s => s.runPump 1 p e

/-- COPY_2D (rules R200–R202). -/
def execCopy2d (p : Fin 32) (e : RunEnv) (s : State) : Res := s.actIn 2 fun s => s.runPump 2 p e

/-- ZERO (rules R200–R202). -/
def execZero (p : Fin 32) (e : RunEnv) (s : State) : Res := s.actIn 2 fun s => s.runPump 3 p e

/-- EST_INIT (rule R239). -/
def execEstInit (l : Fin 8) (e : LaneEnv) (s : State) : Res := s.actIn 2 fun s => s.runLane 1 l e

/-- SRIF_STEP (rules R240–R246). -/
def execSrifStep (l : Fin 8) (e : LaneEnv) (s : State) : Res := s.actIn 2 fun s => s.runLane 2 l e

/-- MHE_STEP (rules R247–R252). -/
def execMheStep (l : Fin 8) (e : LaneEnv) (s : State) : Res := s.actIn 2 fun s => s.runLane 3 l e

/-- QP_SOLVE (rules R258–R280). -/
def execQpSolve (l : Fin 8) (e : LaneEnv) (s : State) : Res := s.actIn 2 fun s => s.runLane 4 l e

/-- PLAN_RESET (rule R260). -/
def execPlanReset (l : Fin 8) (e : LaneEnv) (s : State) : Res := s.actIn 2 fun s => s.runLane 5 l e

end Sys2Proof.Machine
end

