-- ==== Sys2Proof/Machine/CmdHeadgate.lean ====
section
/-! DEFINITION. Machine/CmdHeadgate.lean: contexts, gates, accounts and checkpoints (rules R321–R368). -/

namespace Sys2Proof.Machine

/-- CTX_CMD.INVOKE of the requester's context (rule R323). -/
def execInvoke (req : Requester) (s : State) : Res := s.act fun s => s.regWrite req (wordAccess (0x10118)) (1)

/-- A pending start begins (rule R323). -/
def execPendingStart (c : Fin 64) (s : State) : Res := s.actIn 2 fun s => s.startPending c.val

/-- CTX_CMD.TEARDOWN (rule R348). -/
def execTeardown (req : Requester) (s : State) : Res := s.act fun s => s.regWrite req (wordAccess (0x10118)) (2)

/-- A teardown completes (rule R349). -/
def execTeardownComplete (c : Fin 64) (s : State) : Res := s.actIn 2 fun s => s.tornDown c.val

/-- CTX_CMD.RESTART (rule R350). -/
def execRestart (req : Requester) (s : State) : Res := s.act fun s => s.regWrite req (wordAccess (0x10118)) (4)

/-- TC7 reaches an invocation's deadline (rule R324). -/
def execDeadline (c : Fin 64) (s : State) : Res := s.actIn 2 fun s => s.deadlineMiss c.val

/-- A gate's wait timeout expires (rule R343). -/
def execTimeout (c : Fin 64) (eng : Byte) (second : Bool) (s : State) : Res :=
  s.actIn 2 fun s => s.waitTimeout c.val eng.toNat second

/-- A slot reaches its nominal start (rule R332). -/
def execFrameSlotStart (i : Nat) (s : State) : Res := s.actIn 2 fun s => s.slotStart i

/-- A write of G_SIGNAL (rules R342, R355). -/
def execGSignal (req : Requester) (w : Fin 2) (n : Word) (s : State) : Res :=
  s.act fun s => s.regWrite req (wordAccess (0x12114 + 0x1000 * w.val)) (n)

/-- G_ALLOC.ALLOC (rules R346, R355). -/
def execAlloc (req : Requester) (w : Fin 2) (s : State) : Res :=
  s.act fun s => s.regWrite req (wordAccess (0x1211C + 0x1000 * w.val)) (1)

/-- G_ALLOC.FREE (rules R346, R355). -/
def execFree (req : Requester) (w : Fin 2) (s : State) : Res :=
  s.act fun s => s.regWrite req (wordAccess (0x1211C + 0x1000 * w.val)) (2)

/-- ACCT_SNAP.SNAP (rule R353). -/
def execAcctSnap (req : Requester) (clear : Bool) (s : State) : Res :=
  s.act fun s => s.regWrite req (wordAccess (0x10160)) (w32 (1 + 2 * clear.toNat))

/-- CK_CMD.SAVE (rule R368). -/
def execSave (req : Requester) (s : State) : Res := s.act fun s => s.regWrite req (wordAccess (0x10354)) (1)

/-- CK_CMD.RESTORE (rule R368). -/
def execRestore (req : Requester) (s : State) : Res := s.act fun s => s.regWrite req (wordAccess (0x10354)) (2)

/-- A checkpoint copy completes (rule R368). -/
def execCheckpointDone (s : State) : Res := s.actIn 2 State.ckDone

end Sys2Proof.Machine
end

