-- ==== Sys2Proof/Machine/CmdLink.lean ====
section
/-! DEFINITION. Machine/CmdLink.lean: the SDIO card and the VCP frames (rules R371–R392, R401–R404, R414). -/

namespace Sys2Proof.Machine

/-- CMD0 (rule R372). -/
def execCmd0 (s : State) (crcOk : Bool := true) : Res := s.act fun s => s.cmdTake crcOk State.cmd0

/-- CMD3 (rule R372). -/
def execCmd3 (s : State) (crcOk : Bool := true) : Res := s.act fun s => s.cmdTake crcOk State.cmd3

/-- CMD5 (rules R372, R376). -/
def execCmd5 (ocr : Word) (s : State) (crcOk : Bool := true) : Res := s.act fun s => s.cmdTake crcOk fun s => s.cmd5 ocr

/-- CMD7 (rule R372). -/
def execCmd7 (rca : BitVec 16) (s : State) (crcOk : Bool := true) : Res := s.act fun s => s.cmdTake crcOk fun s => s.cmd7 rca

/-- CMD11 (rule R372). -/
def execCmd11 (s : State) (crcOk : Bool := true) : Res := s.act fun s => s.cmdTake crcOk State.cmd11

/-- CMD15 (rule R372). -/
def execCmd15 (rca : BitVec 16) (s : State) (crcOk : Bool := true) : Res := s.act fun s => s.cmdTake crcOk fun s => s.cmd15 rca

/-- CMD19 (rule R372). -/
def execCmd19 (s : State) (crcOk : Bool := true) : Res := s.act fun s => s.cmdTake crcOk State.cmd19

/-- CMD52 (rules R371–R374). -/
def execCmd52 (crcOk write : Bool) (fn : BitVec 3) (addr : BitVec 17) (data : Byte) (s : State) : Res :=
  s.act fun s => s.cmd52 crcOk write fn.toNat addr.toNat data

/-- CMD53 (rules R371–R379, R389, R394). -/
def execCmd53 (crcOk write : Bool) (fn : BitVec 3) (block inc : Bool) (addr : BitVec 17) (count : BitVec 9) (d : Cmd53Data) (s : State) : Res :=
  s.act fun s => s.cmd53 crcOk write fn.toNat block inc addr.toNat count.toNat d

/-- A write of CCCR AS (rule R373). -/
def execIoAbort (fn : BitVec 3) (s : State) : Res := s.act fun s => s.hostByte true 0 0x06 (BitVec.ofNat 8 fn.toNat)

/-- A write of CCCR RES (rules R373, R395). -/
def execRes (s : State) : Res := s.act fun s => s.hostByte true 0 0x06 8

/-- A write of CCCR 0xF0 (rule R388). -/
def execStopByte (v : Byte) (s : State) : Res := s.act fun s => s.hostByte true 0 0xF0 v

/-- A write of byte 0x2003 (rule R378). -/
def execWinAddr (b : Byte) (s : State) : Res := s.act fun s => s.hostByte true 1 0x2003 b

/-- A write of byte 0x2007 (rule R378). -/
def execWinDataWrite (b : Byte) (s : State) : Res := s.act fun s => s.hostByte true 1 0x2007 b

/-- A read of byte 0x2004 (rule R378). -/
def execWinDataRead (s : State) : Res := s.act fun s => s.hostByte false 1 0x2004 0

/-- An access to WIN_BURST (rule R379). -/
def execWinBurst (write : Bool) (data : List Byte) (words : BitVec 9) (s : State) : Res :=
  s.act fun s => s.burst write data words.toNat

/-- A write of RESP_ACK (rule R383). -/
def execRespAck (v : Byte) (s : State) : Res := s.act fun s => s.hostByte true 1 0x2106 v

/-- A write of the doorbell's high byte (rule R383). -/
def execDoorbell (b : Byte) (s : State) : Res := s.act fun s => s.hostByte true 1 0x2101 b

/-- HELLO (rule R386). -/
def execHello (s : State) : Res := s.actIn 1 fun s => s.vcpTake 0x01 State.vcpHello

/-- STATUS_GET (rule R387). -/
def execStatusGet (s : State) : Res := s.actIn 1 fun s => s.vcpTake 0x02 State.vcpStatus

/-- STOP (rule R388). -/
def execStop (s : State) : Res := s.actIn 1 fun s => s.vcpTake 0x03 fun s _ => (cOK, [], s)

/-- ATTEST_GET (rules R403, R404). -/
def execAttestGet (s : State) : Res := s.actIn 1 fun s => s.vcpTake 0x04 State.vcpAttest

/-- LOAD_BEGIN (rule R389). -/
def execLoadBegin (s : State) : Res := s.actIn 1 fun s => s.vcpTake 0x05 State.vcpLoadBegin

/-- LOAD_END (rules R387, R389). -/
def execLoadEnd (s : State) : Res := s.actIn 1 fun s => s.vcpTake 0x06 State.vcpLoadEnd

/-- ACT_ENABLE (rule R387). -/
def execActEnable (s : State) : Res := s.actIn 1 fun s => s.vcpTake 0x10 State.vcpActEnable

/-- MISSION_LOAD (rules R388, R408). -/
def execMissionLoad (s : State) (mid : Option (BitVec 9 × MidTrip) := none) : Res := s.actIn 1 fun s => s.vcpTake 0x11 (State.vcpWrites · true mid)

/-- MODE_CHANGE (rules R388, R408). -/
def execModeChange (s : State) (mid : Option (BitVec 9 × MidTrip) := none) : Res := s.actIn 1 fun s => s.vcpTake 0x12 (State.vcpWrites · false mid)

/-- ADMIT (rules R333–R341). -/
def execVcpAdmit (s : State) : Res := s.actIn 1 fun s => s.vcpTake 0x13 State.vcpAdmitImage

/-- REVOKE (rule R387). -/
def execRevoke (s : State) : Res := s.actIn 1 fun s => s.vcpTake 0x14 State.vcpRevoke

/-- WINDOW_BIND (rules R201, R387). -/
def execWindowBind (s : State) : Res := s.actIn 1 fun s => s.vcpTake 0x15 State.vcpBind

/-- PERF_LIMIT (rules R387, R417). -/
def execPerfLimit (s : State) : Res := s.actIn 1 fun s => s.vcpTake 0x16 State.vcpPerfLimit

/-- DEBUG_POLICY (rules R387, R414). -/
def execDebugPolicy (s : State) : Res := s.actIn 1 fun s => s.vcpTake 0x17 State.vcpDebug

/-- KEY_EXCHANGE, phase 1 (rule R401). -/
def execKeyExchangePhase1 (s : State) : Res := s.actIn 1 fun s => s.exchangeTake false none

/-- KEY_EXCHANGE, phase 2 (rules R401, R406, R408). -/
def execKeyExchangePhase2 (s : State) (mid : Option MidTrip := none) : Res := s.actIn 1 fun s => s.exchangeTake true mid

/-- KEY_ROTATE (rules R402, R408). -/
def execKeyRotate (s : State) (mid : Option MidTrip := none) : Res := s.actIn 1 fun s => s.rotateTake mid

end Sys2Proof.Machine
end

