-- ==== Sys2Proof/Machine/CmdLoop.lean ====
section
/-! DEFINITION. Machine/CmdLoop.lean: the loop engine (rules R287–R320). -/

namespace Sys2Proof.Machine

/-- The replicas end the sample in progress (rules R288–R297). -/
def execLoopSample (c : Fin 32) (a b d : Replica) (s : State) : Res := s.actIn 30 fun st => st.loopSample c.val a b d

/-- The sample deadline passes (rule R309). -/
def execSampleDeadline (c : Fin 32) (s : State) : Res := s.actIn 30 fun s => s.loopDeadline c.val

/-- A plan arrives (rules R277, R298, R303). -/
def execPlanReceive (c : Fin 32) (p : Plan) (s : State) : Res := s.actIn 30 fun s => s.planArrives c.val p

/-- CMD.OSC_CLR (rule R311). -/
def execOscClr (req : Requester) (c : Fin 32) (s : State) : Res :=
  s.act fun s => s.regWrite req (wordAccess (loopBase c.val + 0x170)) (0x1)

/-- CMD.REP_CLR (rule R302). -/
def execRepClr (req : Requester) (c : Fin 32) (s : State) : Res :=
  s.act fun s => s.regWrite req (wordAccess (loopBase c.val + 0x170)) (0x2)

/-- CMD.PLAN_CLR (rule R298). -/
def execPlanClr (req : Requester) (c : Fin 32) (s : State) : Res :=
  s.act fun s => s.regWrite req (wordAccess (loopBase c.val + 0x170)) (0x4)

/-- CMD.INJ_START (rule R318). -/
def execInjStart (req : Requester) (c : Fin 32) (s : State) : Res :=
  s.act fun s => s.regWrite req (wordAccess (loopBase c.val + 0x170)) (0x8)

/-- CMD.INJ_STOP (rule R318). -/
def execInjStop (req : Requester) (c : Fin 32) (s : State) : Res :=
  s.act fun s => s.regWrite req (wordAccess (loopBase c.val + 0x170)) (0x10)

/-- CMD.TR_ARM (rule R316). -/
def execTrArm (req : Requester) (c : Fin 32) (s : State) : Res :=
  s.act fun s => s.regWrite req (wordAccess (loopBase c.val + 0x170)) (0x20)

/-- CMD.TRACK_LATCH (rule R305). -/
def execTrackLatch (req : Requester) (c : Fin 32) (s : State) : Res :=
  s.act fun s => s.regWrite req (wordAccess (loopBase c.val + 0x170)) (0x40)

/-- CMD.STOP_REL (rule R308). -/
def execStopRel (req : Requester) (c : Fin 32) (s : State) : Res :=
  s.act fun s => s.regWrite req (wordAccess (loopBase c.val + 0x170)) (0x80)

/-- A read of TR_DATA (rule R317). -/
def execTrData (req : Requester) (c : Fin 32) (s : State) : Res :=
  s.act fun s => s.regRead req (wordAccess (loopBase c.val + 0x714))

/-- The high half of threshold t of profile p of a lane (rule R286). -/
def execProfileThresholdCommit (req : Requester) (n : Fin 9) (p : Fin 4) (t : Fin 4) (v : Word) (s : State) : Res :=
  s.act fun s => s.regWrite req (wordAccess (Page.base (.lane n.val) + 0x204 + 32 * p.val + 8 * t.val)) (v)

end Sys2Proof.Machine
end

