-- ==== Sys2Proof/Machine/CmdPower.lean ====
section
/-! DEFINITION. Machine/CmdPower.lean: performance levels, sleep and wake (rules R415–R439). -/

namespace Sys2Proof.Machine

/-- A write of PWR_REQ (rules R424, R431, R441). -/
def execPwrReq (req : Requester) (target : BitVec 2) (s : State) : Res :=
  s.act fun s => s.regWrite req (wordAccess (0x3100)) (w32 target.toNat)

/-- An idle timer expires (rules R425, R431). -/
def execIdleExpiry (d : Fin 36) (s : State) : Res := s.act fun s => s.idleExpiry d.val

/-- A participant agrees (rules R427, R461). -/
def execAgree (s : State) : Res := s.act State.agreeCmd

/-- STOP_WAIT passes (rules R428, R429). -/
def execStopWaitExpiry (s : State) : Res := s.act State.stopWaitCmd

/-- The commit completes (rules R422, R430). -/
def execEntered (s : State) : Res := s.act State.entered

/-- WAKE_N is low for some nanoseconds (rule R434). -/
def execWakeN (lowNs : BitVec 32) (s : State) : Res := s.act fun s => if 1000 ≤ lowNs.toNat then s.wakeEvent 0 0 else s

/-- A start bit on SDIO CMD (rule R434). -/
def execSdioCmdWake (s : State) : Res := s.act fun s => if s.domain 1 = 0 then s.wakeEvent 1 0 else s

/-- A write of WAKE_REQ (rules R426, R434, R441). -/
def execWakeReq (req : Requester) (mask : BitVec 36) (s : State) : Res := s.act fun s => s.wakeWrite req mask

/-- A switch or rail is good (rule R435). -/
def execRegulatorReady (d : Fin 36) (s : State) : Res := s.act fun s => s.regulatorReady d.val

/-- The oscillator of a domain is ready (rule R435). -/
def execOscRdy (d : Fin 36) (s : State) : Res := s.act fun s => s.oscReady d.val

/-- The memory of a domain is ready (rule R435). -/
def execMemRdy (d : Fin 36) (s : State) : Res := s.act fun s => s.memReady d.val

/-- A domain is released (rules R435, R438, R439). -/
def execLogicRdy (d : Fin 36) (s : State) : Res := s.act fun s => s.logicReady d.val

/-- A write of PERF_REQ (rules R417, R442). -/
def execPerfReq (req : Requester) (level : BitVec 3) (s : State) : Res :=
  s.act fun s => s.regWrite req (wordAccess (0x73120)) (w32 level.toNat)

/-- A VOUT_COMMAND write ends (rules R418, R419). -/
def execVoutCommandDone (ack : Bool) (s : State) : Res := s.act fun s => s.voutDone ack

/-- The settle wait expires (rule R418). -/
def execVoutSettled (s : State) : Res := s.act State.voutSettled

/-- The body bias has settled (rule R418). -/
def execBodyBiasSettled (s : State) : Res := s.act State.biasSettled

/-- SMBALERT_N is asserted (rule R421). -/
def execSmbalertN (s : State) : Res := s.actIn 1 fun s => { s with power := { s.power with smbalert := true } }

end Sys2Proof.Machine
end

