-- ==== Sys2Proof/Machine/CmdRegister.lean ====
section
/-! DEFINITION. Machine/CmdRegister.lean: register accesses and the fabric (rules R14, R21–R38, R44–R57, R459–R462, R481). -/

namespace Sys2Proof.Machine

/-- A register write (rules R14, R44–R57, R481). -/
def execRegisterWrite (req : Requester) (a : Access) (v : Word) (s : State) : Res := s.act fun s => s.regWrite req a v

/-- A register read (rules R44–R57, R481). -/
def execRegisterRead (req : Requester) (a : Access) (s : State) : Res := s.act fun s => s.regRead req a

/-- The management tick of the firmware (rules R21–R23, R352, R420, R421, R440). -/
def execManagementTick (t : TickInputs) (s : State) : Res := s.act fun s => s.mgmtTick t

/-- The end of a window of the wave-rate monitors (rules R30–R35, R455). -/
def execMonitorWindow (counts : List (BitVec 16)) (s : State) : Res := s.actIn 1 fun s => s.monitorWindow counts

/-- TEL_CTRL.SNAP (rule R23). -/
def execTelSnap (req : Requester) (s : State) : Res := s.act fun s => s.regWrite req (wordAccess (0x72100)) (1)

/-- MIN_CLR (rule R35). -/
def execMinClr (req : Requester) (s : State) : Res := s.act fun s => s.regWrite req (wordAccess (0x71134)) (1)

/-- The reference crystal is lost (rule R38). -/
def execRefLost (s : State) : Res := s.act State.refLoss

/-- The crystal is good again (rule R38). -/
def execRefReturn (s : State) : Res := s.act State.refBack

/-- The management watchdog expires (rule R459). -/
def execMgmtWatchdog (s : State) : Res := s.act State.mgmtDog

/-- MGMT_WD.KICK (rules R459, R462). -/
def execKick (req : Requester) (s : State) : Res := s.act fun s => s.kickWrite req

/-- FLT_CLR (rule R462). -/
def execFltClr (req : Requester) (s : State) : Res := s.act fun s => s.regWrite req (wordAccess (0x512C)) (1)

/-- ACL_CLR (rule R57). -/
def execAclClr (req : Requester) (s : State) : Res := s.act fun s => s.regWrite req (wordAccess (0x610C)) (1)

/-- A read of RM_DATA (rules R448, R462). -/
def execRmData (req : Requester) (s : State) : Res := s.act fun s => s.regRead req (wordAccess 0x5104)

end Sys2Proof.Machine
end

