-- ==== Sys2Proof/Machine/CmdService.lean ====
section
/-! DEFINITION. Machine/CmdService.lean: basins, lanes, the canal, pumps, LPDDR6 and the map in service (rules R154–R177, R205–R231, R285, R457). -/

namespace Sys2Proof.Machine

/-- One scrub pass of a unit, with the upsets that follow it (rule R159). -/
def execScrub (u : UnitId) (upsets : List (Nat × Nat)) (s : State) : Res := s.act fun s => s.scrubUnit (unitOfId u) upsets

/-- A row copy completes (rule R158). -/
def execRowCopyDone (u : UnitId) (s : State) : Res := s.actIn (unitDomain (unitOfId u)) fun s => s.rowCopied (unitOfId u)

/-- A command of a basin or lane runs past its watchdog (rules R175, R482). -/
def execCommandWatchdog (vector : Bool) (u : UnitId) (waves : Word) (s : State) : Res :=
  s.actIn 2 fun s => s.watchdog vector (unitOfId u) waves.toNat

/-- A woken reserve completes its test (rules R176, R177, R458). -/
def execReserveTestDone (pass : Bool) (source : Byte) (s : State) : Res := s.act fun s => s.reserveTested pass source.toNat

/-- A canal port fails (rules R168, R169). -/
def execCanalPortFail (node : Fin 30) (s : State) : Res := s.act fun s => s.portFail node.val

/-- A canal link fails (rule R170). -/
def execCanalLinkFail (node : Fin 30) (d : RingDir) (s : State) : Res := s.act fun s => s.linkFail node.val d

/-- A plan link fails (rule R285). -/
def execPlanLinkFail (n : Fin 9) (s : State) : Res := s.act fun s => s.planLinkFail n.val

/-- A descriptor runs past its pump's watchdog (rule R457). -/
def execPumpWatchdog (p : Fin 32) (time : Nat) (s : State) : Res := s.actIn 2 fun s => s.pumpDog p.val time

/-- A patrol-scrub pass, with the upsets that follow it (rules R207, R212). -/
def execPatrolScrub (m : Fin 4) (upsets : List (Nat × Nat)) (s : State) : Res := s.act fun s => s.patrol m.val upsets

/-- Refresh changes timing only (rule R211). -/
def execRefresh (m : Fin 4) (s : State) : Res := s.act fun s => s.refreshed m

/-- The temperature status of both channels is read (rule R211). -/
def execDramTempRead (m : Fin 4) (r0 r1 : BitVec 2) (s : State) : Res := s.actIn (32 + m.val) fun s => s.dramTemp m.val r0 r1

/-- A channel does not respond (rules R214, R215). -/
def execChannelTimeout (m : Fin 4) (c : Fin 2) (s : State) : Res := s.actIn (32 + m.val) fun s => s.channelDead m.val c.val

/-- MAP_CTRL with CLEAR = 1 and EN = 0 (rule R231). -/
def execMapClear (req : Requester) (evict : Bool) (s : State) : Res :=
  s.act fun s => s.regWrite req (wordAccess (0x64108)) (w32 (4 + 2 * evict.toNat))

/-- A map clear completes (rule R231). -/
def execClearDone (s : State) : Res := s.actIn 2 State.mapCleared

end Sys2Proof.Machine
end

