-- ==== Sys2Proof/Machine/CmdTile.lean ====
section
/-! DEFINITION. Machine/CmdTile.lean: tile commands (rules R181–R199): the engine of a logical basin takes its next command, if that has the opcode. -/

namespace Sys2Proof.Machine

/-- A matrix product (rule R189). -/
def execMatmul (b : Fin 16) (e : RunEnv) (s : State) : Res := s.actIn 2 fun s => s.runTile 0x01 b e

/-- A convolution (rule R189). -/
def execConv2d (b : Fin 16) (e : RunEnv) (s : State) : Res := s.actIn 2 fun s => s.runTile 0x02 b e

/-- Scaled attention scores (rule R189). -/
def execAttnScore (b : Fin 16) (e : RunEnv) (s : State) : Res := s.actIn 2 fun s => s.runTile 0x03 b e

/-- Row sums (rule R189). -/
def execSumReduce (b : Fin 16) (e : RunEnv) (s : State) : Res := s.actIn 2 fun s => s.runTile 0x04 b e

/-- The parent of two CARRY subtrees (rule R190). -/
def execCarryCombine (b : Fin 16) (e : RunEnv) (s : State) : Res := s.actIn 2 fun s => s.runTile 0x05 b e

/-- A CARRY root in the result format (rule R189). -/
def execCarryFinal (b : Fin 16) (e : RunEnv) (s : State) : Res := s.actIn 2 fun s => s.runTile 0x06 b e

/-- ADD elementwise (rule R191). -/
def execAdd (b : Fin 16) (e : RunEnv) (s : State) : Res := s.actIn 2 fun s => s.runTile 0x10 b e

/-- SUB elementwise (rule R191). -/
def execSub (b : Fin 16) (e : RunEnv) (s : State) : Res := s.actIn 2 fun s => s.runTile 0x11 b e

/-- MUL elementwise (rule R191). -/
def execMul (b : Fin 16) (e : RunEnv) (s : State) : Res := s.actIn 2 fun s => s.runTile 0x12 b e

/-- DIV elementwise (rule R191). -/
def execDiv (b : Fin 16) (e : RunEnv) (s : State) : Res := s.actIn 2 fun s => s.runTile 0x13 b e

/-- FMA elementwise (rule R191). -/
def execFma (b : Fin 16) (e : RunEnv) (s : State) : Res := s.actIn 2 fun s => s.runTile 0x14 b e

/-- MIN elementwise (rule R191). -/
def execMin (b : Fin 16) (e : RunEnv) (s : State) : Res := s.actIn 2 fun s => s.runTile 0x15 b e

/-- MAX elementwise (rule R191). -/
def execMax (b : Fin 16) (e : RunEnv) (s : State) : Res := s.actIn 2 fun s => s.runTile 0x16 b e

/-- CMP elementwise (rule R191). -/
def execCmp (b : Fin 16) (e : RunEnv) (s : State) : Res := s.actIn 2 fun s => s.runTile 0x17 b e

/-- SQRT elementwise (rule R191). -/
def execSqrt (b : Fin 16) (e : RunEnv) (s : State) : Res := s.actIn 2 fun s => s.runTile 0x18 b e

/-- EXP elementwise (rule R191). -/
def execExp (b : Fin 16) (e : RunEnv) (s : State) : Res := s.actIn 2 fun s => s.runTile 0x19 b e

/-- LOG elementwise (rule R191). -/
def execLog (b : Fin 16) (e : RunEnv) (s : State) : Res := s.actIn 2 fun s => s.runTile 0x1A b e

/-- RECIP elementwise (rule R191). -/
def execRecip (b : Fin 16) (e : RunEnv) (s : State) : Res := s.actIn 2 fun s => s.runTile 0x1B b e

/-- RSQRT elementwise (rule R191). -/
def execRsqrt (b : Fin 16) (e : RunEnv) (s : State) : Res := s.actIn 2 fun s => s.runTile 0x1C b e

/-- TANH elementwise (rule R191). -/
def execTanh (b : Fin 16) (e : RunEnv) (s : State) : Res := s.actIn 2 fun s => s.runTile 0x1D b e

/-- SIGMOID elementwise (rule R191). -/
def execSigmoid (b : Fin 16) (e : RunEnv) (s : State) : Res := s.actIn 2 fun s => s.runTile 0x1E b e

/-- SHIFT elementwise (rule R191). -/
def execShift (b : Fin 16) (e : RunEnv) (s : State) : Res := s.actIn 2 fun s => s.runTile 0x1F b e

/-- Row maxima (rule R193). -/
def execReduceMax (b : Fin 16) (e : RunEnv) (s : State) : Res := s.actIn 2 fun s => s.runTile 0x20 b e

/-- Row minima (rule R193). -/
def execReduceMin (b : Fin 16) (e : RunEnv) (s : State) : Res := s.actIn 2 fun s => s.runTile 0x21 b e

/-- A softmax over rows (rule R192). -/
def execSoftmax (b : Fin 16) (e : RunEnv) (s : State) : Res := s.actIn 2 fun s => s.runTile 0x24 b e

/-- A conversion of format (rule R194). -/
def execConvert (b : Fin 16) (e : RunEnv) (s : State) : Res := s.actIn 2 fun s => s.runTile 0x28 b e

/-- A copy of rows (rule R195). -/
def execCopy (b : Fin 16) (e : RunEnv) (s : State) : Res := s.actIn 2 fun s => s.runTile 0x30 b e

/-- A gather of indexed rows (rule R195). -/
def execGatherRows (b : Fin 16) (e : RunEnv) (s : State) : Res := s.actIn 2 fun s => s.runTile 0x31 b e

/-- A read of TC0 (rule R196). -/
def execTimeRead (b : Fin 16) (e : RunEnv) (s : State) : Res := s.actIn 2 fun s => s.runTile 0x38 b e

/-- The newest record of a ring (rule R196). -/
def execRingLatest (b : Fin 16) (e : RunEnv) (s : State) : Res := s.actIn 2 fun s => s.runTile 0x39 b e

end Sys2Proof.Machine
end

