-- ==== Sys2Proof/Machine/CmdTime.lean ====
section
/-! DEFINITION. Machine/CmdTime.lean: the time base and the scheduled actions (rules R95–R116). -/

namespace Sys2Proof.Machine

/-- ADD_FRAC of counter n (rules R99, R101, R103). -/
def execAddFrac (req : Requester) (n : Fin 8) (v : Word) (s : State) : Res :=
  s.act fun s => s.regWrite req (wordAccess (tcGroup n.val + 4)) (v)

/-- ADD_INT of counter n (rules R99, R101, R103). -/
def execAddInt (req : Requester) (n : Fin 8) (v : Word) (s : State) : Res :=
  s.act fun s => s.regWrite req (wordAccess (tcGroup n.val + 8)) (v)

/-- STEP_LO of counter n (rules R100, R103). -/
def execStepLo (req : Requester) (n : Fin 8) (v : Word) (s : State) : Res :=
  s.act fun s => s.regWrite req (wordAccess (tcGroup n.val + 0xC)) (v)

/-- STEP_HI of counter n (rules R100, R101, R103). -/
def execStepHi (req : Requester) (n : Fin 8) (v : Word) (s : State) : Res :=
  s.act fun s => s.regWrite req (wordAccess (tcGroup n.val + 0x10)) (v)

/-- SNAP_CTRL.CAPTURE (rule R104). -/
def execCapture (req : Requester) (s : State) : Res := s.act fun s => s.regWrite req (wordAccess (0x1200)) (1)

/-- A rising edge of the PPS input (rule R108). -/
def execPpsEdge (s : State) : Res := s.act State.ppsEdge

/-- The servo loses its master (rule R105); the servo is part of the firmware. -/
def execMasterLoss (s : State) (e : MasterEvent := .lost) : Res := s.act fun s => if s.mgmtRuns then s.masterEvent e else s

/-- CFG of the requester's slot with ARM = 1 (rule R116). -/
def execArm (req : Requester) (cfg : BitVec 9) (s : State) : Res :=
  s.act fun s => s.regWrite req (wordAccess (0x2104)) (w32 (1 + 2 * cfg.toNat))

/-- CFG of the requester's slot with ARM = 0 (rules R114, R116). -/
def execDisarm (req : Requester) (s : State) : Res := s.act fun s => s.disarmWrite req

/-- Slot k fires (rules R110–R115). -/
def execSlotFire (k : Fin 256) (s : State) : Res := s.act fun s => s.fireSlot k.val

end Sys2Proof.Machine
end

