-- ==== Sys2Proof/Machine/CmdTrust.lean ====
section
/-! DEFINITION. Machine/CmdTrust.lean: boot, self-test, reset, supplies and the debug port (rules R393–R398, R405–R414, R445–R449, R454, R469–R474). -/

namespace Sys2Proof.Machine

/-- The ROM verifies the stream (rules R394–R398). -/
def execBootVerify (level : Fin 5) (linear : Bool) (s : State) : Res := s.actIn 1 fun s => s.bootVerify level.val linear

/-- Self-test (rules R445–R449). -/
def execSelfTest (r : SelfTest) (s : State) : Res := s.act fun st => st.selfTest r

/-- AON_RST_N is low (rules R470, R474). -/
def execWellhouseReset (lowNs : BitVec 32) (taken : Bool) (s : State) : Res := (s.aonLow lowNs.toNat taken).fin

/-- AON_RST_N rises (rules R471, R474). -/
def execAonRstNRise (testEn : Bool) (s : State) : Res := (s.aonRise testEn).fin

/-- A power-good input rises (rule R471). -/
def execPgRise (r : Rail) (s : State) : Res := s.act fun s => s.pgRise (railNo r)

/-- A power-good input has not risen in time (rule R471). -/
def execPgTimeout (r : Rail) (s : State) : Res := s.act fun s => s.pgTimeout (railNo r)

/-- A power-good input falls (rule R473). -/
def execPgLoss (r : Rail) (s : State) : Res := s.act fun s => s.pgLoss (railNo r)

/-- A supply leaves its range (rules R405, R454, R469). -/
def execVglitch (r : Supply) (crcBad saveBad : Bool) (s : State) : Res := s.act fun s => s.vglitch r crcBad saveBad

/-- A junction temperature leaves its range (rules R405, R454). -/
def execTglitch (s : State) : Res := s.act State.tglitch

/-- The TAP leaves Test-Logic-Reset (rule R413). -/
def execDebugAttach (s : State) : Res := s.act State.dbgAttach

/-- The TAP returns to Test-Logic-Reset (rule R413). -/
def execDebugDetach (s : State) : Res := s.act State.dbgDetach

/-- EXTEST (rule R413). -/
def execExtest (s : State) : Res := s.act fun s => s.dbgScan 1

/-- CLAMP (rule R413). -/
def execClamp (s : State) : Res := s.act fun s => s.dbgScan 2

/-- The power-on reset holds the wellhouse in reset (rules R471, R474). -/
def execPowerOnReset (s : State) : Res := .next s.wellhouse

end Sys2Proof.Machine
end

