-- ==== Sys2Proof/Machine/Dispatch.lean ====
section
/-! DEFINITION. Machine/Dispatch.lean: the meaning of every command, one arm per constructor. -/

namespace Sys2Proof.Machine

def exec (i : Instr) (s : State) : Host.Outcome State Fault Refusal :=
  match i with
  | .registerWrite req a v => Sys2Proof.Machine.execRegisterWrite req a v s
  | .managementTick t => Sys2Proof.Machine.execManagementTick t s
  | .monitorWindow counts => Sys2Proof.Machine.execMonitorWindow counts s
  | .telSnap req => Sys2Proof.Machine.execTelSnap req s
  | .minClr req => Sys2Proof.Machine.execMinClr req s
  | .refLost => Sys2Proof.Machine.execRefLost s
  | .refReturn => Sys2Proof.Machine.execRefReturn s
  | .addFrac req n v => Sys2Proof.Machine.execAddFrac req n v s
  | .addInt req n v => Sys2Proof.Machine.execAddInt req n v s
  | .stepLo req n v => Sys2Proof.Machine.execStepLo req n v s
  | .stepHi req n v => Sys2Proof.Machine.execStepHi req n v s
  | .capture req => Sys2Proof.Machine.execCapture req s
  | .ppsEdge => Sys2Proof.Machine.execPpsEdge s
  | .masterLoss e => Sys2Proof.Machine.execMasterLoss s e
  | .arm req cfg => Sys2Proof.Machine.execArm req cfg s
  | .disarm req => Sys2Proof.Machine.execDisarm req s
  | .slotFire k => Sys2Proof.Machine.execSlotFire k s
  | .frameStart r vc num => Sys2Proof.Machine.execFrameStart r vc num s
  | .longPacket r h vc dt data crcOk => Sys2Proof.Machine.execLongPacket r h vc dt data crcOk s
  | .frameEnd r vc => Sys2Proof.Machine.execFrameEnd r vc s
  | .hsSyncLoss r => Sys2Proof.Machine.execHsSyncLoss r s
  | .resync r => Sys2Proof.Machine.execResync r s
  | .ethFrameReceive p frame fcsOk dur => Sys2Proof.Machine.execEthFrameReceive p frame fcsOk dur s
  | .ethFrameTransmit p frame => Sys2Proof.Machine.execEthFrameTransmit p frame s
  | .linkDown p => Sys2Proof.Machine.execLinkDown p s
  | .linkRetry p speed => Sys2Proof.Machine.execLinkRetry p speed s
  | .mdioGo req p cmd => Sys2Proof.Machine.execMdioGo req p cmd s
  | .mdioDone p data => Sys2Proof.Machine.execMdioDone p data s
  | .drdyEdge k rising => Sys2Proof.Machine.execDrdyEdge k rising s
  | .spiPeriod k => Sys2Proof.Machine.execSpiPeriod k s
  | .spiTransferEnd k data => Sys2Proof.Machine.execSpiTransferEnd k data s
  | .uartByte u b parityErr framingErr dur => Sys2Proof.Machine.execUartByte u b parityErr framingErr dur s
  | .uartIdleGap u => Sys2Proof.Machine.execUartIdleGap u s
  | .canFrameReceive c f => Sys2Proof.Machine.execCanFrameReceive c f s
  | .txReq req c bufs => Sys2Proof.Machine.execTxReq req c bufs s
  | .txAbort req c bufs begun => Sys2Proof.Machine.execTxAbort req c bufs begun s
  | .txDone c b => Sys2Proof.Machine.execTxDone c b s
  | .busOff c => Sys2Proof.Machine.execBusOff c s
  | .busOffRecovery c => Sys2Proof.Machine.execBusOffRecovery c s
  | .encoderEdge e a b held => Sys2Proof.Machine.execEncoderEdge e a b s held
  | .indexEdge e step held => Sys2Proof.Machine.execIndexEdge e step s held
  | .sdOutput d bits => Sys2Proof.Machine.execSdOutput d bits s
  | .stuck d => Sys2Proof.Machine.execStuck d s
  | .pwmPeriodEnd k => Sys2Proof.Machine.execPwmPeriodEnd k s
  | .dutyWrite req k duty => Sys2Proof.Machine.execDutyWrite req k duty s
  | .pwmSync req mask => Sys2Proof.Machine.execPwmSync req mask s
  | .ringEnable req k ctrl => Sys2Proof.Machine.execRingEnable req k ctrl s
  | .ringDisable req k ctrl => Sys2Proof.Machine.execRingDisable req k ctrl s
  | .rcountWrite req k v => Sys2Proof.Machine.execRcountWrite req k v s
  | .matmul b e => Sys2Proof.Machine.execMatmul b e s
  | .conv2d b e => Sys2Proof.Machine.execConv2d b e s
  | .attnScore b e => Sys2Proof.Machine.execAttnScore b e s
  | .sumReduce b e => Sys2Proof.Machine.execSumReduce b e s
  | .carryCombine b e => Sys2Proof.Machine.execCarryCombine b e s
  | .carryFinal b e => Sys2Proof.Machine.execCarryFinal b e s
  | .add b e => Sys2Proof.Machine.execAdd b e s
  | .sub b e => Sys2Proof.Machine.execSub b e s
  | .mul b e => Sys2Proof.Machine.execMul b e s
  | .div b e => Sys2Proof.Machine.execDiv b e s
  | .fma b e => Sys2Proof.Machine.execFma b e s
  | .min b e => Sys2Proof.Machine.execMin b e s
  | .max b e => Sys2Proof.Machine.execMax b e s
  | .cmp b e => Sys2Proof.Machine.execCmp b e s
  | .sqrt b e => Sys2Proof.Machine.execSqrt b e s
  | .exp b e => Sys2Proof.Machine.execExp b e s
  | .log b e => Sys2Proof.Machine.execLog b e s
  | .recip b e => Sys2Proof.Machine.execRecip b e s
  | .rsqrt b e => Sys2Proof.Machine.execRsqrt b e s
  | .tanh b e => Sys2Proof.Machine.execTanh b e s
  | .sigmoid b e => Sys2Proof.Machine.execSigmoid b e s
  | .shift b e => Sys2Proof.Machine.execShift b e s
  | .reduceMax b e => Sys2Proof.Machine.execReduceMax b e s
  | .reduceMin b e => Sys2Proof.Machine.execReduceMin b e s
  | .softmax b e => Sys2Proof.Machine.execSoftmax b e s
  | .convert b e => Sys2Proof.Machine.execConvert b e s
  | .copy b e => Sys2Proof.Machine.execCopy b e s
  | .gatherRows b e => Sys2Proof.Machine.execGatherRows b e s
  | .timeRead b e => Sys2Proof.Machine.execTimeRead b e s
  | .ringLatest b e => Sys2Proof.Machine.execRingLatest b e s
  | .mapInsert e => Sys2Proof.Machine.execMapInsert e s
  | .mapQuery e => Sys2Proof.Machine.execMapQuery e s
  | .mapRayclear e => Sys2Proof.Machine.execMapRayclear e s
  | .mapAgeout e => Sys2Proof.Machine.execMapAgeout e s
  | .mapAccumArrival e order => Sys2Proof.Machine.execMapAccumArrival e order s
  | .pumpCopy p e => Sys2Proof.Machine.execPumpCopy p e s
  | .copy2d p e => Sys2Proof.Machine.execCopy2d p e s
  | .zero p e => Sys2Proof.Machine.execZero p e s
  | .estInit l e => Sys2Proof.Machine.execEstInit l e s
  | .srifStep l e => Sys2Proof.Machine.execSrifStep l e s
  | .mheStep l e => Sys2Proof.Machine.execMheStep l e s
  | .qpSolve l e => Sys2Proof.Machine.execQpSolve l e s
  | .planReset l e => Sys2Proof.Machine.execPlanReset l e s
  | .scrub u upsets => Sys2Proof.Machine.execScrub u upsets s
  | .rowCopyDone u => Sys2Proof.Machine.execRowCopyDone u s
  | .commandWatchdog vector u waves => Sys2Proof.Machine.execCommandWatchdog vector u waves s
  | .reserveTestDone pass source => Sys2Proof.Machine.execReserveTestDone pass source s
  | .canalPortFail node => Sys2Proof.Machine.execCanalPortFail node s
  | .canalLinkFail node d => Sys2Proof.Machine.execCanalLinkFail node d s
  | .planLinkFail n => Sys2Proof.Machine.execPlanLinkFail n s
  | .pumpWatchdog p time => Sys2Proof.Machine.execPumpWatchdog p time s
  | .patrolScrub m upsets => Sys2Proof.Machine.execPatrolScrub m upsets s
  | .refresh m => Sys2Proof.Machine.execRefresh m s
  | .dramTempRead m r0 r1 => Sys2Proof.Machine.execDramTempRead m r0 r1 s
  | .channelTimeout m c => Sys2Proof.Machine.execChannelTimeout m c s
  | .mapClear req evict => Sys2Proof.Machine.execMapClear req evict s
  | .clearDone => Sys2Proof.Machine.execClearDone s
  | .loopSample c a b d => Sys2Proof.Machine.execLoopSample c a b d s
  | .sampleDeadline c => Sys2Proof.Machine.execSampleDeadline c s
  | .planReceive c p => Sys2Proof.Machine.execPlanReceive c p s
  | .oscClr req c => Sys2Proof.Machine.execOscClr req c s
  | .repClr req c => Sys2Proof.Machine.execRepClr req c s
  | .planClr req c => Sys2Proof.Machine.execPlanClr req c s
  | .injStart req c => Sys2Proof.Machine.execInjStart req c s
  | .injStop req c => Sys2Proof.Machine.execInjStop req c s
  | .trArm req c => Sys2Proof.Machine.execTrArm req c s
  | .trackLatch req c => Sys2Proof.Machine.execTrackLatch req c s
  | .stopRel req c => Sys2Proof.Machine.execStopRel req c s
  | .trData req c => Sys2Proof.Machine.execTrData req c s
  | .profileThresholdCommit req n p t v => Sys2Proof.Machine.execProfileThresholdCommit req n p t v s
  | .invoke req => Sys2Proof.Machine.execInvoke req s
  | .pendingStart c => Sys2Proof.Machine.execPendingStart c s
  | .teardown req => Sys2Proof.Machine.execTeardown req s
  | .teardownComplete c => Sys2Proof.Machine.execTeardownComplete c s
  | .restart req => Sys2Proof.Machine.execRestart req s
  | .deadline c => Sys2Proof.Machine.execDeadline c s
  | .timeout c eng second => Sys2Proof.Machine.execTimeout c eng second s
  | .frameSlotStart k => Sys2Proof.Machine.execFrameSlotStart k s
  | .gSignal req w n => Sys2Proof.Machine.execGSignal req w n s
  | .alloc req w => Sys2Proof.Machine.execAlloc req w s
  | .free req w => Sys2Proof.Machine.execFree req w s
  | .acctSnap req clear => Sys2Proof.Machine.execAcctSnap req clear s
  | .save req => Sys2Proof.Machine.execSave req s
  | .restore req => Sys2Proof.Machine.execRestore req s
  | .checkpointDone => Sys2Proof.Machine.execCheckpointDone s
  | .cmd0 crcOk => Sys2Proof.Machine.execCmd0 s crcOk
  | .cmd3 crcOk => Sys2Proof.Machine.execCmd3 s crcOk
  | .cmd5 ocr crcOk => Sys2Proof.Machine.execCmd5 ocr s crcOk
  | .cmd7 rca crcOk => Sys2Proof.Machine.execCmd7 rca s crcOk
  | .cmd11 crcOk => Sys2Proof.Machine.execCmd11 s crcOk
  | .cmd15 rca crcOk => Sys2Proof.Machine.execCmd15 rca s crcOk
  | .cmd19 crcOk => Sys2Proof.Machine.execCmd19 s crcOk
  | .cmd52 crcOk write fn addr data => Sys2Proof.Machine.execCmd52 crcOk write fn addr data s
  | .cmd53 crcOk write fn block inc addr count d => Sys2Proof.Machine.execCmd53 crcOk write fn block inc addr count d s
  | .ioAbort fn => Sys2Proof.Machine.execIoAbort fn s
  | .res => Sys2Proof.Machine.execRes s
  | .stopByte v => Sys2Proof.Machine.execStopByte v s
  | .winAddr b => Sys2Proof.Machine.execWinAddr b s
  | .winDataWrite b => Sys2Proof.Machine.execWinDataWrite b s
  | .winDataRead => Sys2Proof.Machine.execWinDataRead s
  | .winBurst write data words => Sys2Proof.Machine.execWinBurst write data words s
  | .respAck v => Sys2Proof.Machine.execRespAck v s
  | .hello => Sys2Proof.Machine.execHello s
  | .statusGet => Sys2Proof.Machine.execStatusGet s
  | .stop => Sys2Proof.Machine.execStop s
  | .attestGet => Sys2Proof.Machine.execAttestGet s
  | .loadBegin => Sys2Proof.Machine.execLoadBegin s
  | .loadEnd => Sys2Proof.Machine.execLoadEnd s
  | .actEnable => Sys2Proof.Machine.execActEnable s
  | .missionLoad mid => Sys2Proof.Machine.execMissionLoad s mid
  | .modeChange mid => Sys2Proof.Machine.execModeChange s mid
  | .vcpAdmit => Sys2Proof.Machine.execVcpAdmit s
  | .revoke => Sys2Proof.Machine.execRevoke s
  | .windowBind => Sys2Proof.Machine.execWindowBind s
  | .perfLimit => Sys2Proof.Machine.execPerfLimit s
  | .debugPolicy => Sys2Proof.Machine.execDebugPolicy s
  | .keyExchangePhase1 => Sys2Proof.Machine.execKeyExchangePhase1 s
  | .keyExchangePhase2 mid => Sys2Proof.Machine.execKeyExchangePhase2 s mid
  | .keyRotate mid => Sys2Proof.Machine.execKeyRotate s mid
  | .bootVerify level linear => Sys2Proof.Machine.execBootVerify level linear s
  | .selfTest r => Sys2Proof.Machine.execSelfTest r s
  | .wellhouseReset lowNs taken => Sys2Proof.Machine.execWellhouseReset lowNs taken s
  | .aonRstNRise testEn => Sys2Proof.Machine.execAonRstNRise testEn s
  | .pgRise r => Sys2Proof.Machine.execPgRise r s
  | .pgTimeout r => Sys2Proof.Machine.execPgTimeout r s
  | .pgLoss r => Sys2Proof.Machine.execPgLoss r s
  | .vglitch r crcBad saveBad => Sys2Proof.Machine.execVglitch r crcBad saveBad s
  | .tglitch => Sys2Proof.Machine.execTglitch s
  | .debugAttach => Sys2Proof.Machine.execDebugAttach s
  | .debugDetach => Sys2Proof.Machine.execDebugDetach s
  | .extest => Sys2Proof.Machine.execExtest s
  | .clamp => Sys2Proof.Machine.execClamp s
  | .mgmtWatchdog => Sys2Proof.Machine.execMgmtWatchdog s
  | .kick req => Sys2Proof.Machine.execKick req s
  | .fltClr req => Sys2Proof.Machine.execFltClr req s
  | .aclClr req => Sys2Proof.Machine.execAclClr req s
  | .rmData req => Sys2Proof.Machine.execRmData req s
  | .pwrReq req target => Sys2Proof.Machine.execPwrReq req target s
  | .idleExpiry d => Sys2Proof.Machine.execIdleExpiry d s
  | .agree => Sys2Proof.Machine.execAgree s
  | .stopWaitExpiry => Sys2Proof.Machine.execStopWaitExpiry s
  | .entered => Sys2Proof.Machine.execEntered s
  | .wakeN lowNs => Sys2Proof.Machine.execWakeN lowNs s
  | .sdioCmdWake => Sys2Proof.Machine.execSdioCmdWake s
  | .wakeReq req mask => Sys2Proof.Machine.execWakeReq req mask s
  | .regulatorReady d => Sys2Proof.Machine.execRegulatorReady d s
  | .oscRdy d => Sys2Proof.Machine.execOscRdy d s
  | .memRdy d => Sys2Proof.Machine.execMemRdy d s
  | .logicRdy d => Sys2Proof.Machine.execLogicRdy d s
  | .perfReq req level => Sys2Proof.Machine.execPerfReq req level s
  | .voutCommandDone ack => Sys2Proof.Machine.execVoutCommandDone ack s
  | .voutSettled => Sys2Proof.Machine.execVoutSettled s
  | .bodyBiasSettled => Sys2Proof.Machine.execBodyBiasSettled s
  | .smbalertN => Sys2Proof.Machine.execSmbalertN s
  | .registerRead req a => Sys2Proof.Machine.execRegisterRead req a s
  | .doorbell b => Sys2Proof.Machine.execDoorbell b s
  | .canProtocolError c tec rec => Sys2Proof.Machine.execCanProtocolError c tec rec s
  | .stuckClear d => Sys2Proof.Machine.execStuckClear d s
  | .powerOnReset => Sys2Proof.Machine.execPowerOnReset s

end Sys2Proof.Machine
end

