-- ==== Sys2Proof/Machine/Pads.lean ====
section
/-! DEFINITION. Machine/Pads.lean: what the block puts on its signal balls: the clamps of domains that are off, the pad latches, the
TAP's boundary scan, and the levels that its state fixes (rules R381, R413, R433, R452, R465, R471, R476). -/

namespace Sys2Proof.Machine

/-- The outputs of the block, by ball group (rules R465, R466). -/
inductive Pad where
  | pwm (k : Fin 24)
  | tout (t : Fin 8)
  | spiSclk (k : Fin 4)
  | spiCs (k n : Fin 4)
  | spiMosi (k : Fin 4)
  | uartTx (u : Fin 2)
  | uartRts (u : Fin 2)
  | canTx (b : Fin 4)
  | sdClk (d : Fin 8)
  | mdc (p : Fin 2)
  | mdio (p : Fin 2)
  | csiLanes (r : Fin 6)
  | ethTx (p : Fin 2)
  | memCommand (m : Fin 4)
  | memReset (m : Fin 4)
  | sdCmd
  | sdDat (i : Fin 4)
  | pmbus
  | faultN
  | pen (r : Rail)
deriving DecidableEq, Repr

/-- What an output does: a level, high impedance, electrical idle, the self-refresh state, the boundary register's level, or what its block
sends. -/
inductive PadState where
  | level (high : Bool)
  | highZ
  | electricalIdle
  | selfRefresh
  | scanned
  | driven
deriving DecidableEq, Repr

/-- The power domain that drives an output (rule R433); the wellhouse is domain 0. -/
def padDomain (p : Pad) : Nat :=
  match p with
  | .memCommand m => 32 + m.val
  | .memReset m => 32 + m.val
  | .sdCmd | .sdDat _ | .pmbus => 1
  | .faultN | .pen _ => 0
  | _ => 31

/-- The clamp of an output whose domain is off (rule R433): LPDDR6 stays in self-refresh unless S3 takes its supply. -/
def State.clamped (s : State) (p : Pad) : PadState :=
  let held := fun i => PadState.level (s.power.padHold.getLsbD i)
  let kept := s.rf 0x3104 0 2 != 3 && s.power.pen.getLsbD 0
  match p with
  | .pwm k => held k.val
  | .tout t => held (24 + t.val)
  | .spiSclk k => held (32 + k.val)
  | .spiCs _ _ | .uartTx _ | .uartRts _ | .canTx _ => .level true
  | .spiMosi _ | .sdClk _ | .mdc _ => .level false
  | .mdio _ | .csiLanes _ | .sdCmd | .sdDat _ | .pmbus => .highZ
  | .ethTx _ => .electricalIdle
  | .memCommand _ => if kept then .selfRefresh else .level false
  | .memReset _ => .level kept
  | .faultN | .pen _ => .level false

/-- An output whose domain runs. Between transfers an SPI clock is at its idle polarity and a UART's or CAN bus's line idle; DAT1 is low for an
interrupt in 1-bit mode while no transfer is in progress. DEDUCED, assumption 63. -/
def State.drives (s : State) (p : Pad) : PadState :=
  match p with
  | .pwm k => .level (s.pwmPad k.val)
  | .tout t => .level (s.toutPad t.val)
  | .spiSclk k => if (s.spiBusy k.val).isSome then .driven else .level (bit (s.reg (spiBase k.val)) 2)
  | .spiCs k n => .level !((s.spiBusy k.val).any fun x => x.cs == n.val)
  | .uartTx u => if s.time.ns < Cells.get 0 s.edge.uartOut u.val then .driven else .level true
  | .canTx b => if (s.canFirst b.val).isSome then .driven else .level true
  | .sdDat i => if i = 1 ∧ nfld (s.f0 0x07) 0 2 ≠ 2 ∧ s.sdio.openXfer = none ∧ s.dat1Irq true then .level false else .driven
  | .faultN => .level !s.faultLow
  | .pen r => .level (s.power.pen.getLsbD (match r with
    | .soc => 0
    | .loop => 1
    | .core => 2))
  | _ => .driven

/-- What an output does: EXTEST and CLAMP give it the level of its boundary register (rule R413), and a domain that is off its clamp until the
logic step of its restore (rules R433, R435). -/
def State.pad (s : State) (p : Pad) : PadState :=
  if s.boot.tap ≠ 0 then .scanned else if s.domain (padDomain p) < 2 then s.clamped p else s.drives p

end Sys2Proof.Machine
end

