-- ==== Sys2Proof/Safety.lean ====
section
/-! DEFINITION. Safety.lean: the words in which claims are stated: a safe step, what the end of a command derives, frames, and
accesses that a block serves. -/

namespace Sys2Proof

open Sys2Proof.Machine

/-- A step is safe when it answers a next state. -/
def Safe (s : State) : Prop := ∃ t, step s = .next t

/-- What holds once a command has ended (rules R50, R381), unless AON_RST_N holds the block in reset: every condition that holds has its INT_RAW
bit set, and EVT_PEND names exactly the regions with an interrupt that EVT_MASK lets through. -/
def Settled (s : State) : Prop :=
  s.power.held = true ∨ ((∀ c ∈ s.conditions, bit (s.reg (c.1.base + 0x14)) c.2 = true) ∧ s.evtPend = s.evtBits)

/-- Nothing else waits for the end of the command: no channel is due to fold, and no engine runs a cut command (rules R214, R457). -/
abbrev Calm (s : State) : Prop := s.foldDue = [] ∧ (s.head.running.any fun p => p.2.any (·.cut)) = false

/-- The registers that the end of every command may change: INT_RAW of the pages with conditions, PERF_STAT's BELOW_IMAGE and the
event it raises. -/
def endRegs : List Nat :=
  [0x1014, 0x4014, 0x5014, 0x59014, 0x60014, 0x61014, 0x62014, 0x63014, 0x71014, 0x73014, 0x73124]

/-- `t` is `u` but for the registers in `rs`, those that the end of every command may change, and EVT_PEND with F1_INT. -/
def SameBut (rs : Nat → Prop) (u t : State) : Prop :=
  t = { u with regs := t.regs, evtPend := t.evtPend, f1Int := t.f1Int } ∧
  ∀ a, ¬ rs a → a ∉ endRegs → t.reg a = u.reg a

/-- AON_RST_N is high. -/
abbrev Up (s : State) : Prop := s.power.held = false

/-- The write or read of requester `r` at byte address `a` reaches its block (rule R481): no earlier step of the interconnect settles
it. -/
abbrev Reaches (s : State) (r : Requester) (a : Nat) (write : Bool) : Prop :=
  Up s ∧ s.settled r (wordAccess a) write = none

/-- The power domain `d` runs, and AON_RST_N is high. -/
abbrev Runs (s : State) (d : Nat) : Prop := Up s ∧ s.runs d = true

/-- The tile commands with their opcodes (rule R189 and the operation list of rules R190–R196). -/
def tileRows : List (Nat × (Fin 16 → RunEnv → Instr)) := [
  (0x01, .matmul), (0x02, .conv2d), (0x03, .attnScore), (0x04, .sumReduce), (0x05, .carryCombine),
  (0x06, .carryFinal), (0x10, .add), (0x11, .sub), (0x12, .mul), (0x13, .div),
  (0x14, .fma), (0x15, .min), (0x16, .max), (0x17, .cmp), (0x18, .sqrt),
  (0x19, .exp), (0x1A, .log), (0x1B, .recip), (0x1C, .rsqrt), (0x1D, .tanh),
  (0x1E, .sigmoid), (0x1F, .shift), (0x20, .reduceMax), (0x21, .reduceMin), (0x24, .softmax),
  (0x28, .convert), (0x30, .copy), (0x31, .gatherRows), (0x38, .timeRead), (0x39, .ringLatest)]

/-- The non-critical VCP commands other than STOP, with their codes and effects (rule R387). -/
def vcpPlain : List (Nat × Instr × (State → List Byte → Nat × List Byte × State)) := [
  (0x01, .hello, State.vcpHello), (0x02, .statusGet, State.vcpStatus), (0x04, .attestGet, State.vcpAttest),
  (0x05, .loadBegin, State.vcpLoadBegin), (0x06, .loadEnd, State.vcpLoadEnd)]

/-- The critical VCP commands other than KEY_ROTATE, with their codes and effects; a trip may fall in a write list (rules R387, R408). -/
def vcpCriticalRows (mid : Option (BitVec 9 × MidTrip)) : List (Nat × Instr × (State → List Byte → Nat × List Byte × State)) := [
  (0x10, .actEnable, State.vcpActEnable), (0x11, .missionLoad mid, (State.vcpWrites · true mid)), (0x12, .modeChange mid, (State.vcpWrites · false mid)),
  (0x13, .vcpAdmit, State.vcpAdmitImage), (0x14, .revoke, State.vcpRevoke), (0x15, .windowBind, State.vcpBind),
  (0x16, .perfLimit, State.vcpPerfLimit), (0x17, .debugPolicy, State.vcpDebug)]

/-- `n` reads of the register window in turn: the words and the state after them. -/
def winReads : Nat → State → List Word × State
  | 0, s => ([], s)
  | n + 1, s =>
    let q := s.winRead
    let r := winReads n q.2
    (q.1 :: r.1, r.2)

/-- Writes of words to the register window in turn. -/
def winWrites (ws : List Word) (s : State) : State := ws.foldl State.winWrite s

end Sys2Proof
end

