-- ==== Sys2Proof/Certificates/Slice0/Obligations.lean ====
section
/-! DEFINITION. Certificates/Slice0/Obligations.lean: the statements for the provers. `.next u.done` is the state u after what the end of every
command derives (CommandEndFrame). -/

open Sys2Proof Sys2Proof.Machine

/-! The machine. -/

/-- A step runs the command at the front of the queue on the state with the queue's rest. -/
def Obligations.StepRunsFront : Prop :=
  ∀ (c : Instr) (rest : List Instr) (s : State), s.pending = c :: rest → step s = exec c { s with pending := rest }

/-- On an empty queue the timing clock ticks; while no engine runs a command, time passes, every counter advances by rule R95 with its committed step
first (rule R100), and the firings of the slots that are due join the queue (log entry 17: an empty queue ticks, the model's choice). -/
def Obligations.IdleStepTicks : Prop :=
  ∀ s : State, Up s → s.pending = [] → s.head.running = [] → s.foldDue = [] →
    ∃ t, step s = .next t ∧ t.time.ns = s.time.ns + s.tickNs ∧
      (∀ n, n < 8 → t.tc n = (s.tc n).tick (s.tickNs / 2) (w32 ((s.tc 0).tick (s.tickNs / 2) 0).total)) ∧
      (∀ k : Fin 256, Instr.slotFire k ∈ t.pending ↔ t.slotDue k.val = true)

/-- Reset: AON_RST_N is low, nothing waits, the wellhouse's domain alone is ON, the stop line is low, every memory lists nothing and every register
holds the value of its row (rule R13). The state after reset is settled. Model's choices in it: log 2, 3, 4, 50 and 51. -/
def Obligations.ResetState : Prop :=
  (State.reset.power.held = true ∧ State.reset.pending = [] ∧ State.reset.stopLine = false ∧
  (∀ d, State.reset.domain d = if d = 0 then 2 else 0) ∧
  State.reset.dram = [] ∧ State.reset.sram = [] ∧ (∀ a, State.reset.reg a = regInit a) ∧
  (∀ n, State.reset.tc n = tcReset)) ∧
  (Settled State.reset)

/-- Every step keeps the block settled: each condition of rule R50 that holds has its INT_RAW bit set, and EVT_PEND holds the region bits of rule
R381. Model's choices in it: log 50. -/
def Obligations.StepKeepsSettled : Prop :=
∀ s t : State, Settled s → step s = .next t → Settled t

/-- No command stops the block: each answers a next state from every state. While AON_RST_N is low, a command has no effect, but for the two of
AON_RST_N and the power-on reset; nor does an empty queue (rule R474). Model's choices in it: log 4 and 5. -/
def Obligations.CommandsAnswer : Prop :=
  (∀ (c : Instr) (s : State), ∃ t, exec c s = .next t) ∧
  (∀ s : State, s.power.held = true →
    (s.pending = [] → step s = .next s) ∧
    ∀ c : Instr, (∀ ns k, c ≠ .wellhouseReset ns k) → (∀ b, c ≠ .aonRstNRise b) → c ≠ .powerOnReset → exec c s = .next s)

/-- What the end of every command changes where no channel is due to fold and no engine command is cut (rules R50, R381, R420): registers other than
INT_RAW of the pages with conditions, BELOW_IMAGE and its event stay; INT_RAW bits are only set; every field of the state but the registers, EVT_PEND
and F1_INT stays. Model's choices in it: log 50. -/
def Obligations.CommandEndFrame : Prop :=
  ∀ u : State, Calm u →
    SameBut (fun _ => False) u u.done ∧
    (∀ a ∈ endRegs, a ≠ 0x73124 → u.done.reg a &&& u.reg a = u.reg a) ∧
    (u.done.reg 0x73124 = setBit (u.reg 0x73124) 8 u.belowImage) ∧ u.done.f1Int &&& u.f1Int = u.f1Int

/-! Registers (rules R44–R58, R481). -/

/-- An access that no block serves answers its requester the code of rule R481 and the word 0; of all else it changes registers of the access log's
page, or the count of the debug port, alone. Model's choices in it: log 19 and 21. -/
def Obligations.UnservedAccess : Prop :=
  ∀ (s : State) (r : Requester) (a : Access) (v : Word) (write : Bool) (code : Nat), Up s → s.settled r a write = some code →
    let u := (s.unserved r a.addr.toNat write code).respond r code 0
    exec (if write then .registerWrite r a v else .registerRead r a) s = .next u.done ∧
    u = { s with regs := u.regs, resp := u.resp } ∧ u.resp = (s.respond r code 0).resp ∧
    ∀ b, ¬ (0x6000 ≤ b ∧ b < 0x7000) → b ≠ 0x7610C → u.reg b = s.reg b

/-- An access to an unimplemented page answers NO_PAGE, a read with 0, and is logged. -/
def Obligations.UnimplementedPage : Prop :=
  ∀ (s : State) (r : Requester) (n : BitVec 20) (v : Word), Up s → n.toNat % 4 = 0 → pageAt n.toNat = none →
    exec (.registerWrite r { addr := n, word := true } v) s = .next ((s.logAccess r n.toNat true cNO_PAGE).respond r cNO_PAGE 0).done ∧
    exec (.registerRead r { addr := n, word := true }) s = .next ((s.logAccess r n.toNat false cNO_PAGE).respond r cNO_PAGE 0).done

/-- The steps of rule R481 before a block serves an access, in their order. Model's choices in it: log 19. -/
def Obligations.AccessOrder : Prop :=
  ∀ (s : State) (r : Requester) (a : Access) (write : Bool),
    let n := a.addr.toNat
    let off := n % 4096
    ((a.word = false ∨ n % 4 ≠ 0) → s.settled r a write = some cWIDTH) ∧
    (a.word = true → n % 4 = 0 →
      (pageAt n = none → s.settled r a write = some cNO_PAGE) ∧
      ∀ p, pageAt n = some p →
        (r = .debug → s.debugForbids n write = true → s.settled r a write = some cARG) ∧
        ((r = .debug → s.debugForbids n write = false) →
          (write = false → (off = 0 ∨ off = 4 ∨ off = 8 ∨ off = 0x2C) → s.settled r a write = none) ∧
          ((write = false → off ≠ 0 ∧ off ≠ 4 ∧ off ≠ 8 ∧ off ≠ 0x2C) →
            (s.pwrState p = 2 ∨ s.pwrState p = 3 → s.settled r a write = none) ∧
            (s.pwrState p < 2 → s.settled r a write = some cOFF_DOMAIN) ∧
            (s.pwrState p = 4 → s.settled r a write =
              if s.power.agreed.contains p.domain then some cOFF_DOMAIN else none))))

/-- BLOCK_ID, BLOCK_VER, CAPS and PWR of every page read from the header shadow, whatever the state of the block's domain. Writes of the common header
that reach their block, on every page: INT_EN takes the word, INT_CLR clears the bits of INT_RAW, a 1 to ERR_CAPT's VALID returns ERR_CAPT and
ERR_ADDR to their reset values, and a read of INT_STAT gives INT_RAW and INT_EN. Model's choices in it: log 3 and 7. -/
def Obligations.HeaderRegisters : Prop :=
  (∀ (s : State) (r : Requester) (p : Page), Up s → (r = .debug → bit (s.reg 0x76100) 0 = true) → pageAt p.base = some p →
    exec (.registerRead r (wordAccess p.base)) s = .next (s.respond r cOK (w32 (p.type * 65536 + p.inst))).done ∧
    exec (.registerRead r (wordAccess (p.base + 4))) s = .next (s.respond r cOK 0x0100).done ∧
    exec (.registerRead r (wordAccess (p.base + 8))) s = .next (s.respond r cOK (capsOf p)).done ∧
    exec (.registerRead r (wordAccess (p.base + 0x2C))) s = .next (s.respond r cOK (s.pwrWord p)).done) ∧
  (∀ (s : State) (r : Requester) (p : Page) (v : Word), pageAt p.base = some p →
    (Reaches s r (p.base + 0x18) true →
      exec (.registerWrite r (wordAccess (p.base + 0x18)) v) s = .next ((s.setReg (p.base + 0x18) v).respond r cOK 0).done) ∧
    (Reaches s r (p.base + 0x1C) true →
      exec (.registerWrite r (wordAccess (p.base + 0x1C)) v) s =
        .next ((s.setReg (p.base + 0x14) (s.reg (p.base + 0x14) &&& ~~~ v)).respond r cOK 0).done) ∧
    (Reaches s r (p.base + 0x24) true → bit v 31 = true →
      exec (.registerWrite r (wordAccess (p.base + 0x24)) v) s =
        .next (((s.setReg (p.base + 0x24) 0x00FF0000).setReg (p.base + 0x28) 0).respond r cOK 0).done) ∧
    (Reaches s r (p.base + 0x20) false →
      exec (.registerRead r (wordAccess (p.base + 0x20))) s =
        .next (s.respond r cOK (s.reg (p.base + 0x14) &&& s.reg (p.base + 0x18))).done))

/-- The first error of a page is captured with its code, source and context; later ones raise MORE alone, which saturates (rule R51). A fault alarm
event counts in FLT_TOTAL and pends in its class; one that repeats the newest record in code, source, block and detail raises that record's REPEAT,
and any other writes the record at HEAD (rules R452, R453). -/
def Obligations.ErrorsAndFaults : Prop :=
  (∀ (s : State) (p : Page) (code source ctx addr : Nat),
    let a := p.base + 0x24
    (bit (s.reg a) 31 = false →
      s.errCapture p code source ctx addr = (s.setReg a (w32 (code + source * 256 + ctx * 65536 + 2 ^ 31))).setReg (a + 4) (w32 addr)) ∧
    (bit (s.reg a) 31 = true → s.errCapture p code source ctx addr = s.setRf a 24 7 (min 127 (s.rf a 24 7 + 1)))) ∧
  (∀ (s : State) (p : Page) (cls code source ctx addr detail : Nat),
    let head := s.rf 0x510C 0 6
    let newest := 0x5800 + 32 * ((head + 63) % 64)
    let total := satInc (s.reg 0x5110) 1
    let new := s.faultEvent p cls code source ctx addr detail
    new = { s with regs := new.regs } ∧ new.reg 0x5110 = total ∧ new.reg 0x5118 = s.reg 0x5118 ||| w32 (2 ^ cls) ∧
    (s.reg (newest + 28) ≠ 0 → s.rf newest 0 16 = fld (w32 (code + source * 256 + ctx * 65536 + cls * 16777216)) 0 16 →
        s.reg (newest + 4) = w32 p.blockId → s.reg (newest + 12) = w32 detail →
      new.reg 0x510C = s.reg 0x510C ∧ new.rf (newest + 24) 16 16 = min 0xFFFF (s.rf (newest + 24) 16 16 + 1) ∧
      new.reg (newest + 16) = s.stamp ∧ new.reg (newest + 28) = total) ∧
    (s.reg (newest + 28) = 0 →
      new.reg 0x510C = w32 ((head + 1) % 64) ∧
      new.reg (0x5800 + 32 * head) = w32 (code + source * 256 + ctx * 65536 + cls * 16777216) ∧
      new.reg (0x5800 + 32 * head + 4) = w32 p.blockId ∧ new.reg (0x5800 + 32 * head + 8) = w32 addr ∧
      new.reg (0x5800 + 32 * head + 12) = w32 detail ∧ new.reg (0x5800 + 32 * head + 16) = s.stamp))

/-- Commands of the registers of the management plane that reach their block: MIN_CLR, KICK by the management controller with a LIMIT of 2 or more,
FLT_CLR, ACL_CLR, and a read of RM_DATA, whose index moves on. TEL_CTRL.SNAP: the telemetry of the last whole tick enters the page's registers,
TEL_SEQ rises by one, and the page raises its event (rule R23). Every other register stays, but for what the end of a command changes. Model's choices
in it: log 19. -/
def Obligations.PlaneRegisters : Prop :=
  (∀ (s : State) (r : Requester),
    (Reaches s r 0x71134 true →
      exec (.minClr r) s = .next (({ s with fabric := { s.fabric with
        min := Cells.put 0xFFFF s.fabric.min (s.rf 0x7112C 0 5) 0xFFFF } } : State).respond r cOK 0).done) ∧
    (Reaches s .mgmt 0x5128 true → 2 ≤ s.rf 0x5128 4 8 → s.reg 0x5128 = s.reg 0x5128 &&& 0xFF0 →
      exec (.kick .mgmt) s = .next ({ s.setReg 0x5128 (s.reg 0x5128) with fabric := { s.fabric with wd := 0 } }.respond .mgmt cOK 0).done) ∧
    (Reaches s r 0x512C true →
      exec (.fltClr r) s = .next (((({ s with regs := Cells.clear s.regs 0x5800 0x800 } : State).setReg 0x510C 0).setReg 0x5114 0).respond r cOK 0).done) ∧
    (Reaches s r 0x610C true →
      exec (.aclClr r) s = .next (((({ s with regs := Cells.clear s.regs 0x6400 0x400 } : State).setReg 0x6100 0).setReg 0x6108 0).respond r cOK 0).done) ∧
    (Reaches s r 0x5104 false →
      exec (.rmData r) s = .next ((s.setOwn r 0x5100 (w32 ((fld (s.own r 0x5100) 0 13 + 1) % 8192))).respond r cOK
        (s.rmRead (fld (s.own r 0x5100) 0 13))).done)) ∧
  (∀ (s : State) (r : Requester), Reaches s r 0x72100 true → Calm s →
    ∃ t, exec (.telSnap r) s = .next t ∧
      SameBut (fun a => 0x72000 ≤ a ∧ a < 0x73000) (s.respond r cOK 0) t ∧
      t.reg 0x72104 = s.reg 0x72104 + 1 ∧ (∀ i, i < 4 → t.reg (0x72108 + 4 * i) = s.fabric.tel.getD i 0) ∧
      (∀ e, e < 0x49 → t.reg (0x72200 + 4 * e) = s.fabric.tel.getD (4 + e) 0) ∧ bit (t.reg 0x72014) 0 = true)

/-- A window of the wave-rate monitors (rules R30, R31, R35, R455): a window whose counts lie at the warning threshold or above marks no monitor; a
count below the floor threshold of an active monitor sets its bits of MON_BELOW and TM_VOID. Every active monitor holds its count, and the monitors
that are powered at the window's end count the next one. Model's choices in it: log 23. -/
def Obligations.MonitorWindows : Prop :=
  ∀ (s : State) (counts : List (BitVec 16)), Runs s 1 → Calm s →
    ∃ t, exec (.monitorWindow counts) s = .next t ∧ t.fabric.low = s.windowLevel ∧
      (∀ i, i < 32 → bit t.fabric.on i = s.monPowered i) ∧
      (∀ i, i < 32 → bit s.fabric.on i = true → s.monPowered i = true →
        Cells.get 0 t.fabric.last i = w32 (counts.getD i 0).toNat ∧
        ((counts.getD i 0).toNat < floorThreshold (s.monFloor i s.fabric.low) →
          bit (t.reg 0x7111C) i = true ∧ bit (t.reg 0x5120) i = true)) ∧
      ((∀ i, i < 32 → warnThreshold (s.monFloor i s.fabric.low) ≤ (counts.getD i 0).toNat) →
        t.reg 0x7111C = s.reg 0x7111C ∧ t.reg 0x71120 = s.reg 0x71120)

/-- The management tick of running firmware (rules R22, R23, R352, R440): TICKS rises by one, each domain's energy meter gains what was measured
unless the domain was OFF all through the tick, TJ is held, and so is each PMBus reading of STATUS_WORD and READ_VOUT that did not fail, the telemetry
set is that of the tick, and its accounts start anew. The management watchdog (rule R459): once LIMIT ticks have passed without a kick, the stop line
rises, a class-3 event is recorded, and domain 1 alone starts anew. Model's choices in it: log 22 and 35. -/
def Obligations.ManagementPlane : Prop :=
  (∀ (s : State) (i : TickInputs), Up s → s.mgmtRuns = true → Calm s →
    ∃ t, exec (.managementTick i) s = .next t ∧
      (t.reg 0x70104).toNat + 2 ^ 32 * (t.reg 0x70108).toNat = ((s.reg 0x70104).toNat + 2 ^ 32 * (s.reg 0x70108).toNat + 1) % 2 ^ 64 ∧
      (∀ d, d < 36 → (t.reg (0x73200 + 8 * d)).toNat + 2 ^ 32 * (t.reg (0x73204 + 8 * d)).toNat =
        ((s.reg (0x73200 + 8 * d)).toNat + 2 ^ 32 * (s.reg (0x73204 + 8 * d)).toNat +
          (if s.power.fed.getLsbD d = true then (i.energy.getD d 0).toNat else 0)) % 2 ^ 64) ∧
      t.reg 0x73130 = w32 i.tj.toNat ∧ (i.nack.getLsbD 0 = false → t.reg 0x74104 = w32 i.statusWord.toNat) ∧
      (i.nack.getLsbD 1 = false → t.reg 0x74108 = w32 i.voutMv.toNat) ∧
      t.fabric.tel = s.telemetry i ∧ t.head.flits = [] ∧ t.head.tickAt = s.now 7 ∧ t.fabric.wd = s.fabric.wd + 1) ∧
  (∀ s : State, Up s → s.boot.step = 3 → s.rf 0x5128 4 8 ≤ s.fabric.wd → Calm s →
    ∃ t, exec .mgmtWatchdog s = .next t ∧ t.stopLine = true ∧ bit (t.reg 0x5118) 3 = true ∧ t.boot.step = 0 ∧ t.fabric.wd = 0 ∧
      t.sdio = sdioReset ∧ t.head = s.head ∧ t.gates = s.gates ∧ t.loops = s.loops ∧ t.edge = s.edge ∧ t.dram = s.dram ∧
      t.sram = s.sram ∧ t.time = s.time)

/-! The time base (rules R95–R116). -/

/-- Corrections of a counter (rules R99–R103). ADD_FRAC and STEP_LO wait with their requester; ADD_INT commits the addend with the waiting or the
present fraction if it lies in the counter's range, and STEP_HI a step that leaves the counter in range; a counter that the requester may not correct
answers ARG and raises BAD_WRITE. Model's choices in it: log 45. -/
def Obligations.CounterCorrections : Prop :=
  ∀ (s : State) (r : Requester) (n : Fin 8) (v : Word), (∀ off ∈ [4, 8, 0xC, 0x10], Reaches s r (tcGroup n.val + off) true) →
    let g := tcGroup n.val
    let c := s.tc n.val
    let refused := (s.intRaise .time 3).respond r cARG 0
    (n.val < 6 ∨ r = .mgmt →
      exec (.addFrac r n v) s = .next ((s.setHalf r (g + 4) (some v)).respond r cOK 0).done ∧
      exec (.stepLo r n v) s = .next ((s.setHalf r (g + 0xC) (some v)).respond r cOK 0).done ∧
      (let frac := ((s.half r (g + 4)).map BitVec.toNat).getD (c.addend.toNat % 2 ^ 32)
       let addend := fld v 0 8 * 2 ^ 32 + frac
       let t := s.setHalf r (g + 4) none
       let ok := if n.val < 6 then 0x100000000 ≤ addend ∧ addend ≤ 0x300000000 else 0x1FFBE76C9 ≤ addend ∧ addend ≤ 0x200418937
       (ok → exec (.addInt r n v) s =
          .next ((t.setTc n.val { c with addend := BitVec.ofNat 64 addend }).respond r cOK 0).done) ∧
       (¬ ok → exec (.addInt r n v) s = .next ((t.intRaise .time 3).respond r cARG 0).done)) ∧
      (let w := v.toNat * 2 ^ 32 + ((s.half r (g + 0xC)).map BitVec.toNat).getD 0
       let t := s.setHalf r (g + 0xC) none
       let after : Int := (c.total : Int) + c.step.getD 0 + sext 64 w
       let ok := (n.val < 6 ∨ c.spent = false) ∧ 0 ≤ after ∧ after < 2 ^ 48 * 1000000000
       (ok → exec (.stepHi r n v) s =
          .next (((t.setTc n.val { c with
            step := some (c.step.getD 0 + sext 64 w), last := BitVec.ofNat 64 w, steps := BitVec.ofNat 8 (min 255 (c.steps.toNat + 1)),
            spent := decide (6 ≤ n.val) }).intRaise .time 2).respond r cOK 0).done) ∧
       (¬ ok → exec (.stepHi r n v) s = .next ((t.intRaise .time 3).respond r cARG 0).done))) ∧
    (¬ (n.val < 6 ∨ r = .mgmt) →
      exec (.addFrac r n v) s = .next refused.done ∧ exec (.stepLo r n v) s = .next refused.done ∧
      exec (.addInt r n v) s = .next refused.done ∧ exec (.stepHi r n v) s = .next refused.done)

/-- SNAP_CTRL.CAPTURE copies all eight counters on the same tick and increments SNAP_SEQ by one. -/
def Obligations.CounterCapture : Prop :=
  ∀ (s : State) (r : Requester), Reaches s r 0x1200 true → Calm s →
    ∃ t, exec (.capture r) s = .next t ∧ SameBut (fun a => 0x1204 ≤ a ∧ a < 0x1290) (s.respond r cOK 0) t ∧
      t.reg 0x1204 = s.reg 0x1204 + 1 ∧
      ∀ n, n < 8 →
        t.reg (0x1210 + 0x10 * n) = w32 (s.tc n).ns.toNat ∧ t.reg (0x1214 + 0x10 * n) = w32 (s.tc n).sec.toNat ∧
        t.reg (0x1218 + 0x10 * n) = w32 ((s.tc n).sec.toNat / 2 ^ 32) ∧ t.reg (0x121C + 0x10 * n) = (s.tc n).frac

/-- A PPS edge (rule R108): the counter that PPS_CTRL selects is captured, an edge less than 100 µs after the last captured one counts as a glitch,
and a disabled input ignores both. The servo's master (rule R105), while the firmware runs: its loss sets HOLDOVER, its change also counts in CHANGES,
and neither changes a counter; its return sets LOCKED. The reference (rule R38): its loss is reported once, with REF_LOST on the time page and a
class-1 event, and its return ends it. Model's choices in it: log 16, 22 and 45. -/
def Obligations.ReferencesAndPps : Prop :=
  (∀ s : State, Up s →
    (bit (s.reg 0x12A0) 3 = false → exec .ppsEdge s = .next s.done) ∧
    (∀ t, bit (s.reg 0x12A0) 3 = true → s.time.ppsAt = some t → s.time.ns - t < 100000 →
      exec .ppsEdge s = .next (s.setRf 0x12B0 24 8 (min 255 (s.rf 0x12B0 24 8 + 1))).done) ∧
    (bit (s.reg 0x12A0) 3 = true → (∀ t, s.time.ppsAt = some t → 100000 ≤ s.time.ns - t) →
      let c := s.tc (s.rf 0x12A0 0 3)
      let u := ((s.setReg 0x12A4 (w32 c.ns.toNat)).setReg 0x12A8 (w32 c.sec.toNat)).setReg 0x12AC (w32 (c.sec.toNat / 2 ^ 32))
      exec .ppsEdge s = .next (({ u.setRf 0x12B0 0 24 (s.rf 0x12B0 0 24 + 1) with
        time := { s.time with ppsAt := some s.time.ns } } : State).intRaise .time 0).done) ∧
    (s.mgmtRuns = true →
      exec (.masterLoss .lost) s = .next (s.setRf 0x12E4 0 2 2).done ∧
      exec (.masterLoss .changed) s = .next (let u := s.setRf 0x12E4 0 2 2; u.setRf 0x12E4 8 8 (min 255 (u.rf 0x12E4 8 8 + 1))).done ∧
      ∀ l, Calm s → ∃ t, exec (.masterLoss (.acquired l)) s = .next t ∧ t.rf 0x12E4 0 2 = 1)) ∧
  (∀ s : State, Up s →
    (s.fabric.refLost = false →
      exec .refLost s = .next ((({ s with fabric := { s.fabric with refLost := true } } : State).setRf 0x1010 24 8 cREF_LOST).faultEvent
        .time 1 cREF_LOST (s.rf 0x1024 8 8) 0xFF (s.reg 0x1028).toNat 0).done) ∧
    (s.fabric.refLost = true → exec .refLost s = .next s.done) ∧
    exec .refReturn s = .next ({ s with fabric := { s.fabric with refLost := false } } : State).done)

/-- Arming and disarming the requester's slot (rules R111–R116): arming clears FIRES and SKIPPED and notes a target that has passed; an armed slot, an
action without a row, or a period below 64 ns refuses it; a disarm clears ARM at once, or waits for the firing where the slot fires on the same tick.
Model's choices in it: log 45. -/
def Obligations.SlotArming : Prop :=
  ∀ (s : State) (r : Requester) (v : BitVec 9), Reaches s r 0x2104 true →
    let k := fld (s.own r 0x2100) 0 8
    let cfg := w32 (1 + 2 * v.toNat)
    (s.slotArmed k = true → exec (.arm r v) s = .next (s.respond r cARG 0).done) ∧
    (s.slotArmed k = false → (6 ≤ fld cfg 1 3 ∨ (bit cfg 7 = true ∧ (s.slotW k 4).toNat < 64)) →
      exec (.arm r v) s = .next (s.respond r cARG 0).done) ∧
    (s.slotArmed k = false → ¬ (6 ≤ fld cfg 1 3 ∨ (bit cfg 7 = true ∧ (s.slotW k 4).toNat < 64)) →
      let u := (s.setSlotW k 0 cfg).setSlotW k 7 (w32 (fld (s.slotW k 7) 0 8))
      exec (.arm r v) s = .next (((u.setSlotW k 9 0).setSlotW k 11
        (if s.slotTarget k ≤ s.now (fld cfg 4 3) then 1 else 0)).respond r cOK 0).done) ∧
    (¬ (s.slotArmed k = true ∧ s.time.firing.contains k = true) →
      exec (.disarm r) s = .next ((s.setSlotW k 0 (setBit (s.slotW k 0) 0 false &&& 0x3FF)).respond r cOK 0).done) ∧
    (s.slotArmed k = true → s.time.firing.contains k = true →
      exec (.disarm r) s = .next (({ s with time := { s.time with
        disarm := Cells.put none s.time.disarm k (some (setBit (s.slotW k 0) 0 false &&& 0x3FF)) } } : State).respond r cOK 0).done)

/-- A slot that is due, or whose firing was fixed by the tick, fires (rules R110–R115): its action runs, of which NONE does nothing, INVOKE and SIGNAL
answer OFF_DOMAIN while domain 2 is not ON, SIGNAL signals its gate and INVOKE starts its context; then the record: FIRED_AT, the code (LATE where the
action gives none and the slot fires late, then with LATENESS and its bit of LATE_MAP) with FIRES, and the end of ARM of a one-shot slot, or the next
target after now of a periodic one; a disarm that waited acts, and WAKE gives a wake event. The record changes no other slot. Model's choices in it:
log 45. -/
def Obligations.SlotFires : Prop :=
  ∀ (s : State) (k : Fin 256), Up s →
    (s.time.firing.contains k.val = false → s.slotDue k.val = false → exec (.slotFire k) s = .next s.done) ∧
    ((s.time.firing.contains k.val = true ∨ s.slotDue k.val = true) →
      let kind := fld (s.slotW k.val 0) 1 3
      let ctx := fld (s.slotW k.val 5) 0 6
      let code := (s.slotAction k.val).1
      let u := (s.slotAction k.val).2
      let t := u.slotRecord k.val code
      let x := t.firingOver k.val
      let cfg := u.slotW k.val 0
      let now := u.now (fld cfg 4 3)
      let late := bit (u.slotW k.val 11) 0
      exec (.slotFire k) s = .next (if bit (s.slotW k.val 0) 9 = true then x.wakeEvent 2 0 else x).done ∧
      (kind = 0 → u = s ∧ code = cOK) ∧
      ((kind = 1 ∨ kind = 2) → s.domain 2 ≠ 2 → u = s ∧ code = cOFF_DOMAIN) ∧
      (kind = 1 → s.domain 2 = 2 → u = (s.start ctx).2 ∧ code = (s.start ctx).1) ∧
      (kind = 2 → s.domain 2 = 2 → u = s.signal (fld (s.slotW k.val 5) 0 17) (s.slotW k.val 6).toNat ∧ code = cOK) ∧
      t = { u with regs := t.regs, time := { u.time with slots := t.time.slots } } ∧
      (∀ j w, j ≠ k.val → w < 16 → t.slotW j w = u.slotW j w) ∧
      t.slotW k.val 10 = u.stamp ∧ t.slotW k.val 11 = 0 ∧
      t.slotW k.val 7 = w32 ((if code = 0 then (if late then cLATE else 0) else code) + min 0xFFFFFF (fld (u.slotW k.val 7) 8 24 + 1) * 256) ∧
      (late = true → t.slotW k.val 8 = w32 (min 0xFFFFFFFF (now - u.slotTarget k.val)) ∧
        bit (t.reg (0x2240 + 4 * (k.val / 32))) (k.val % 32) = true) ∧
      (bit cfg 7 = false → t.slotW k.val 0 = setBit cfg 0 false) ∧
      (bit cfg 7 = true → 0 < (u.slotW k.val 4).toNat → u.slotTarget k.val ≤ now → now < 2 ^ 47 * 1000000000 →
        now < t.slotTarget k.val ∧ t.slotTarget k.val ≤ now + (u.slotW k.val 4).toNat ∧
        (u.slotW k.val 4).toNat ∣ t.slotTarget k.val - u.slotTarget k.val) ∧
      (∀ c, Cells.get none u.time.disarm k.val = some c → x.slotW k.val 0 = c) ∧
      (Cells.get none u.time.disarm k.val = none → x.slotW k.val 0 = t.slotW k.val 0) ∧ x.time.firing.contains k.val = false)

/-! Edge ports (rules R117–R147). -/

/-- A completed unit that its ring takes (rules R120–R124): a full ring drops it, or with OVERWRITE gives up its oldest record; else the record's
payload and header enter LPDDR6 at the slot of WCOUNT, and WCOUNT and SEQ rise. A ring that takes nothing leaves everything. Ring control (rules R120,
R123, R147): EN starts a ring whose span lies in memory with its counts at 0, clearing EN lets the unit in progress end, and RCOUNT moves only up to
WCOUNT. Model's choices in it: log 2. -/
def Obligations.Rings : Prop :=
  (∀ (s : State) (i : Nat) (u : RingUnit), i < 52 →
    let g := ringGroup i
    let full : Prop := (s.reg (g + 0x18) - s.reg (g + 0x1C)).toNat = s.ringSlots i
    (s.ringTakes i = false → s.ringUnit i u = s) ∧
    (s.ringTakes i = true → (s.ringBarred i = true ∨ (full ∧ bit (s.reg (g + 0x10)) 1 = false)) →
      let t := s.ringUnit i u
      t.dram = s.dram ∧ t.reg (g + 0x18) = s.reg (g + 0x18) ∧ t.reg (g + 0x1C) = s.reg (g + 0x1C) ∧ t.reg (g + 0x20) = s.reg (g + 0x20) + 1 ∧
      t.reg (g + 0x24) = satInc (s.reg (g + 0x24)) 1 ∧ bit (t.reg 0x5B014) 0 = true ∧
      (t.ringSt i).gap = true ∧ (t.ringSt i).drops = satInc (s.ringSt i).drops 1) ∧
    (s.ringTakes i = true → s.ringBarred i = false → ¬ full → s.dramBad = [] → bit (s.reg (g + 0x10)) 2 = false → 128 ≤ s.ringSlotBytes i →
      let t := s.ringUnit i u
      let a := s.ringBase i + (s.reg (g + 0x18)).toNat % s.ringSlots i * s.ringSlotBytes i
      let n := min u.payload.length (s.ringSlotBytes i - 64)
      t.reg (g + 0x18) = s.reg (g + 0x18) + 1 ∧ t.reg (g + 0x1C) = s.reg (g + 0x1C) ∧ t.reg (g + 0x20) = s.reg (g + 0x20) + 1 ∧
      t.reg (g + 0x2C) = u.start ∧ (t.ringSt i).gap = false ∧ (t.ringSt i).drops = 0 ∧
      (∀ b, (b < a ∨ a + 64 + n ≤ b) → t.dram.byte b = s.dram.byte b) ∧
      (∀ j, j < n → t.dram.byte (a + 64 + j) = u.payload.getD j 0) ∧
      leNat (t.dram.bytes (a + 4) 4) = (s.reg (g + 0x20)).toNat ∧ leNat (t.dram.bytes (a + 8) 4) = u.start.toNat ∧
      leNat (t.dram.bytes (a + 12) 4) = u.stop.toNat ∧ leNat (t.dram.bytes (a + 16) 4) = n % 2 ^ 32 ∧
      leNat (t.dram.bytes (a + 24) 4) = (s.ringSt i).drops.toNat) ∧
    (s.ringTakes i = true → s.ringBarred i = false → full → s.dramBad = [] → bit (s.reg (g + 0x10)) 1 = true →
      let t := s.ringUnit i u
      t.reg (g + 0x18) = s.reg (g + 0x18) + 1 ∧ t.reg (g + 0x1C) = s.reg (g + 0x1C) + 1 ∧ t.reg (g + 0x28) = satInc (s.reg (g + 0x28)) 1 ∧
      bit (t.reg 0x5B014) 1 = true)) ∧
  (∀ (s : State) (r : Requester) (i : Fin 52) (c : BitVec 3) (v : Word),
    let g := ringGroup i.val
    let old := s.reg (g + 0x10)
    (Reaches s r (g + 0x10) true → bit old 0 = false →
      (s.ringDis i.val = true ∨ s.memTop < s.ringBase i.val + s.ringSlots i.val * s.ringSlotBytes i.val →
        exec (.ringEnable r i c) s = .next (s.respond r cARG 0).done) ∧
      (s.ringDis i.val = false → s.ringBase i.val + s.ringSlots i.val * s.ringSlotBytes i.val ≤ s.memTop →
        let u := (((s.setReg (g + 0x18) 0).setReg (g + 0x1C) 0).setReg (g + 0x20) 0).setReg (g + 0x24) 0
        exec (.ringEnable r i c) s = .next (((u.setRing i.val { s.ringSt i.val with drops := 0, gap := false }).setReg (g + 0x10)
          ((ringCtrl true c &&& 7) ||| (old &&& 8))).respond r cOK 0).done)) ∧
    (Reaches s r (g + 0x10) true → bit old 0 = true →
      exec (.ringEnable r i c) s = .next ((s.setReg (g + 0x10) ((ringCtrl true c &&& 7) ||| (if bit old 3 = true then 8 else 0))).respond r cOK 0).done) ∧
    (Reaches s r (g + 0x10) true →
      exec (.ringDisable r i c) s = .next ((s.setReg (g + 0x10) ((ringCtrl false c &&& 7) |||
        (if (bit old 0 = true ∧ s.unitOpen i.val = true) ∨ bit old 3 = true then 8 else 0))).respond r cOK 0).done) ∧
    (Reaches s r (g + 0x1C) true →
      let rc := s.reg (g + 0x1C)
      ((s.reg (g + 0x18) - rc).toNat < (v - rc).toNat → exec (.rcountWrite r i v) s = .next (s.respond r cARG 0).done) ∧
      ((v - rc).toNat ≤ (s.reg (g + 0x18) - rc).toNat →
        exec (.rcountWrite r i v) s = .next ((s.setReg (g + 0x1C) v).respond r cOK 0).done)))

/-- A camera frame (rules R129–R131): a frame start closes what stands open and, on a routed channel, opens a unit with this moment's stamp; each
routed line joins it with its CRC noted, a broken header counts in its ERRS, an unroutable packet counts, the frame's end hands the unit to its ring,
lost synchronisation closes all four channels with LINK_LOST, and a resync counts a retry. Model's choices in it: log 8, 16 and 43. -/
def Obligations.CameraFrames : Prop :=
  ∀ (s : State) (r : Fin 6) (vc : Fin 4) (num : BitVec 16) (h : HdrEcc) (dt : BitVec 6) (data : List Byte) (crc : Bool), Runs s 31 →
    let i := 4 * r.val + vc.val
    let cfg := s.reg (csiBase r.val + 0x100)
    let typed (j : Nat) : Prop := csiType dt.toNat = some j ∧ bit (s.reg (csiBase r.val + 0x108)) (8 * vc.val + j) = true
    (let u := s.csiClose r.val vc.val 4
     let on := u.csiOn r.val = true ∧ bit (u.reg (csiBase r.val + 0x100)) (16 + vc.val) = true ∧ u.ringOn i = true
     (s.csiFrame r.val vc.val = none → u = s) ∧
     (on → exec (.frameStart r vc num) s = .next ((u.unitBegin i).setCsi r.val vc.val (some
        { start := u.stamp, num := num, lines := 0, longest := 0, dt := none, errs := 0, crcErr := false, bytes := [] })).done) ∧
     (¬ on → exec (.frameStart r vc num) s = .next u.done)) ∧
    (s.csiOn r.val = false → exec (.longPacket r h vc dt data crc) s = .next s.done) ∧
    (∀ f, s.csiOn r.val = true → s.csiFrame r.val vc.val = some f →
      exec (.longPacket r .bad vc dt data crc) s = .next (s.setCsi r.val vc.val (some { f with errs := satInc f.errs 1 })).done) ∧
    (s.csiOn r.val = true → h ≠ .bad → (∀ j, typed j → s.csiRouted r.val vc.val = false) →
      exec (.longPacket r h vc dt data crc) s = .next (s.bumpFld (csiBase r.val + 0x104) 16 16).done) ∧
    (∀ j f, typed j → s.csiRouted r.val vc.val = true → h ≠ .bad → s.csiFrame r.val vc.val = some f →
      let line := csiLine (bit cfg 15) dt.toNat data
      exec (.longPacket r h vc dt data crc) s = .next (s.setCsi r.val vc.val (some { f with
        lines := f.lines + 1, longest := max f.longest line.length, dt := if f.dt = none ∧ dt ≠ 0x12 then some dt else f.dt,
        errs := if crc = true then f.errs else satInc f.errs 1, crcErr := f.crcErr || !crc, bytes := f.bytes ++ line })).done) ∧
    (∀ f, s.csiFrame r.val vc.val = some f →
      exec (.frameEnd r vc) s = .next ((s.setCsi r.val vc.val none).ringUnit i
        { kind := 0, start := f.start, stop := s.stamp, payload := f.bytes, flags := if f.crcErr = true then 2 else 0, errs := f.errs,
          w8 := w32 (f.longest % 65536 + f.lines % 65536 * 65536),
          w9 := w32 ((f.dt.getD 0x12).toNat + vc.val * 64 + r.val * 256 + f.num.toNat * 65536), w10 := 0 }).done) ∧
    exec (.hsSyncLoss r) s = .next ((((s.csiClose r.val 0 8).csiClose r.val 1 8).csiClose r.val 2 8).csiClose r.val 3 8).done ∧
    (let u := s.bumpFld (csiBase r.val + 0x104) 0 16
     (s.gradeDis (.csi r.val) = true → exec (.resync r) s = .next s.done) ∧
     (s.gradeDis (.csi r.val) = false →
      exec (.resync r) s = .next ((((u.streamRetry (4 * r.val)).streamRetry (4 * r.val + 1)).streamRetry (4 * r.val + 2)).streamRetry
        (4 * r.val + 3)).done))

/-- Ethernet (rules R107, R132–R135): a bad FCS counts alone; a pause frame and an unclaimed frame count beside RX_FRAMES; a frame of the management
controller is kept, stamped if it is an event message; link loss and retry, and MDIO commands with their completion. Model's choices in it: log 16 and
52. -/
def Obligations.EthernetPorts : Prop :=
  ∀ (s : State) (p : Fin 2) (frame : List Byte) (dur : BitVec 32) (speed : BitVec 2) (data : BitVec 16), Runs s 31 →
    let b := ethBase p.val
    let rx := s.bumpWrap (b + 0x100) 1
    let keep (t : State) (sent : Bool) (x : Int) (whole : List Byte) : State := { t with edge := { t.edge with eth := t.edge.eth ++
      [{ port := p, sent := sent, stamp := if ethEvent frame = true then some x else none, frame := whole }] } }
    (bit (s.reg (b + 0x118)) 0 = true →
      exec (.ethFrameReceive p frame false dur) s = .next (s.bumpWrap (b + 0x104) 1).done ∧
      (be16 frame (ethTypeAt frame) = 0x8808 → exec (.ethFrameReceive p frame true dur) s = .next (rx.bumpWrap (b + 0x10C) 1).done) ∧
      (be16 frame (ethTypeAt frame) ≠ 0x8808 → ethManaged (s.reg (b + 0x114)).toNat frame = true →
        exec (.ethFrameReceive p frame true dur) s = .next (keep rx false
          ((s.now (s.ethTsel p.val) : Int) - dur.toNat - sext 16 (s.rf (0x12C0 + 4 * p.val) 16 16)) frame).done) ∧
      (be16 frame (ethTypeAt frame) ≠ 0x8808 → ethManaged (s.reg (b + 0x114)).toNat frame = false → (ipOf frame).bind udpOf = none →
        exec (.ethFrameReceive p frame true dur) s = .next (rx.bumpWrap (b + 0x108) 1).done) ∧
      (∀ u, be16 frame (ethTypeAt frame) ≠ 0x8808 → ethManaged (s.reg (b + 0x114)).toNat frame = false → (ipOf frame).bind udpOf = some u →
        ((∀ f, f < 16 → rx.filterMatches f p.val (ethVid frame) u = false) →
          exec (.ethFrameReceive p frame true dur) s = .next (rx.bumpWrap (b + 0x108) 1).done) ∧
        (∀ f, f < 16 → rx.filterMatches f p.val (ethVid frame) u = true → (∀ g, g < f → rx.filterMatches g p.val (ethVid frame) u = false) →
          exec (.ethFrameReceive p frame true dur) s = .next (rx.ethFlow f p.val dur.toNat frame u).done)) ∧
      (s.mgmtRuns = true →
        exec (.ethFrameTransmit p frame) s = .next (keep s true
          ((s.now (s.ethTsel p.val) : Int) + sext 16 (s.rf (0x12C0 + 4 * p.val) 0 16)) (s.withStation p.val frame)).done)) ∧
    exec (.linkDown p) s = .next ((s.setRf (b + 0x124) 0 1 0).intRaise (.eth p.val) 0).done ∧
    (let cfg := s.reg (b + 0x118)
     let rate := if bit cfg 3 = true then speed.toNat else fld cfg 1 2
     let u := (s.setReg (b + 0x124) (w32 (1 + rate * 2))).setReg (b + 0x110) (s.reg (b + 0x110) + 1)
     exec (.linkRetry p speed) s = .next (((List.range 16).filter fun f => bit (s.reg (filterGroup f)) (1 + p.val)).foldl
      (fun s f => s.streamRetry (24 + f)) u).done) ∧
    (∀ (r : Requester) (cmd : BitVec 13), Reaches s r (b + 0x128) true →
      let fits := bit (w32 cmd.toNat) 10 = true ∨ (fld (w32 cmd.toNat) 11 2 ≠ 0 ∧ fld (w32 cmd.toNat) 11 2 ≠ 3)
      (bit (s.reg (b + 0x128)) 14 = false → fits →
        exec (.mdioGo r p cmd) s = .next ((({ s with edge := { s.edge with
          mdioOp := Cells.put 0 s.edge.mdioOp p.val (fld (w32 cmd.toNat) 11 2) } } : State).setReg (b + 0x128)
          (w32 cmd.toNat ||| 0x4000)).respond r cOK 0).done) ∧
      (bit (s.reg (b + 0x128)) 14 = true ∨ ¬ fits → exec (.mdioGo r p cmd) s = .next (s.respond r cARG 0).done)) ∧
    (bit (s.reg (b + 0x128)) 14 = true →
      let u := s.setReg (b + 0x128) (setBit (s.reg (b + 0x128)) 14 false)
      exec (.mdioDone p data) s = .next ((if 2 ≤ Cells.get 0 s.edge.mdioOp p.val then u.setReg (b + 0x12C) (w32 data.toNat) else u).intRaise
        (.eth p.val) 1).done)

/-- Low-rate streams (rules R125, R126, R136, R137): a trigger starts a transfer or, during one, counts; its end makes a unit of LEN bytes; a UART
byte joins its message with its errors counted, the message begins with the byte's own stamp, and an idle gap, a delimiter or a length ends it.
Model's choices in it: log 16 and 52. -/
def Obligations.SerialStreams : Prop :=
  ∀ (s : State) (k : Fin 4) (u : Fin 2) (rising pe fe : Bool) (b : Byte) (data : List Byte) (dur : BitVec 32), Runs s 31 →
    let begins (trig : Nat) : State :=
      if (s.spiBusy k.val).isSome = true then (s.bump (0x58300 + 4 * k.val) 1).intRaise .serial 0
      else
        let n := (s.reg (spiBase k.val + 8)).toNat
        let t := (s.unitBegin (40 + k.val)).setSpi k.val (some { start := s.stamp, trig := trig, len := n, cs := s.rf (spiBase k.val) 4 2 })
        { t with edge := { t.edge with spiSent := t.edge.spiSent ++ [(k, s.template (0x58200 + 0x40 * k.val) 64 n)] } }
    (bit (s.reg (spiBase k.val)) 0 = true → fld (s.reg (spiBase k.val)) 6 2 = 1 → bit (s.reg (spiBase k.val)) 8 = rising →
      exec (.drdyEdge k rising) s = .next (begins 1).done) ∧
    (bit (s.reg (spiBase k.val)) 0 = true → fld (s.reg (spiBase k.val)) 6 2 = 2 → exec (.spiPeriod k) s = .next (begins 2).done) ∧
    (∀ x, s.spiBusy k.val = some x →
      exec (.spiTransferEnd k data) s = .next ((s.setSpi k.val none).ringUnit (40 + k.val)
        { kind := 2, start := x.start, stop := s.stamp, payload := data.take x.len, flags := 0, errs := 0,
          w8 := w32 (x.cs + x.trig * 4), w9 := 0, w10 := 0 }).done) ∧
    (bit (s.reg (uartBase u.val)) 0 = true →
      let c := s.reg (uartBase u.val)
      let x := s.reg (uartBase u.val + 8)
      let a := 0x58320 + 4 * u.val
      let s1 := if pe = true then s.bumpFld a 0 16 else s
      let s2 := if fe = true then s1.bumpFld a 16 16 else s1
      let s3 := if pe = true ∨ fe = true then s2.intRaise .serial 1 else s2
      let m := (s.uartMsg u.val).getD { start := i32 ((s.now 0 : Int) - dur.toNat), bytes := [], errs := 0 }
      let m' : UartMsg := { m with bytes := m.bytes ++ [b], errs := satInc m.errs (if pe = true ∨ fe = true then 1 else 0) }
      let t := (if (s.uartMsg u.val).isSome = true then s3 else s3.unitBegin (44 + u.val)).setUart u.val (some m')
      let delim := fld c 5 2 = 1 ∧ b.toNat = fld x 8 8
      let full := fld c 5 2 = 2 ∧ fld x 16 13 ≤ m'.bytes.length
      (delim → exec (.uartByte u b pe fe dur) s = .next (t.uartClose u.val 1).done) ∧
      (full → exec (.uartByte u b pe fe dur) s = .next (t.uartClose u.val 2).done) ∧
      (¬ delim → ¬ full → exec (.uartByte u b pe fe dur) s = .next t.done)) ∧
    (∀ m, fld (s.reg (uartBase u.val)) 5 2 = 0 → s.uartMsg u.val = some m →
      let gap := s.rf (uartBase u.val + 8) 0 8 * (s.reg (uartBase u.val + 4)).toNat * 100 / 128
      exec (.uartIdleGap u) s = .next ((s.setUart u.val none).ringUnit (44 + u.val)
        { kind := 3, start := m.start, stop := i32 ((s.now 0 : Int) - gap), payload := m.bytes, flags := if m.errs = 0 then 0 else 0x40,
          errs := m.errs, w8 := 0, w9 := 0, w10 := 0 }).done)

/-- CAN traffic (rule R138): a frame that no filter passes counts as filtered; one that a filter passes makes a unit; TX_REQ and TX_ABORT act for the
management controller and slots alone; a requested buffer that has stood first in arbitration and is sent sets its done bit and lowers TEC (ISO
11898-1's counting: the model's choice). CAN errors of an enabled controller (rule R138): a protocol error raises TEC and REC, which saturate, and
counts; bus-off is STATE 2 with its event and count, and with AUTO_REC the recovery returns to error active with both counters 0. Model's choices in
it: log 16, 42 and 52. -/
def Obligations.CanPorts : Prop :=
  (∀ (s : State) (c : Fin 4) (f : CanFrame) (b : Fin 16) (r : Requester) (bufs begun : BitVec 16),
    let base := canBase c.val
    let e := base + 0x10
    let heard := (s.setRf e 16 8 (if 127 < s.rf e 16 8 then 127 else s.rf e 16 8 - 1)).canPassive c.val
    let passes := ∃ i, i < 32 ∧ s.canFilter c.val i f.ide f.id.toNat = true
    (Runs s 31 → bit (s.reg base) 0 = true → (f.fdf = true → bit (s.reg base) 3 = true) → s.rf e 0 2 ≠ 2 →
      (¬ passes → exec (.canFrameReceive c f) s = .next (heard.bump (base + 0x18) 1).done) ∧
      (passes → exec (.canFrameReceive c f) s = .next ((heard.unitBegin (48 + c.val)).ringUnit (48 + c.val)
        { kind := 5, start := i32 ((s.now 0 : Int) - f.dur.toNat), stop := s.stamp, payload := f.data, flags := 0, errs := 0,
          w8 := w32 (f.id.toNat + f.ide.toNat * 2 ^ 29 + f.fdf.toNat * 2 ^ 30 + f.brs.toNat * 2 ^ 31),
          w9 := w32 (f.dlc.toNat + f.esi.toNat * 16), w10 := 0 }).done)) ∧
    (Reaches s r (0x59680 + 4 * c.val) true →
      (r = .mgmt ∨ r = .slot → exec (.txReq r c bufs) s =
        .next ((s.setReg (0x59680 + 4 * c.val) (s.reg (0x59680 + 4 * c.val) ||| w32 bufs.toNat)).canNotes.respond r cOK 0).done) ∧
      (¬ (r = .mgmt ∨ r = .slot) → exec (.txReq r c bufs) s = .next (s.canNotes.respond r cARG 0).done)) ∧
    (Reaches s r (0x59690 + 4 * c.val) true →
      (r = .mgmt ∨ r = .slot → exec (.txAbort r c bufs begun) s = .next (((s.setReg (0x59680 + 4 * c.val)
        (s.reg (0x59680 + 4 * c.val) &&& ~~~ (w32 bufs.toNat &&& ~~~ (w32 begun.toNat &&& Cells.get 0 s.edge.canWon c.val)))).canNote
          c.val).respond r cOK 0).done) ∧
      (¬ (r = .mgmt ∨ r = .slot) → exec (.txAbort r c bufs begun) s = .next (s.respond r cARG 0).done)) ∧
    (Runs s 31 → bit (s.reg (0x59680 + 4 * c.val)) b.val = true → bit (Cells.get 0 s.edge.canWon c.val) b.val = true →
      let u := s.setReg (0x59680 + 4 * c.val) (setBit (s.reg (0x59680 + 4 * c.val)) b.val false)
      let w := u.setReg (0x596A0 + 4 * c.val) (setBit (s.reg (0x596A0 + 4 * c.val)) b.val true)
      exec (.txDone c b) s = .next ((((w.setRf e 8 8 (s.rf e 8 8 - 1)).canPassive c.val).intRaise .can 2).canNote c.val).done)) ∧
  (∀ (s : State) (c : Fin 4) (tec rec_ : BitVec 9), Runs s 31 → Calm s →
    let a := canBase c.val + 0x10
    (bit (s.reg (canBase c.val)) 0 = true → ∃ t, exec (.canProtocolError c tec rec_) s = .next t ∧ SameBut (fun x => x = a ∨ x = a + 4) s t ∧
      t.rf a 8 8 = min 255 (s.rf a 8 8 + tec.toNat) ∧ t.rf a 16 8 = min 255 (s.rf a 16 8 + rec_.toNat) ∧
      t.rf (a + 4) 16 16 = min 65535 (s.rf (a + 4) 16 16 + 1) ∧
      (s.rf a 0 2 ≠ 2 → t.rf a 0 2 = if 127 < t.rf a 8 8 ∨ 127 < t.rf a 16 8 then 1 else 0)) ∧
    (bit (s.reg (canBase c.val)) 0 = true → s.rf a 0 2 ≠ 2 → ∃ t, exec (.busOff c) s = .next t ∧
      SameBut (fun x => x = a ∨ x = a + 4 ∨ x = 0x59014) ({ s with edge := t.edge } : State) t ∧
      t.edge = { s.edge with canWon := t.edge.canWon } ∧ t.rf a 0 2 = 2 ∧
      t.rf (a + 4) 0 16 = min 65535 (s.rf (a + 4) 0 16 + 1) ∧ bit (t.reg 0x59014) 0 = true) ∧
    (bit (s.reg (canBase c.val)) 2 = true → s.rf a 0 2 = 2 → exec (.busOffRecovery c) s = .next ((s.setReg a 0).canNote c.val).done) ∧
    (bit (s.reg (canBase c.val)) 2 = false → exec (.busOffRecovery c) s = .next s.done))

/-- Encoders (rules R139, R141): a level that does not hold for FILTER + 1 ticks is left out; one accepted edge in ×4 mode moves COUNT by one in its
direction and notes the time since the last edge; both inputs at once count as a fault; an index edge latches COUNT after the step of its own tick,
and clears it if IDX_CLR asks. Sigma-delta inputs (rules R140, R141): an enabled input keeps the filter's bits and writes the saturated output with
its stamp, and STUCK follows the line; a disabled input takes nothing. Model's choices in it: log 9 and 16. -/
def Obligations.FieldInputs : Prop :=
  (∀ (s : State) (e : Fin 8) (a b : Bool) (step : Option (Bool × Bool)) (held : BitVec 9), Runs s 31 →
    let base := encBase e.val
    let x := s.encSt e.val
    let cfg := s.reg base
    (held.toNat < fld cfg 3 8 + 1 → exec (.encoderEdge e a b held) s = .next s.done ∧ exec (.indexEdge e step held) s = .next s.done) ∧
    (fld cfg 3 8 + 1 ≤ held.toNat →
    (fld cfg 0 2 = 0 → exec (.encoderEdge e a b held) s = .next (s.setEnc e.val { x with a := a, b := b }).done) ∧
    (fld cfg 0 2 ≠ 0 → a ≠ x.a → b ≠ x.b →
      exec (.encoderEdge e a b held) s = .next ((s.setEnc e.val { x with a := a, b := b }).bumpFld (base + 16) 0 16).done) ∧
    exec (.encoderEdge e x.a x.b held) s = .next (s.setEnc e.val x).done ∧
    (let d := quadStep (fld cfg 0 2) (bit cfg 2) x.a x.b a b
     (a ≠ x.a ↔ b = x.b) → fld cfg 0 2 ≠ 0 →
      (fld cfg 0 2 = 3 → bit cfg 2 = false → d = if (quadPhase a b + 4 - quadPhase x.a x.b) % 4 = 1 then 1 else -1) ∧
      (d = 0 → exec (.encoderEdge e a b held) s = .next (s.setEnc e.val { x with a := a, b := b }).done) ∧
      (d ≠ 0 → Calm s → ∃ t, exec (.encoderEdge e a b held) s = .next t ∧ t.encSt e.val = { a := a, b := b, edgeAt := some s.time.ns } ∧
        t.reg (base + 4) = s.reg (base + 4) + i32 d ∧
        t.reg (base + 12) = (x.edgeAt.map fun n => w32 (min 0xFFFFFFFF (s.time.ns - n))).getD (s.reg (base + 12)) ∧
        ∀ y, y ≠ base + 4 → y ≠ base + 12 → y ∉ endRegs → t.reg y = s.reg y)) ∧
    (let u := (step.map fun p => s.encEdge e.val p.1 p.2).getD s
     (bit cfg 11 = false → exec (.indexEdge e step held) s = .next u.done) ∧
     (bit cfg 11 = true →
      let w := u.setReg (base + 8) (u.reg (base + 4))
      exec (.indexEdge e step held) s = .next (if bit cfg 12 = true then w.setReg (base + 4) 0 else w).done)))) ∧
  (∀ (s : State) (d : Fin 8) (bits : List Bool), Runs s 31 →
    let base := sdBase d.val
    let k := 4 + fld (s.reg base) 3 3
    let all := Cells.get [] s.edge.sdBits d.val ++ bits
    let keep := all.drop (all.length - (3 * 2 ^ k - 2))
    (bit (s.reg base) 0 = true →
      exec (.sdOutput d bits) s = .next (((({ s with edge := { s.edge with sdBits := Cells.put [] s.edge.sdBits d.val keep } } : State).setReg
        (base + 4) (i32 (satS 32 (sdY (2 ^ k) keep * ((2 ^ (31 - 3 * k) : Nat) : Int))))).setReg (base + 8) s.stamp)).done ∧
      exec (.stuck d) s = .next (s.setReg (base + 12) 1).done ∧ exec (.stuckClear d) s = .next (s.setReg (base + 12) 0).done) ∧
    (bit (s.reg base) 0 = false →
      exec (.sdOutput d bits) s = .next s.done ∧ exec (.stuck d) s = .next s.done ∧ exec (.stuckClear d) s = .next s.done))

/-- PWM outputs (rules R142, R143, R145): a period that ends restarts its counter with the DUTY written last, a DUTY write is refused while a loop
owns it, else waits for the next tick where UPDATE lets it act inside the active part and for the next period elsewhere, and PWM_SYNC marks the
outputs of its mask. ACT_EN (rules R144, R145): while its bit is 0, or in mode off, an output drives IDLE; the management controller alone writes it,
and it is 0 after reset. Model's choices in it: log 16. -/
def Obligations.Actuators : Prop :=
  (∀ (s : State) (r : Requester) (k : Fin 24) (duty mask : BitVec 24),
    let b := pwmBase k.val
    let x := s.pwm k.val
    (Runs s 31 → (x.sync = true ∨ x.ctr.toNat + 1 < (s.reg (b + 4)).toNat) → exec (.pwmPeriodEnd k) s = .next s.done) ∧
    (Runs s 31 → x.sync = false → (s.reg (b + 4)).toNat ≤ x.ctr.toNat + 1 →
      exec (.pwmPeriodEnd k) s = .next (s.setPwm k.val { x with ctr := 0, next := none, duty := BitVec.ofNat 24 (s.reg (b + 8)).toNat }).done) ∧
    (Reaches s r (b + 8) true →
      (bit (s.reg b) 5 = true → exec (.dutyWrite r k duty) s = .next (s.respond r cARG 0).done) ∧
      (bit (s.reg b) 5 = false →
        let u := s.setReg (b + 8) (w32 duty.toNat)
        exec (.dutyWrite r k duty) s = .next ((if fld (s.reg b) 0 2 = 1 ∧ bit (s.reg b) 4 = true ∧ x.ctr < x.duty
          then u.setPwm k.val { x with next := some duty } else u).respond r cOK 0).done)) ∧
    (Reaches s r 0x5A608 true →
      ∃ t, exec (.pwmSync r mask) s = .next t ∧ (∀ j, j < 24 → t.pwm j = { s.pwm j with sync := (s.pwm j).sync || mask.getLsbD j }) ∧
        (Calm s → SameBut (fun _ => False) ({ s.respond r cOK 0 with edge := t.edge } : State) t ∧
          t.edge = { s.edge with pwm := t.edge.pwm }))) ∧
  ((∀ (s : State) (k : Nat), k < 24 → (bit (s.reg 0x5A600) k = false ∨ s.rf (pwmBase k) 0 2 = 0) → s.pwmPad k = bit (s.reg (pwmBase k)) 2) ∧
  (∀ (s : State) (r : Requester) (v : Word), Reaches s r 0x5A600 true →
    (r ≠ .mgmt → exec (.registerWrite r (wordAccess 0x5A600) v) s = .next (s.respond r cARG 0).done) ∧
    (r = .mgmt → exec (.registerWrite r (wordAccess 0x5A600) v) s =
      let u := s.setReg 0x5A600 ((s.reg 0x5A600 &&& 0xFF000000) ||| (v &&& 0xFFFFFF))
      .next ((if s.boot.tap = 0 ∨ u.reg 0x5A600 = 0 then u else { u.bump 0x7610C 1 with boot := { u.boot with tap := 0 } }).respond r cOK 0).done)) ∧
  State.reset.reg 0x5A600 = 0)

/-! Memory, arithmetic and the engines (rules R59–R94, R151–R280). -/

/-- Bytes stored in a memory read back at their addresses, and every other address reads as before (the cisterns, lane memories and LPDDR6 are such
memories). A result tile stored in a cistern without words in error (rule R156): each row lies at its pitch, every other byte of every cistern and
lane memory stays, and so does all else but residency tags and lost-row marks. Model's choices in it: log 2. -/
def Obligations.MemoryWrites : Prop :=
  (∀ (m : Mem) (a b n : Nat) (bs : List Byte),
    (m.store a bs).byte b = (if a ≤ b ∧ b < a + bs.length then bs.getD (b - a) 0 else m.byte b) ∧
    m.bytes a n = (List.range n).map (fun i => m.byte (a + i)) ∧ (m.store a bs).bytes a bs.length = bs) ∧
  (∀ (s : State) (c u ofs pitch : Nat) (rows : List (List Byte)), s.sramBad = [] → (∀ bs ∈ rows, bs.length ≤ pitch) →
    let q := s.putRows c u ofs pitch rows
    q.1 = cOK ∧
    (∀ i j, i < rows.length → j < (rows.getD i []).length →
      q.2.sram.byte (2 ^ 24 * u + ofs + i * pitch + j) = (rows.getD i []).getD j 0) ∧
    (∀ a, (∀ i, i < rows.length → a < 2 ^ 24 * u + ofs + i * pitch ∨ 2 ^ 24 * u + ofs + i * pitch + (rows.getD i []).length ≤ a) →
      q.2.sram.byte a = s.sram.byte a) ∧
    q.2 = { s with sram := q.2.sram, rowLost := q.2.rowLost, head := { s.head with tags := q.2.head.tags } } ∧
    (∀ t ∈ q.2.head.tags, t ∈ s.head.tags) ∧ (∀ r ∈ q.2.rowLost, r ∈ s.rowLost))

/-- Rounding of a magnitude m × 2^e to a multiple n × 2^q of a coarser grid (rules R76, R77): to nearest with ties to even, toward zero, down, up, and
SR16's comparison of the first sixteen bits below with the drawn number. -/
def Obligations.RoundingOfMagnitudes : Prop :=
  ∀ (s : Bool) (m d r : Nat) (e : Int), 0 < d →
    let q := e + (d : Int)
    let u := 2 ^ d
    let n (k : Rnd) : Nat := roundMag k s m e false q
    (2 * (n .rne * u) ≤ 2 * m + u ∧ 2 * m ≤ 2 * (n .rne * u) + u ∧
      (2 * (n .rne * u) = 2 * m + u ∨ 2 * m = 2 * (n .rne * u) + u → n .rne % 2 = 0)) ∧
    (n .rtz * u ≤ m ∧ m < n .rtz * u + u) ∧
    (s = false → n .rdn = n .rtz ∧ m ≤ n .rup * u ∧ n .rup * u < m + u) ∧
    (s = true → n .rup = n .rtz ∧ m ≤ n .rdn * u ∧ n .rdn * u < m + u) ∧
    (n (.sr16 r) = if 65536 ≤ m % u * 65536 / u + r then n .rtz + 1 else n .rtz) ∧
    (m % u = 0 → r < 65536 → n .rne = m / u ∧ n .rtz = m / u ∧ n .rdn = m / u ∧ n .rup = m / u ∧ n (.sr16 r) = m / u)

/-- Tile commands, each of MATMUL, CONV2D, ATTN_SCORE, SUM_REDUCE, CARRY_COMBINE, CARRY_FINAL, ADD, SUB, MUL, DIV, FMA, MIN, MAX, CMP, SQRT, EXP, LOG,
RECIP, RSQRT, TANH, SIGMOID, SHIFT, REDUCE_MAX, REDUCE_MIN, SOFTMAX, CONVERT, COPY, GATHER_ROWS, TIME_READ, RING_LATEST (rules R154–R156, R183–R199,
R328): the array or vector unit of a logical basin that runs nothing takes its chosen head if it has the command's opcode, and runs it from now on for
the command's duration; where that is 0 and no fenced basin holds it, it ends at once. An engine without such a head leaves everything. At its end,
once its checks pass and no residue check fails, the run's code is OK, its rows are stored at the destination and its counts are those of its
elements, and the end writes its record. Model's choices in it: log 28, 30 and 31. -/
def Obligations.TileCommands : Prop :=
  (∀ (op : Nat) (mk : Fin 16 → RunEnv → Instr), (op, mk) ∈ tileRows → ∀ (s : State) (b : Fin 16) (env : RunEnv), Runs s 2 →
    let e := if (opClass op).getD .tile = .tile then b.val else 0x10 + b.val
    (s.pickHead e = none → exec (mk b env) s = .next s.done) ∧
    ∀ h, s.pickHead e = some h →
      (fld (dw h.desc 0) 0 8 ≠ op → exec (mk b env) s = .next s.done) ∧
      (fld (dw h.desc 0) 0 8 = op →
        let t := s.engineStart e h (laneEnv env) []
        ∃ q, t.running e = some q ∧ q.head = h ∧ q.phys = (s.unitOf false b.val).2 ∧ q.start = s.now 7 ∧ q.dur = env.dur.toNat ∧
          q.residue = env.residue ∧ q.tc0 = s.tc 0 ∧ q.stamp = s.stamp ∧ (op = 0x39 → q.ring = s.newestSlot (dw h.desc 11).toNat) ∧
          exec (mk b env) s = .next (if env.dur = 0 ∧ t.waitsFence e q = false then t.finish e else t).done)) ∧
  (∀ (s : State) (e : Nat) (q : Running), e < 0x20 → s.running e = some q →
    let k : EngClass := if e < 0x10 then .tile else .vector
    let d := q.head.desc
    let op := fld (dw d 0) 0 8
    let s1 := s.setRunning e none
    let x := s1.ctx q.head.c
    let pl := placeFn x
    let u := (s1.unitOf false (e % 16)).2
    let w := runOp op x q.head.c u (e % 16) pl d q { code := cOK, rd := 0, flits := 0, s := s1 }
    let dest := w.f.s.refReach pl (tRef d 3) (spanOf w.rows.length (tPitch d 3) (w.rows.headD []).length)
    ∃ r, s.finish e = State.endRun e k (unitPage q.phys) q r ∧
      (fld (dw d 1) 24 4 = (((x.lists[q.head.list]?).map (·.code)).getD 0) % 16 → s1.waitsFree k d = false →
        tileCheck k (gateInRange x) pl s1.logicalBasins d = cOK → (s1.unitOf false (e % 16)).1 = cOK → s1.tileLinked pl u op d = true →
        w.refused = false → w.code = cOK → dest.1 = cOK → w.f.s.sramBad = [] → q.residue = false →
        r.code = cOK ∧ r.tear = none ∧ r.s = (w.f.s.putRows q.head.c dest.2 (tRef d 3 % 2 ^ 24) (tPitch d 3) w.rows).2 ∧
        r.w4 = w.elts.countP (fun x => x.mark == .sat) ∧ r.w5 = w.elts.countP (fun x => x.mark == .flush) ∧
        r.w6 = w.elts.countP (fun x => x.mark == .invalid) ∧ r.bytes = (w.rows.map List.length).sum))

/-- Map commands (rules R183, R221–R231): the grid map unit that runs nothing takes a chosen head of the command's opcode and runs it from now on for
the command's duration; where that is 0 and no fenced basin holds it, it ends at once. At its end its checks decide: a lost unit or an unreachable
basin ends it OFF_DOMAIN, EN at 0 with ARG, and else it does the work of its opcode; the end writes its record. Model's choices in it: log 28 and 30.
-/
def Obligations.MapCommands : Prop :=
  (∀ (op : Nat) (mk : RunEnv → List Bool → Instr),
    (op, mk) ∈ [(0x60, fun e _ => Instr.mapInsert e), (0x61, fun e _ => .mapQuery e), (0x62, fun e _ => .mapRayclear e),
      (0x63, fun e _ => .mapAgeout e), (0x64, fun e l => .mapAccumArrival e l)] →
    ∀ (s : State) (env : RunEnv) (l : List Bool), Runs s 2 →
      let order := if op = 0x64 then l else []
      (s.pickHead 0x48 = none → exec (mk env l) s = .next s.done) ∧
      ∀ h, s.pickHead 0x48 = some h →
        (fld (dw h.desc 0) 0 8 ≠ op → exec (mk env l) s = .next s.done) ∧
        (fld (dw h.desc 0) 0 8 = op →
          let t := s.engineStart 0x48 h (laneEnv env) order
          ∃ q, t.running 0x48 = some q ∧ q.head = h ∧ q.start = s.now 7 ∧ q.dur = env.dur.toNat ∧ q.order = order ∧
            exec (mk env l) s = .next (if env.dur = 0 ∧ t.waitsFence 0x48 q = false then t.finish 0x48 else t).done)) ∧
  (∀ (s : State) (q : Running), s.running 0x48 = some q →
    let d := q.head.desc
    let s1 := s.setRunning 0x48 none
    let pl := placeFn (s1.ctx q.head.c)
    let ends (r : Run) : Prop := s.finish 0x48 = State.endRun 0x48 .map .gmap q r
    (s1.head.mapLost = true → ends (runRefuse cOFF_DOMAIN s1)) ∧
    (s1.head.mapLost = false → s1.waitsFree .map d = false → mapCheck (gateInRange (s1.ctx q.head.c)) pl s1.logicalBasins d = cOK →
      (bit (s1.reg 0x64108) 0 = false → ends (runRefuse cARG s1)) ∧
      (bit (s1.reg 0x64108) 0 = true → s1.mapLinked pl d = false → ends (runRefuse cOFF_DOMAIN s1)) ∧
      (bit (s1.reg 0x64108) 0 = true → s1.mapLinked pl d = true →
        let r := mapWork (fld (dw d 0) 0 8) q.order q.head.c pl d { code := cOK, rd := 0, flits := 0, s := s1 }
        ends (if r.code = cECC_FAIL then { r with s := r.s.intRaise .gmap 3 } else r))))

/-- Pumps (rules R160, R200–R202): a pump that runs nothing takes a chosen head of the command's KIND and runs it from now on for the command's
duration; where that is 0 and no fenced basin holds it, it ends at once. At its end, a descriptor that passes its checks and is not a resident load
has moved its rows one by one and, if that succeeds, enters the load's tag; the end writes its record. Model's choices in it: log 14, 28 and 47. -/
def Obligations.PumpCommands : Prop :=
  (∀ (kind : Nat) (mk : Fin 32 → RunEnv → Instr), (kind, mk) ∈ [(1, Instr.pumpCopy), (2, .copy2d), (3, .zero)] →
    ∀ (s : State) (p : Fin 32) (env : RunEnv), Runs s 2 →
      let e := 0x20 + p.val
      (s.pickHead e = none → exec (mk p env) s = .next s.done) ∧
      ∀ h, s.pickHead e = some h →
        (fld (dw h.desc 0) 0 4 ≠ kind → exec (mk p env) s = .next s.done) ∧
        (fld (dw h.desc 0) 0 4 = kind →
          let t := s.engineStart e h (laneEnv env) []
          ∃ q, t.running e = some q ∧ q.head = h ∧ q.phys = p.val ∧ q.start = s.now 7 ∧ q.dur = env.dur.toNat ∧
            exec (mk p env) s = .next (if env.dur = 0 ∧ t.waitsFence e q = false then t.finish e else t).done)) ∧
  (∀ (s : State) (p : Fin 32) (q : Running), s.running (0x20 + p.val) = some q →
    let s1 := s.setRunning (0x20 + p.val) none
    let h := q.head
    let x := s1.ctx h.c
    let d := h.desc
    ∃ r, s.finish (0x20 + p.val) = State.endRun (0x20 + p.val) .pump .pumps q r ∧
      ∀ dst reach, s1.head.pumpsLost = [] → pumpArg x d = false → s1.waitsFree .pump d = false →
        Cells.get none x.bound (pDstWin d + h.member * x.wpm) = some dst → pExtent d (pDstOfs d) (pDstPitch d) ≤ dst.size →
        s1.windowReach dst (pDstOfs d) (pExtent d 0 (pDstPitch d)) = (cOK, reach) →
        (∀ l, loadOf x d h.member = some l → s1.resident h.c x.placement l = false) →
        let moved (src : Option (Window × Nat)) : Prop :=
          let m := Move.rows { code := cOK, rd := 0, wr := 0, flits := 0, s := s1 } h.c d src (dst, reach) 0 (pRows d)
          s1.linked (src.elim (pumpNode p.val) fun a => windowNode p.val a.1 a.2) (windowNode p.val dst reach) = true →
          (m.code = cOK → r.code = cOK ∧ r.tear = none ∧ r.bytes = pRows d * pLen d ∧
            r.s = m.s.setTag ((loadOf x d h.member).bind fun l => s1.loadTag h.c x.placement l)) ∧
          (m.code ≠ cOK → r.code = m.code ∧ r.tear = some m.code)
        (pKind d = 3 → moved none) ∧
        (∀ a from_, pKind d ≠ 3 → Cells.get none x.bound (pSrcWin d + h.member * x.wpm) = some a →
          (sameMemory a dst = false ∨ rowsMeet (a.base + pSrcOfs d) (pSrcPitch d) (dst.base + pDstOfs d) (pDstPitch d) (pLen d)
            (pRows d) 0 (pRows d) = false) →
          pExtent d (pSrcOfs d) (pSrcPitch d) ≤ a.size → s1.windowReach a (pSrcOfs d) (pExtent d 0 (pSrcPitch d)) = (cOK, from_) →
          moved (some (a, from_))))

/-- Solver lanes (rules R183, R232–R280): a logical lane that runs nothing takes a chosen head of the command's KIND and runs it from now on for the
command's duration; where that is 0, it ends at once. At its end, once the descriptor's checks pass, the run is the one of its kind, of which
PLAN_RESET empties its work block where no residue check fails; the end writes its record. Model's choices in it: log 10, 11, 28, 37 and 38. -/
def Obligations.LaneCommands : Prop :=
  (∀ (kind : Nat) (mk : Fin 8 → LaneEnv → Instr),
    (kind, mk) ∈ [(1, Instr.estInit), (2, .srifStep), (3, .mheStep), (4, .qpSolve), (5, .planReset)] →
    ∀ (s : State) (l : Fin 8) (env : LaneEnv), Runs s 2 →
      let e := 0x40 + l.val
      (s.pickHead e = none → exec (mk l env) s = .next s.done) ∧
      ∀ h, s.pickHead e = some h →
        (fld (dw h.desc 0) 0 4 ≠ kind → exec (mk l env) s = .next s.done) ∧
        (fld (dw h.desc 0) 0 4 = kind →
          let t := s.engineStart e h env []
          ∃ q, t.running e = some q ∧ q.head = h ∧ q.phys = (s.unitOf true l.val).2 - 18 ∧ q.start = s.now 7 ∧ q.dur = env.dur.toNat ∧
            q.residue = env.residue ∧ q.tc7 = env.tc7 ∧ exec (mk l env) s = .next (if env.dur = 0 then t.finish e else t).done)) ∧
  (∀ (s : State) (l : Fin 8) (q : Running), s.running (0x40 + l.val) = some q →
    let s1 := s.setRunning (0x40 + l.val) none
    let d := q.head.desc
    let x := s1.ctx q.head.c
    let u := (s1.unitOf true l.val).2
    let ends (r : Run) : Prop := s.finish (0x40 + l.val) = State.endRun (0x40 + l.val) .solver (unitPage (18 + q.phys)) q r
    fld (dw d 1) 24 3 = l.val → s1.waitsFree .solver d = false → (s1.unitOf true l.val).1 = cOK →
    (let hu := if eHandEn d = true then s1.unitOf true (eHandLane d) else (cOK, 0)
     eKind d < 4 → estCheck (gateInRange x) s1.logicalLanes d = cOK → hu.1 = cOK →
      (eHandEn d = true → s1.linked (unitNode u) (unitNode hu.2) = true) →
      ends (if eKind d = 1 then s1.estInit q.head u hu.2 2 q.residue else s1.estStep q u hu.2 2)) ∧
    (eKind d = 4 → laneCheck (gateInRange x) s1.logicalLanes d = cOK → ends (s1.qpSolve q u 2)) ∧
    (eKind d = 5 → laneCheck (gateInRange x) s1.logicalLanes d = cOK → q.residue = false → x.tearing = none →
      ends { runEnd cOK (s1.putBlock u (qWork d) q.head.c (List.replicate 256 0)) with bytes := 256 }))

/-! Units, the canal, LPDDR6 and the grid map in service (rules R156–R177, R205–R231, R285, R448–R458, R482). -/

/-- Basins and lanes in service (rules R156–R159, R175–R177, R458): a scrub pass that is on counts, corrects and counts a single-bit word, and then
the upsets of the pass strike; a finished row copy maps the spare; a command past four times its worst-case wave count tears its context down and
retires its unit; and the reserve in front that passes its test takes over its logical unit with SPARE_IN, while one that fails is FAILED and the next
is sought. Model's choices in it: log 16, 22, 23, 61 and 64. -/
def Obligations.UnitService : Prop :=
  ∀ (s : State) (id : UnitId) (upsets : List (Nat × Nat)) (vector pass : Bool) (waves : Word) (source : Byte), Up s →
    let u := unitOfId id
    let base := (unitPage u).base
    let cnt := base + (if u < 18 then 0x10C else 0x12C)
    let struck (m : Cells Nat) : Cells Nat := upsets.foldl (fun m x => if x.2 = 0 ∨ unitSize u ≤ 8 * x.1 then m
      else Cells.put 0 m (2 ^ 21 * u + x.1) (min 2 (Cells.get 0 m (2 ^ 21 * u + x.1) + x.2))) m
    let on := bit (s.reg (base + 0xC)) 0 = true ∧ s.domain (unitPage u).domain = 2
    (¬ on → exec (.scrub id upsets) s = .next ({ s with sramBad := struck s.sramBad } : State).done) ∧
    (on → s.sramBad = [] →
      exec (.scrub id upsets) s = .next ({ s.bumpWrap cnt 1 with sramBad := struck [] } : State).done) ∧
    (∀ k, on → s.sramBad = [(k, 1)] → 2 ^ 21 * u ≤ k → k < 2 ^ 21 * u + unitSize u / 8 → Calm s →
      ∃ t, exec (.scrub id []) s = .next t ∧ t.sramBad = [] ∧ t.sram = s.sram ∧ t.reg cnt = s.reg cnt + 1 ∧
        t.reg (corrReg u) = satInc (s.reg (corrReg u)) 1 ∧ bit (t.reg (base + 0x14)) (if u < 18 then 0 else 4) = true ∧
        Cells.get 0 t.rowErr (rowKey u (k % 2 ^ 21 / 8)) = Cells.get 0 s.rowErr (rowKey u (k % 2 ^ 21 / 8)) + 1) ∧
    (∀ r e, s.runs (unitDomain u) = true → s.copying = [(u, r)] → s.freeSpare u r = some e →
      exec (.rowCopyDone id) s = .next (({ s with
        copying := [], rowErr := Cells.clear s.rowErr (rowKey u r) 1,
        sramBad := s.sramBad.filter fun w => !(rowByte u r / 8 ≤ w.1 && w.1 < rowByte u r / 8 + 8 && w.2 == 1) } : State).putSpare
          u r e false).done) ∧
    (s.runs 2 = true → fld (s.rm (unitWord u)) 0 2 = 1 →
      let l := s.logicalOf u
      let e := if u < 18 then (if vector = true then 0x10 + l else l) else 0x40 + l
      let k : EngClass := if u < 18 then (if vector = true then .vector else .tile) else .solver
      (s.running e = none → exec (.commandWatchdog vector id waves) s = .next s.done) ∧
      (∀ q, s.running e = some q → waves.toNat ≤ 4 * ((k.waves q.head.desc).1 + (k.waves q.head.desc).2) →
        exec (.commandWatchdog vector id waves) s = .next s.done) ∧
      (∀ q, s.running e = some q → 4 * ((k.waves q.head.desc).1 + (k.waves q.head.desc).2) < waves.toNat →
        let t := (s.tearDown q.head.c cTEARDOWN (k.lcn q.head.desc)).checkFail u 4 q.head.c
        exec (.commandWatchdog vector id waves) s = .next t.done ∧
        fld (t.rm (unitWord u)) 0 2 = 3 ∧ fld (t.rm (unitWord u)) 16 8 = cTEARDOWN ∧ t.domain (unitDomain u) = 3 ∧
        t.running e = some { q with cut := true })) ∧
    (∀ x rest, s.head.subst = x :: rest → s.domain (unitDomain (unitNo x.lane x.reserve)) = 2 →
      let v := unitNo x.lane x.reserve
      let t : State := { s with head := { s.head with subst := rest } }
      (pass = true →
        exec (.reserveTestDone pass source) s = .next ((({ t.setRm (unitWord v) (w32 (1 + x.logical * 256)) with
          sram := Cells.clear s.sram (2 ^ 24 * v) (2 ^ 24), sramBad := Cells.clear s.sramBad (2 ^ 21 * v) (2 ^ 21),
          rowErr := Cells.clear s.rowErr (2 ^ 18 * v) (2 ^ 18), rowLost := s.rowLost.filter fun k => k / 2 ^ 18 ≠ v } : State).unfence
            x.lane x.logical).pageEvent (unitPage v) 1 cSPARE_IN 0xFF (x.reserve + x.logical * 256 + x.retired * 65536)).done) ∧
      (pass = false →
        exec (.reserveTestDone pass source) s = .next (((t.setRm (unitWord v) (w32 (3 + 0xF00 + source.toNat * 2 ^ 24))).setDomain
          (unitDomain v) 3).substitute x.lane x.logical x.retired).done))

/-- The retirement of a mapped basin or lane that no context uses (rules R175, R176, R448, R482): its repair-map word says FAILED with cause and
source, its domain is QUIESCENT, its logical number is fenced, the commands of its engines are cut, and the lowest reserve is taken for it; a unit
that is FAILED or disabled already is left alone. Model's choices in it: log 22. -/
def Obligations.UnitRetirement : Prop :=
  ∀ (s : State) (u cause source : Nat), u < 27 → cause < 256 → source < 256 →
    let w := s.rm (unitWord u)
    let lane := decide (18 ≤ u)
    (fld w 0 2 = 0 ∨ fld w 0 2 = 3 → s.retireUnit u cause source = s) ∧
    (fld w 0 2 = 1 → s.live = [] →
      let t := s.retireUnit u cause source
      fld (t.rm (unitWord u)) 0 2 = 3 ∧ fld (t.rm (unitWord u)) 16 8 = cause ∧ fld (t.rm (unitWord u)) 24 8 = source ∧
      t.domain (unitDomain u) = 3 ∧ (∀ c ∈ t.copying, c.1 ≠ u) ∧ t.sram = s.sram ∧ t.dram = s.dram ∧ t.head.ctxs = s.head.ctxs ∧
      (∀ e q, unitEngine lane (fld w 8 4) e = true → s.running e = some q → t.running e = some { q with cut := true }) ∧
      (∀ p, s.nextReserve lane = some p →
        fenceKey lane (fld w 8 4) ∈ t.head.fenced ∧
        t.head.subst = s.head.subst ++ [{ lane := lane, logical := fld w 8 4, retired := if lane then u - 18 else u, reserve := p }]))

/-- Failures of the canal, of a plan link and of a pump (rules R168–R170, R285, R451, R456, R457): a canal port that fails is noted once in the repair
map with its event, and its unit is retired, its pumps or the map unit are lost; a canal link is noted once with its event; a plan link retires its
lane; and a pump whose descriptor is past four times its worst-case term has its context torn down and is lost. Model's choices in it: log 14, 16, 31
and 64. -/
def Obligations.LinkFailures : Prop :=
  ∀ (s : State) (n : Fin 30) (l : Fin 9) (p : Fin 32) (time : Nat) (d : RingDir), Up s →
    let w := s.rm (nodeWord n.val)
    let page := nodePage n.val
    (bit w 0 = true → exec (.canalPortFail n) s = .next s.done) ∧
    (bit w 0 = false →
      let t := (((s.setRm (nodeWord n.val) (setBit w 0 true)).errCapture page cDEGRADED 5 0xFF 0).lastCode page cDEGRADED).pageEvent page 1
        cDEGRADED 0xFF 0
      (∀ u, nodeUnit n.val = some u → exec (.canalPortFail n) s = .next (t.retireUnit u cDEGRADED 5).done) ∧
      (n.val = 10 → exec (.canalPortFail n) s = .next t.loseMap.done) ∧
      (n.val = 0 ∨ n.val = 11 → exec (.canalPortFail n) s =
        .next (((List.range 32).filter fun p => pumpNode p == n.val).foldl State.losePump t).done)) ∧
    (let i := if d = .cw then 1 else 2
     (bit w i = true → exec (.canalLinkFail n d) s = .next s.done) ∧
     (bit w i = false → exec (.canalLinkFail n d) s =
        .next ((s.setRm (nodeWord n.val) (setBit w i true)).pageEvent page 1 cDEGRADED 0xFF 0).done)) ∧
    (let u := 18 + l.val
     (fld (s.rm (unitWord u)) 0 2 ≠ 1 → exec (.planLinkFail l) s = .next s.done) ∧
     (fld (s.rm (unitWord u)) 0 2 = 1 → exec (.planLinkFail l) s =
        .next ((s.errCapture (unitPage u) cDEGRADED 6 0xFF 0).retireUnit u cDEGRADED 6).done)) ∧
    (s.runs 2 = true →
      (s.running (0x20 + p.val) = none → exec (.pumpWatchdog p time) s = .next s.done) ∧
      (∀ q, s.running (0x20 + p.val) = some q →
        let worst := (s.ctx q.head.c).compiled.pumpTerm q.head.desc
        (1000 * time ≤ 4 * worst → exec (.pumpWatchdog p time) s = .next s.done) ∧
        (4 * worst < 1000 * time → exec (.pumpWatchdog p time) s =
          .next ((s.tearDown q.head.c cTEARDOWN (EngClass.pump.lcn q.head.desc)).losePump p.val).done)))

/-- LPDDR6 in service (rules R207, R211–R215): a patrol pass counts and corrects a line with one wrong byte, a refresh changes nothing, the
temperature status is held, and a channel that does not respond is folded out, once. A clear of the grid map (rules R206, R231): with EN at 1 it is
refused, and so is one of a region that passes MEM_TOP; else the map region reads 0, OCCUPIED and TOMBS are 0 and BUSY holds until the clear is done,
which raises its event. Model's choices in it: log 16, 23 and 46. -/
def Obligations.MemoryInService : Prop :=
  (∀ (s : State) (m : Fin 4) (c : Fin 2) (r0 r1 : BitVec 2), Up s →
    let base := mcCfg m.val
    exec (.refresh m) s = .next s.done ∧
    (bit (s.reg (base + 0x1C)) 0 = false ∨ s.runs (32 + m.val) = false → exec (.patrolScrub m []) s = .next s.done) ∧
    (bit (s.reg (base + 0x1C)) 0 = true → s.runs (32 + m.val) = true →
      (s.dramBad = [] → exec (.patrolScrub m []) s = .next (s.setReg (base + 0x24) (s.reg (base + 0x24) + 1)).done) ∧
      (∀ line, s.dramBad = [(line, 1)] → 64 * line < s.memTop → s.lineChan line / 2 = m.val → Calm s →
        ∃ t, exec (.patrolScrub m []) s = .next t ∧ t.dramBad = [] ∧ t.dram = s.dram ∧ t.reg (base + 0x24) = s.reg (base + 0x24) + 1 ∧
          t.reg (base + 8 + 4 * (s.lineChan line % 2)) = satInc (s.reg (base + 8 + 4 * (s.lineChan line % 2))) 1 ∧
          bit (t.reg ((Page.mc m.val).base + 0x14)) 0 = true)) ∧
    (s.runs (32 + m.val) = true → r0 ≠ 3 → r1 ≠ 3 →
      exec (.dramTempRead m r0 r1) s = .next (s.setReg (base + 0x20) (w32 (r0.toNat + r1.toNat * 4))).done) ∧
    (s.runs (32 + m.val) = true →
      (s.chanRetired (2 * m.val + c.val) = true → exec (.channelTimeout m c) s = .next s.done) ∧
      (s.chanRetired (2 * m.val + c.val) = false → exec (.channelTimeout m c) s =
        .next (((s.errCapture (.mc m.val) cDEGRADED 3 0xFF 0).lastCode (.mc m.val) cDEGRADED).foldChannel (2 * m.val + c.val)).done))) ∧
  (∀ (s : State) (r : Requester) (evict : Bool),
    (Reaches s r 0x64108 true → bit (s.reg 0x64108) 0 = true → exec (.mapClear r evict) s = .next (s.respond r cARG 0).done) ∧
    (Reaches s r 0x64108 true → bit (s.reg 0x64108) 0 = false → s.memTop < s.mapBase + 2 ^ 27 →
      exec (.mapClear r evict) s = .next (s.respond r cBOUNDS 0).done) ∧
    (Reaches s r 0x64108 true → bit (s.reg 0x64108) 0 = false → s.mapBase + 2 ^ 27 ≤ s.memTop → Calm s →
      ∃ t, exec (.mapClear r evict) s = .next t ∧ t.resp = (s.respond r cOK 0).resp ∧ t.reg 0x64110 = 0 ∧ t.reg 0x64114 = 0 ∧
        bit (t.reg 0x64108) 3 = true ∧ bit (t.reg 0x64108) 1 = evict ∧ bit (t.reg 0x64108) 0 = false ∧
        (∀ a, t.dram.byte a = if s.mapBase ≤ a ∧ a < s.mapBase + 2 ^ 27 then 0 else s.dram.byte a) ∧
        (∀ a, a ≠ 0x64108 → a ≠ 0x64110 → a ≠ 0x64114 → a ∉ endRegs → t.reg a = s.reg a)) ∧
    (Runs s 2 → bit (s.reg 0x64108) 3 = true →
      exec .clearDone s = .next ((s.setRf 0x64108 3 1 0).intRaise .gmap 2).done) ∧
    (Runs s 2 → bit (s.reg 0x64108) 3 = false → exec .clearDone s = .next s.done))

/-! Loop channels (rules R287–R320). -/

/-- A sample of a channel (rules R288–R291, R297, R298, R303, R309): when the three active replicas agree before the deadline, the result is
committed; a replica that differs in a word or is late is retired after the commit; with none of three late and no two alike the channel is LOST; with
two late, or after the deadline, the sample is missed. The commit sets U_OUT, the error and the count of samples, and ends the sample. A deadline that
passes misses the sample. A plan that arrives is taken at once in OFF, refused in STOP and by a channel that is LOST, and waits for its boundary in
the other states. Model's choices in it: log 16 and 36. -/
def Obligations.LoopSamples : Prop :=
  ∀ (s : State) (c : Fin 32) (x y z : Flips) (p : Plan), Runs s 30 →
    let b := loopBase c.val
    let o := s.loop c.val
    (o.busy = none → ∀ a b d : Replica, exec (.loopSample c a b d) s = .next s.done) ∧
    (∀ q, o.busy = some q →
      let v := s.setLoop c.val { o with busy := none }
      let h := s.happened c.val
      (s.pastDeadline c.val = true → ∀ a b d : Replica, exec (.loopSample c a b d) s = .next (v.loopMiss c.val 0 h).done) ∧
      (s.pastDeadline c.val = false → s.replicas c.val = 7 →
        let l := s.sampleLaw c.val q
        let bad (f : Flips) : Prop := (l.flip f).words ≠ l.words
        let ok := v.loopCommit c.val l { h with retire := false }
        exec (.loopSample c .ok .ok .ok) s = .next ok.done ∧
        (bad x →
          exec (.loopSample c (.wrong x) .ok .ok) s = .next ((v.loopCommit c.val l { h with retire := true }).loopRetire c.val 0).done ∧
          exec (.loopSample c .ok .late .ok) s = .next ((v.loopCommit c.val l { h with retire := true }).loopRetire c.val 1).done ∧
          exec (.loopSample c .late .late (.wrong x)) s = .next (v.loopMiss c.val 0 h).done) ∧
        ((l.flip x).words ≠ (l.flip y).words → (l.flip y).words ≠ (l.flip z).words → (l.flip x).words ≠ (l.flip z).words →
          exec (.loopSample c (.wrong x) (.wrong y) (.wrong z)) s =
            .next ((v.loopLose c.val).traceStep c.val { h with retire := true } false).done) ∧
        ok.reg (b + 0x180) = i32 l.u ∧ ok.reg (b + 0x188) = i32 l.e ∧ ok.reg (b + 0x198) = s.reg (b + 0x198) + 1 ∧
        (ok.loop c.val).busy = none)) ∧
    (∀ q t, o.busy = some q → o.trigAt = some t →
      (t + 2 * s.lfld c.val 0x150 0 12 ≤ s.time.ns → exec (.sampleDeadline c) s =
        .next ((s.setLoop c.val { o with busy := none }).loopMiss c.val 0 (s.happened c.val)).done) ∧
      (s.time.ns < t + 2 * s.lfld c.val 0x150 0 12 → exec (.sampleDeadline c) s = .next s.done)) ∧
    (s.loopLost c.val = true → exec (.planReceive c p) s = .next s.done) ∧
    (s.loopLost c.val = false → s.lmode c.val ≠ 0 → s.loopState c.val ≠ 5 →
      exec (.planReceive c p) s = .next (s.setLoop c.val { o with waiting := o.waiting ++ [.plan p] }).done) ∧
    (s.loopLost c.val = false → s.lmode c.val ≠ 0 → s.loopState c.val = 5 →
      exec (.planReceive c p) s = .next ((s.bump (b + 0x1AC) 1).intRaise (.loop c.val) 7).done) ∧
    (s.loopLost c.val = false → s.lmode c.val = 0 →
      exec (.planReceive c p) s = .next ((((s.setLoop c.val { o with plan := some p, pastEnd := false }).bumpWrap (b + 0x1A8) 1).setReg
        (b + 0x1B0) p.seq).intRaise (.loop c.val) 6).done)

/-- The control law's output lies between UMIN and UMAX, and so does its integrator unless it stands still (rule R294). -/
def Obligations.LoopOutputBounds : Prop :=
  ∀ (s : State) (c k : Nat) (x : LoopSt) (y : Int) (t6 : Word),
    let l := s.lawRun c k x y t6
    let lo := s.lint c 0x124
    let hi := s.lint c 0x128
    lo ≤ hi → lo ≤ l.u ∧ l.u ≤ hi ∧ ((lo * 65536 ≤ l.x.i ∧ l.x.i ≤ hi * 65536) ∨ l.x.i = (x.fresh y).i)

/-- A channel in RUN is GATED when at least one output names it and every output that names it has its ACT_EN bit at 0; it then keeps computing, but
neither winds up its integrator nor learns. -/
def Obligations.GatedChannel : Prop :=
  (∀ (s : State) (c : Fin 32), s.lmode c.val = 2 → s.loopLost c.val = false → (s.loop c.val).waiting = [] → s.stopLine = false →
    (s.loop c.val).stop = false → (s.loop c.val).held = false →
    let t := (s.loopBoundary c.val).2
    let named (k : Nat) : Prop := k < 24 ∧ bit (s.reg (pwmBase k)) 5 = true ∧ s.rf (pwmBase k) 6 5 = c.val
    (t.loopState c.val = 4 ↔ (∃ k, named k) ∧ ∀ k, named k → bit (s.reg 0x5A600) k = false)) ∧
  (∀ (s : State) (c : Nat) (x : LoopSt) (y : Int) (t6 : Word),
    let l := s.lawRun c 4 x y t6
    l.x.i = (x.fresh y).i ∧ l.x.mem = x.mem ∧ l.duty = some (s.dutyOf c l.u) ∧ l.x.yPrev = y ∧ l.x.j = s.nextPhase c x.j)

/-- Commands of a channel and of a lane profile (rules R286, R298, R302, R305, R308, R311, R312, R316, R318): in OFF each acts at once, in another
mode it waits for the sample boundary, TR_ARM alone acts at once always; other requesters and a refused INJ_START answer ARG. A profile threshold
commits both halves together. Model's choices in it: log 36. -/
def Obligations.LoopCommands : Prop :=
  ∀ (s : State) (r : Requester) (c : Fin 32),
   (Reaches s r (loopBase c.val + 0x170) true →
    let o := s.loop c.val
    let rows : List (Nat × Instr) := [(0, .oscClr r c), (1, .repClr r c), (2, .planClr r c), (4, .injStop r c), (6, .trackLatch r c), (7, .stopRel r c)]
    let later (b : Nat) (t : State) : State := t.setLoop c.val { t.loop c.val with waiting := (t.loop c.val).waiting ++ [.write 0x170 (w32 (2 ^ b))] }
    let off := s.lmode c.val = 0 ∧ s.loopLost c.val = false
    (r ≠ .mgmt → (∀ p ∈ rows, exec p.2 s = .next (s.respond r cARG 0).done) ∧ exec (.trArm r c) s = .next (s.respond r cARG 0).done ∧
      exec (.injStart r c) s = .next (s.respond r cARG 0).done) ∧
    (r = .mgmt → ¬ off → (∀ p ∈ rows, exec p.2 s = .next ((later p.1 s).respond r cOK 0).done) ∧
      exec (.trArm r c) s = .next ((later 5 (s.traceArm c.val)).respond r cOK 0).done) ∧
    (r = .mgmt → off →
      exec (.oscClr r c) s = .next ((s.oscClear c.val).respond r cOK 0).done ∧
      exec (.repClr r c) s = .next ((s.setLoop c.val { o with mem := [], j := 0 }).respond r cOK 0).done ∧
      exec (.planClr r c) s = .next ((s.setLoop c.val { o with plan := none, pastEnd := false }).respond r cOK 0).done ∧
      exec (.injStop r c) s = .next ((s.injEnd c.val).respond r cOK 0).done ∧
      exec (.trackLatch r c) s = .next (((s.setReg (loopBase c.val + 0x140) (s.lreg c.val 0x180)).loopMode c.val 1).respond r cOK 0).done ∧
      exec (.stopRel r c) s = .next ((s.stopRelease c.val).respond r cOK 0).done ∧
      exec (.trArm r c) s = .next ((s.setLoop c.val { o with trace := { traceReset with armed := true } }).respond r cOK 0).done) ∧
    (r = .mgmt →
      let k := s.loopState c.val
      let may := fld (s.lstored c.val 0x600) 0 2 ≠ 0 ∧ (k = 2 ∨ (k = 1 ∧ bit (s.lstored c.val 0x600) 2 = true))
      (may → ¬ off → exec (.injStart r c) s = .next ((later 3 s).respond r cOK 0).done) ∧
      (¬ may → exec (.injStart r c) s = .next (s.respond r cARG 0).done))) ∧
    (∀ (n : Fin 9) (p t : Fin 4) (v : Word),
      let a := 0x30000 + 0x1000 * n.val + 0x204 + 32 * p.val + 8 * t.val
      let lo := (s.half .mgmt (a - 4)).getD (s.reg (a - 4))
      let x := v.toNat * 2 ^ 32 + lo.toNat
      Reaches s r a true →
      (r ≠ .mgmt → exec (.profileThresholdCommit r n p t v) s = .next (s.respond r cARG 0).done) ∧
      (r = .mgmt → (0x7FF0000000000000 < x % 2 ^ 63 ∨ 2 ^ 63 < x) →
        exec (.profileThresholdCommit r n p t v) s = .next ((s.setHalf r (a - 4) none).respond r cARG 0).done) ∧
      (r = .mgmt → x % 2 ^ 63 ≤ 0x7FF0000000000000 → x ≤ 2 ^ 63 →
        exec (.profileThresholdCommit r n p t v) s =
          .next ((((s.setHalf r (a - 4) none).setReg (a - 4) lo).setReg a v).respond r cOK 0).done))

/-- TR_DATA returns the word that TR_PTR names and advances TR_PTR, through the eight words of a record and then to the next record modulo 4,096;
while ARMED is 1 and DONE is 0 it returns 0 with ARG. -/
def Obligations.TraceData : Prop :=
  ∀ (s : State) (r : Requester) (c : Fin 32), Reaches s r (loopBase c.val + 0x714) false →
    let t := (s.loop c.val).trace
    let a := loopBase c.val + 0x710
    let rec_ := fld (s.own r a) 0 12
    let word := fld (s.own r a) 12 3
    (t.armed = true → t.done = false → exec (.trData r c) s = .next (s.respond r cARG 0).done) ∧
    (¬ (t.armed = true ∧ t.done = false) → ∃ u,
      exec (.trData r c) s = .next ((s.setOwn r a u).respond r cOK (Cells.get 0 t.recs (8 * rec_ + word))).done ∧
      fld u 12 3 = (word + 1) % 8 ∧ fld u 0 12 = if word = 7 then (rec_ + 1) % 4096 else rec_)

/-! The headgate and checkpoints (rules R321–R368). -/

/-- Invocations (rules R323, R324, R332, R343): INVOKE answers OFF_DOMAIN while domain 2 is not ON, is refused for a free, faulted or torn context,
waits while the context runs or a checkpoint copies, with one start waiting at most, and else begins one with STEP raised by one; a deadline that TC7
reaches marks the running invocation once; a slot's start is noted on the engines it covers; a wait whose gate's timeout has run out from the moment
that its head began to wait ends its head with TIMEOUT, and not before. Model's choices in it: log 20 and 29. -/
def Obligations.Invocations : Prop :=
  ∀ (s : State) (r : Requester) (c : Fin 64) (i : Nat) (eng : Byte) (second : Bool),
    (Reaches s r 0x10118 true →
      let n := s.ctxSel r
      let x := s.ctx n
      let down := x.state = .free ∨ x.state = .faulted ∨ x.tearing ≠ none
      let busy := x.state = .running ∨ s.ckBusy = true
      (s.domain 2 ≠ 2 → exec (.invoke r) s = .next (s.respond r cOFF_DOMAIN 0).done) ∧
      (s.domain 2 = 2 →
      (down → exec (.invoke r) s = .next (s.respond r cARG 0).done) ∧
      (¬ down → x.pend ≠ none → exec (.invoke r) s = .next ((s.acct16 n 29 16).respond r cOK 0).done) ∧
      (¬ down → busy → x.pend = none →
        exec (.invoke r) s = .next ((s.setCtx n { x with pend := some (s.now 7) }).respond r cOK 0).done) ∧
      (¬ down → ¬ busy → x.pend = none →
        exec (.invoke r) s = .next ((s.begin n (s.now 7)).2.respond r (s.begin n (s.now 7)).1 0).done ∧
        (s.rpMode n ≠ 2 → (s.begin n (s.now 7)).1 = cOK ∧ ((s.begin n (s.now 7)).2.ctx n).step = x.step + 1)))) ∧
    (Runs s 2 →
      let x := s.ctx c.val
      (∀ t, x.pend = some t → x.state = .admitted → x.tearing = none → s.ckBusy = false →
        exec (.pendingStart c) s = .next ((s.setCtx c.val { x with pend := none }).begin c.val t).2.done) ∧
      (x.pend = none → exec (.pendingStart c) s = .next s.done) ∧
      (let due := x.state = .running ∧ x.missed = false ∧ x.deadline ≤ s.now 7
       (due → exec (.deadline c) s = .next ((((s.setCtx c.val { x with missed := true }).acct16 c.val 27 0).intRaise .headgate 2).lastCode
          .headgate cDEADLINE_MISS).done) ∧
       (¬ due → exec (.deadline c) s = .next s.done)) ∧
      (∀ w, s.slotEntries[i]? = some w →
        let first := s.frameOrigin + (dw w 0).toNat
        let frame := (s.reg 0x10100).toNat
        first ≤ s.now 7 → frame ≠ 0 → Calm s →
        ∃ t, exec (.frameSlotStart i) s = .next t ∧
          (∀ e, e < 0x49 → slotCovers w e = true → Cells.get 0 t.head.slotAt (128 * i + e) =
            max (first + (s.now 7 - first) / frame * frame) (s.busyUntil e) + 1) ∧
          (∀ k, (∀ e, e < 0x49 → slotCovers w e = true → k ≠ 128 * i + e) → Cells.get 0 t.head.slotAt k = Cells.get 0 s.head.slotAt k) ∧
          t.head = { s.head with slotAt := t.head.slotAt }) ∧
      (∀ j w h, s.listOn c.val eng.toNat = some j → s.timedWait c.val j second = some (w, h) →
        let limit := (s.gate w.1).timeout.toNat
        (limit ≠ 0 → h.since + 1000 * limit ≤ s.now 7 → s.waitHolds w = true →
          exec (.timeout c eng second) s = .next (s.skipHead c.val j cTIMEOUT).sweep.done) ∧
        (limit = 0 ∨ s.now 7 < h.since + 1000 * limit → exec (.timeout c eng second) s = .next s.done)))

/-- Teardown and restart (rules R344, R348–R350): the management controller's TEARDOWN stops issue and discards what has not started; when the
commands that run have ended the context is FAULTED, its gates count as abandoned, and a revoked one is free; RESTART returns a FAULTED context to
ADMITTED with its gates restored. Model's choices in it: log 20 and 29. -/
def Obligations.ContextTeardown : Prop :=
  ∀ (s : State) (r : Requester) (c : Fin 64),
    (Reaches s r 0x10118 true →
      let n := s.ctxSel r
      let x := s.ctx n
      let left := (List.range x.lists.length).foldl (fun k i => k + (s.listTotal n i - x.issued.getD i 0)) 0
      (r ≠ .mgmt → exec (.teardown r) s = .next (s.respond r cARG 0).done ∧ exec (.restart r) s = .next (s.respond r cARG 0).done) ∧
      (r = .mgmt →
        (x.state = .free ∨ x.state = .faulted → exec (.teardown r) s = .next (s.respond r cARG 0).done) ∧
        (x.state = .admitted → x.tearing = none → exec (.teardown r) s = .next ((s.setCtx n { x with
          pend := none, cause := 0x35, tearing := some { cause := 0x35, lcn := 0xFFFFFF, discarded := 0 } }).respond r cOK 0).done) ∧
        (x.state = .running → x.tearing = none → exec (.teardown r) s = .next ((s.setCtx n { x with
          pend := none, cause := 0x35, tearing := some { cause := 0x35, lcn := 0xFFFFFF, discarded := left } }).respond r cOK 0).done) ∧
        (x.state = .admitted ∨ x.state = .running → x.tearing ≠ none → exec (.teardown r) s = .next (s.respond r cOK 0).done) ∧
        (x.state ≠ .faulted → exec (.restart r) s = .next (s.respond r cARG 0).done) ∧
        (x.state = .faulted →
          let u := s.restoreGates n true
          exec (.restart r) s = .next ((u.setCtx n { u.ctx n with state := .admitted }).sweep.respond r cOK 0).done ∧
          (∀ g, x.gateBase ≤ g → g < x.gateBase + x.gateCnt → (u.gate g).count = (s.gate g).init ∧ (u.gate g).abandon = false) ∧
          (∀ g, ¬ (x.gateBase ≤ g ∧ g < x.gateBase + x.gateCnt) → u.gate g = s.gate g)))) ∧
    (Runs s 2 →
      let x := s.ctx c.val
      (x.tearing = none ∨ s.ctxRuns c.val = true → exec (.teardownComplete c) s = .next s.done) ∧
      (∀ tr, x.tearing = some tr → s.ctxRuns c.val = false → s.dramBad = [] → Calm s → ∃ t, exec (.teardownComplete c) s = .next t ∧
        (x.revoke = false → (t.ctx c.val).state = .faulted ∧ (t.ctx c.val).tearing = none) ∧ (x.revoke = true → t.ctx c.val = ctxReset) ∧
        (∀ g ∈ t.head.tags, g.ctx ≠ c.val) ∧ bit (t.reg 0x10014) 3 = true ∧ bit (t.reg 0x10014) 4 = true ∧ bit (t.reg 0x5118) 2 = true))

/-- Sluice gates (rules R342, R346, R355): G_SIGNAL adds to a gate's count, saturating with SAT, and not to a free gate; 0 is refused, and so is the
host or the debug port on a gate of a context; ALLOC and FREE turn a gate below 1,024 into a system gate and back, for the management controller
alone. Model's choices in it: log 20. -/
def Obligations.SluiceGates : Prop :=
  ∀ (s : State) (r : Requester) (w : Fin 2) (n : Word),
    let g := s.gateSel r w.val
    let x := s.gate g
    let base := 0x12000 + 0x1000 * w.val
    (Reaches s r (base + 0x114) true →
      let refused := n = 0 ∨ ((r = .host ∨ r = .debug) ∧ s.gateOwner g ≠ 0x7F)
      (refused → exec (.gSignal r w n) s = .next (s.respond r cARG 0).done) ∧
      (¬ refused → s.gateOwner g = 0x7E → exec (.gSignal r w n) s = .next (s.respond r cOK 0).done) ∧
      (¬ refused → s.gateOwner g ≠ 0x7E →
        (x.count.toNat + n.toNat ≤ 0xFFFFFFFF →
          exec (.gSignal r w n) s = .next ((s.setGate g { x with count := x.count + n }).respond r cOK 0).done) ∧
        (0xFFFFFFFF < x.count.toNat + n.toNat →
          exec (.gSignal r w n) s =
            .next (((s.setGate g { x with count := 0xFFFFFFFF, sat := true }).intRaise .headgate 9).respond r cOK 0).done))) ∧
    (Reaches s r (base + 0x11C) true →
      (r ≠ .mgmt ∨ 1023 < g →
        exec (.alloc r w) s = .next (s.respond r cARG 0).done ∧ exec (.free r w) s = .next (s.respond r cARG 0).done) ∧
      (r = .mgmt → g ≤ 1023 →
        (x.sys = true → exec (.alloc r w) s = .next (s.respond r cARG 0).done ∧
          exec (.free r w) s = .next ((s.setGate g { x with sys := false }).respond r cOK 0).done) ∧
        (x.sys = false → exec (.free r w) s = .next (s.respond r cARG 0).done ∧
          exec (.alloc r w) s = .next ((s.setGate g { x with count := 0, sys := true }).respond r cOK 0).done)))

/-- Accounts and checkpoints (rules R351, R353, R368): a snapshot copies the selected context's words with this moment's stamp and the INVALID capture
and counts in ACCT_SEQ, and with CLEAR zeroes words 20 to 30; SAVE copies a lane's memory without error into LPDDR6 and RESTORE back, BUSY holds until
the copy is done, and a command during a run, a pending start or BUSY is refused. Model's choices in it: log 32 and 47. -/
def Obligations.AccountsAndCheckpoints : Prop :=
  ∀ (s : State) (r : Requester) (clear : Bool),
    (Reaches s r 0x10160 true → Calm s →
      let c := s.ctxSel r
      ∃ t, exec (.acctSnap r clear) s = .next t ∧ t.reg 0x10164 = s.reg 0x10164 + 1 ∧
        (∀ w, w < 31 → t.reg (0x10180 + 4 * w) = s.hg c (acctOff w)) ∧ t.reg (0x10180 + 4 * 31) = s.stamp ∧
        (∀ w, w < 5 → t.reg (0x10200 + 4 * w) = s.hg c (0x200 + 4 * w)) ∧
        (∀ w, w < 31 → t.hg c (acctOff w) = if clear = true ∧ 20 ≤ w then 0 else s.hg c (acctOff w)) ∧
        t.head = { s.head with hg := t.head.hg }) ∧
    (Reaches s r 0x10354 true →
      (s.ckRefused = true → exec (.save r) s = .next (s.respond r cARG 0).done ∧ exec (.restore r) s = .next (s.respond r cARG 0).done) ∧
      (s.ckRefused = false →
        let lane := s.rf 0x10340 0 4
        let a := s.rf 0x10350 0 4 * 2 ^ 32 + (s.reg 0x1034C).toNat
        let n := (s.reg 0x10348).toNat
        let u := s.unitOf true lane
        let m := 2 ^ 24 * u.2 + (s.reg 0x10344).toNat
        lane < 8 → u.1 = cOK → s.chans ≠ [] → s.mcOff = false → s.domain 2 = 2 → s.sramBad = [] → s.dramBad = [] → Calm s →
        (∃ t, exec (.save r) s = .next t ∧ t.head.ck = some cOK ∧ bit (t.reg 0x10358) 0 = true ∧ t.sram = s.sram ∧
          (∀ j, t.dram.byte j = if a ≤ j ∧ j < a + n then s.sram.byte (m + (j - a)) else s.dram.byte j)) ∧
        (∃ t, exec (.restore r) s = .next t ∧ t.head.ck = some cOK ∧ bit (t.reg 0x10358) 0 = true ∧ t.dram = s.dram ∧
          (∀ j, t.sram.byte j = if m ≤ j ∧ j < m + n then s.dram.byte (a + (j - m)) else s.sram.byte j)))) ∧
    (Runs s 2 →
      (s.head.ck = none → exec .checkpointDone s = .next s.done) ∧
      (∀ code, s.head.ck = some code → exec .checkpointDone s =
        .next ({ (s.setReg 0x10358 (w32 (code * 256))).lastCode .headgate code with head := { s.head with ck := none } } : State).done))

/-! The command link (rules R371–R392, R401, R402). -/

/-- The SDIO bus commands (rules R371, R372; what they answer is the SDIO 3.00 standard's, log entry 40): a card that is not on, or that CMD15 made
inactive, does not answer; a command with a CRC error is dropped without an answer and counted; CMD0 takes the card to idle, CMD5 initialises it in a
window it shares, CMD3 publishes a non-zero address, CMD7 selects it by that address, CMD11 goes to 1.8 V, CMD15 ends it, and CMD19 sends the tuning
block in SDR50 and SDR104. -/
def Obligations.BusCommands : Prop :=
  ∀ (s : State) (ocr : Word) (rca : BitVec 16), Up s →
    (s.cardOn = false → ∀ ok,
      exec (.cmd0 ok) s = .next s.done ∧ exec (.cmd3 ok) s = .next (s.answer none []).done ∧ exec (.cmd5 ocr ok) s = .next (s.answer none []).done ∧
      exec (.cmd7 rca ok) s = .next (s.answer none []).done ∧ exec (.cmd11 ok) s = .next (s.answer none []).done ∧
      exec (.cmd15 rca ok) s = .next (s.answer none []).done ∧ exec (.cmd19 ok) s = .next (s.answer none []).done) ∧
    (s.cardOn = true →
      (∀ c : Instr, (c = .cmd0 false ∨ c = .cmd3 false ∨ c = .cmd5 ocr false ∨ c = .cmd7 rca false ∨ c = .cmd11 false ∨ c = .cmd15 rca false ∨
        c = .cmd19 false) → exec c s = .next ((s.bump 0x80104 1).answer none []).done) ∧
      exec .cmd0 s =
        .next { s with sdio := { s.sdio with ready := false, rca := 0, sel := false, rsp := none, rdata := [], blockCrc := [] } }.done ∧
      (s.sdio.ready = false → exec .cmd3 s = .next (s.answer none []).done) ∧
      (s.sdio.ready = true → ∃ a u, a ≠ 0 ∧ a < 2 ^ 16 ∧ exec .cmd3 s = .next (u.answer (some (beBytes 2 a ++ [0, 0])) []).done ∧
        u = { s with sdio := { s.sdio with rca := BitVec.ofNat 16 a }, freeCtr := s.freeCtr + 1 }) ∧
      (let window := fld ocr 0 24
       (window ≠ 0 → window &&& 0xFF8000 = 0 → exec (.cmd5 ocr) s = .next (s.answer none []).done) ∧
       (window = 0 ∨ window &&& 0xFF8000 ≠ 0 →
         let ready := s.sdio.ready || decide (window ≠ 0)
         exec (.cmd5 ocr) s = .next (State.answer { s with sdio := { s.sdio with ready := ready } }
           (some (beBytes 4 (0x20FF8000 + (bit ocr 24).toNat * 2 ^ 24 + ready.toNat * 2 ^ 31))) []).done)) ∧
      (rca = s.sdio.rca → rca ≠ 0 → exec (.cmd7 rca) s = .next (State.answer { s with sdio := { s.sdio with sel := true } }
        (some [0, 0, 0, 0]) []).done) ∧
      (rca ≠ s.sdio.rca ∨ rca = 0 →
        exec (.cmd7 rca) s = .next (State.answer { s with sdio := { s.sdio with sel := false } } none []).done) ∧
      exec .cmd11 s = .next (State.answer { s with sdio := { s.sdio with v18 := true } } (some [0, 0, 0, 0]) []).done ∧
      (rca = s.sdio.rca → exec (.cmd15 rca) s = .next (State.answer { s with sdio := { s.sdio with dead := true } } none []).done) ∧
      (rca ≠ s.sdio.rca → exec (.cmd15 rca) s = .next (s.answer none []).done) ∧
      (nfld (s.f0 0x13) 1 3 = 2 ∨ nfld (s.f0 0x13) 1 3 = 3 → exec .cmd19 s = .next (s.answer (some [0, 0, 0, 0]) tuningBlock).done) ∧
      (nfld (s.f0 0x13) 1 3 ≠ 2 → nfld (s.f0 0x13) 1 3 ≠ 3 → exec .cmd19 s = .next (s.answer none []).done))

/-- Byte commands (rules R371–R374, R381, R383, R388, R395): a command with a CRC error is dropped and counted; a function that is absent or not ready
answers R5 with an error; function 0 reads and writes its bytes; the stop byte 0x5A alone raises the stop line; I/O Abort ends the open-ended transfer
of its function; RES resets the interface, and an open load takes no more bytes; RESP_ACK ends a response with the bulk bits that it carried; the
doorbell copies the frame, or is refused with OVERRUN while a frame or a response is there. Model's choices in it: log 27 and 40. -/
def Obligations.ByteCommands : Prop :=
  ∀ (s : State) (w : Bool) (fn : BitVec 3) (a : BitVec 17) (v : Byte), Up s →
    (s.cardOn = false → ∀ ok, exec (.cmd52 ok w fn a v) s = .next (s.answer none []).done) ∧
    (s.cardOn = true →
      exec (.cmd52 false w fn a v) s = .next ((s.bump 0x80104 1).answer none []).done ∧
      (2 < fn.toNat → exec (.cmd52 true w fn a v) s = .next (s.answer (some [0, 0, s.r5 2, 0]) []).done) ∧
      (0 < fn.toNat → fn.toNat ≤ 2 → s.fnReady fn.toNat = false →
        exec (.cmd52 true w fn a v) s = .next (s.answer (some [0, 0, s.r5 1, 0]) []).done) ∧
      (let b := BitVec.ofNat 8 (s.f0Read a.toNat)
       exec (.cmd52 true false 0 a v) s = .next (s.answer (some [0, 0, s.r5 0, b]) [b]).done) ∧
      (let u := s.f0Write a.toNat v.toNat
       exec (.cmd52 true true 0 a v) s = .next (u.answer (some [0, 0, u.r5 0, v]) []).done) ∧
      (let u := if v = 0x5A then s.raiseStop else s
       exec (.stopByte v) s = .next (u.answer (some [0, 0, u.r5 0, v]) []).done ∧ (v = 0x5A → u.stopLine = true)) ∧
      (let u : State := if s.sdio.openXfer = some fn.toNat then { s with sdio := { s.sdio with openXfer := none } } else s
       exec (.ioAbort fn) s = .next (u.answer (some [0, 0, u.r5 0, BitVec.ofNat 8 fn.toNat]) []).done) ∧
      (let u := s.sdioReset
       exec .res s = .next (u.answer (some [0, 0, u.r5 0, 8]) []).done ∧ u.sdio.busy = false ∧ u.sdio.openXfer = none ∧ u.f1Int = 0 ∧
         u.sdio.f0 = [] ∧ (∀ l, u.sdio.load = some l → l.live = false) ∧
         (s.boot.step = 4 → u.boot.step = 0 ∧ u.boot.stream = []) ∧ (s.boot.step ≠ 4 → u.boot = s.boot)) ∧
      (s.fnReady 1 = true →
        (let u := s.f1Read a.toNat
         a.toNat ≠ 0x2008 → exec (.cmd52 true false 1 a v) s = .next (u.2.answer (some [0, 0, u.2.r5 0, u.1]) [u.1]).done) ∧
        (let u := s.f1Write a.toNat v
         a.toNat ≠ 0x2008 → exec (.cmd52 true true 1 a v) s = .next (u.answer (some [0, 0, u.r5 0, v]) []).done) ∧
        (let u : State := if v.getLsbD 0 then { s with sdio := { s.sdio with
           resp := false, bulkDone := s.sdio.bulkDone && !s.sdio.bulkSeen.getLsbD 0, bulkErr := s.sdio.bulkErr && !s.sdio.bulkSeen.getLsbD 1,
           bulkSeen := 0 } } else s
         exec (.respAck v) s = .next (u.answer (some [0, 0, u.r5 0, v]) []).done) ∧
        (s.sdio.busy = true ∨ s.sdio.resp = true →
          exec (.doorbell v) s = .next (State.answer { s with f1Int := s.f1Int ||| 8 } (some [0, 0, s.r5 0, v]) []).done) ∧
        (s.sdio.busy = false → s.sdio.resp = false → ∃ f, f.length = s.sdio.bell.toNat + 256 * v.toNat ∧
          (∀ i, i < 4096 → i < f.length → f[i]? = some (s.sdio.tx.byte i)) ∧
          exec (.doorbell v) s = .next (State.answer { s with sdio := { s.sdio with busy := true, frame := f } } (some [0, 0, s.r5 0, v]) []).done)))

/-- The register window (rules R378–R380): byte 0x2003 takes the address; byte 0x2007 issues one host write of the word and byte 0x2004 one read; each
access leaves LAST_CODE, ERR and the count, advances the address under INC, and beyond the register space ends with NO_PAGE; WIN_BURST issues one for
each word. Model's choices in it: log 27. -/
def Obligations.RegisterWindow : Prop :=
  ∀ (s : State) (b : Byte) (v : Word) (ws : List Word) (n : BitVec 9), Up s →
    (let last := fun (code : Nat) (u : State) =>
       { u with sdio := { u.sdio with last := BitVec.ofNat 8 code, err := u.sdio.err || code != 0, cnt := u.sdio.cnt + 1, winD := 0,
                                      winAddr := if u.sdio.inc then u.sdio.winAddr + 4 else u.sdio.winAddr } }
     let a := s.sdio.winAddr.toNat
     (2 ^ 20 ≤ a → s.winWrite v = last cNO_PAGE (s.logAccess .host (a % 2 ^ 20) true cNO_PAGE) ∧
       s.winRead = (0, last cNO_PAGE (s.logAccess .host (a % 2 ^ 20) false cNO_PAGE))) ∧
     (a < 2 ^ 20 →
       (let q := s.writeAccess .host (wordAccess a) v
        s.winWrite v = last q.1 (q.2.respond .host q.1 0)) ∧
       (let q := s.readAccess .host (wordAccess a)
        let w := if q.1 = cOK then q.2.1 else 0
        s.winRead = (w, last q.1 (q.2.2.respond .host q.1 w))))) ∧
    (s.cardOn = true → s.fnReady 1 = true →
      (let w := setFld s.sdio.winB 24 8 b.toNat
       exec (.winAddr b) s = .next (State.answer { s with sdio := { s.sdio with winB := w, winAddr := w } } (some [0, 0, s.r5 0, b]) []).done) ∧
      (let w := setFld s.sdio.winD 24 8 b.toNat
       let u := State.winWrite { s with sdio := { s.sdio with winD := w } } w
       exec (.winDataWrite b) s = .next (u.answer (some [0, 0, u.r5 0, b]) []).done) ∧
      (let q := s.winRead
       let u : State := { q.2 with sdio := { q.2.sdio with latch := q.1 } }
       let d := BitVec.ofNat 8 q.1.toNat
       exec .winDataRead s = .next (u.answer (some [0, 0, u.r5 0, d]) [d]).done) ∧
      (let u := winWrites ws s
       exec (.winBurst true (wordBytes ws) n) s =
         .next { u with sdio := { u.sdio with rsp := some [0, 0, u.r5 0, 0], rdata := [], blockCrc := [true] } }.done) ∧
      (let q := winReads n.toNat s
       exec (.winBurst false [] n) s = .next (q.2.answer (some [0, 0, q.2.r5 0, 0]) (wordBytes q.1)).done))

/-- CMD53 (rules R371–R374, R389, R394): a command with a CRC error is dropped and counted; a byte-mode transfer moves `count` bytes, 512 for 0, and a
block-mode one that many blocks of the function's size, 0 of them being an open end on function 2 alone; a write block with a CRC error is discarded,
counted and shown in its CRC status. Function 2 takes the boot stream before the firmware runs, and an open load after it, which takes the bytes
within its length; bytes for no open load raise BULK_ERR. Model's choices in it: log 27. -/
def Obligations.ExtendedTransfers : Prop :=
  ∀ (s : State) (w block inc : Bool) (fn : BitVec 3) (a : BitVec 17) (n : BitVec 9) (d : Cmd53Data), Up s →
    (s.cardOn = false → ∀ ok, exec (.cmd53 ok w fn block inc a n d) s = .next (s.answer none []).done) ∧
    (s.cardOn = true →
      exec (.cmd53 false w fn block inc a n d) s = .next ((s.bump 0x80104 1).answer none []).done ∧
      (∀ e, s.fnError fn.toNat = some e → exec (.cmd53 true w fn block inc a n d) s = .next (s.answer (some [0, 0, s.r5 e, 0]) []).done) ∧
      (s.fnError fn.toNat = none → n ≠ 0 ∨ fn = 2 →
        exec (.cmd53 true w fn true inc a n d) s = .next (s.cmd53Blocks w fn.toNat inc a.toNat n.toNat (s.blockSize fn.toNat) d).done) ∧
      (s.fnError fn.toNat = none → n = 0 → fn ≠ 2 →
        exec (.cmd53 true w fn true inc a n d) s = .next (s.answer (some [0, 0, s.r5 1, 0]) []).done) ∧
      (s.fnReady 2 = true → d.badBlocks = [] → d.bytes.length = (if n = 0 then 512 else n.toNat) →
        (let u := if s.boot.step = 3 then s.bulkTake d.bytes else s.bootTake d.bytes
         exec (.cmd53 true true 2 false inc a n d) s =
          .next (State.done { (u.answer (some [0, 0, u.r5 0, 0]) []) with sdio := { u.sdio with
            rsp := some [0, 0, u.r5 0, 0], rdata := [], blockCrc := [true] } }))) ∧
      (s.fnReady 2 = true → d.badBlocks = [0] → n = 1 → d.blocks = none →
        exec (.cmd53 true true 2 true inc a n d) s = .next (State.done { s.bump 0x80108 1 with sdio := { s.sdio with
          rsp := some [0, 0, s.r5 0, 0], rdata := [], openXfer := none, blockCrc := [false] } })) ∧
      (let l := if n = 0 then 512 else n.toNat
       let bs := (List.range l).map fun k => BitVec.ofNat 8 (s.f0Read (if inc then (a.toNat + k) % 2 ^ 17 else a.toNat))
       exec (.cmd53 true false 0 false inc a n d) s = .next (s.answer (some [0, 0, s.r5 0, 0]) bs).done)) ∧
    (∀ l bs, s.sdio.load = some l → l.live = true → l.bytes.length + bs.length ≤ l.len → bs ≠ [] →
      s.dramReach (l.addr + l.bytes.length) bs.length = cOK →
      let u := (s.dramSet none (l.addr + l.bytes.length) bs).2
      s.bulkTake bs = { u with sdio := { u.sdio with load := some { l with bytes := l.bytes ++ bs } } }) ∧
    ((∀ l, s.sdio.load = some l → l.live = false) → ∀ bs,
      s.bulkTake bs = { s with sdio := { s.sdio with bulkErr := true, bulkSeen := s.sdio.bulkSeen &&& 1 } })

/-- VCP frames outside the critical set, each of HELLO, STATUS_GET, ATTEST_GET, LOAD_BEGIN, LOAD_END, STOP and KEY_EXCHANGE (rules R382–R389, R401):
while a frame waits, a malformed one is answered with ARG, and one of no command of the table by whichever command comes; STOP raises the stop line
and answers OK at any version; every other needs the version that HELLO set, else VERSION; the answer clears BUSY, raises RESP and MBOX, and carries
STATUS; without a frame no command does anything. Model's choices in it: log 41. -/
def Obligations.PlainFrames : Prop :=
  ∀ (s : State) (mid : Option (BitVec 9 × MidTrip)) (kmid : Option MidTrip), Runs s 1 →
    let f := s.sdio.frame
    let versionBad := s.sdio.ver ≠ some (field f 4 1) ∨ field f 5 1 ≠ 0
    (∀ r, (s.sendReply f r).sdio.busy = false ∧ (s.sendReply f r).sdio.resp = true ∧ (s.sendReply f r).f1Int.getLsbD 0 = true ∧
      (r.tagged = false → (s.sendReply f r).sdio.rxLen = 32 + r.payload.length)) ∧
    (s.sdio.busy = true →
      (∀ row ∈ vcpPlain ++ vcpCriticalRows mid, frameBad f = true → frameCmd f = row.1 ∨ vcpCodes.contains (frameCmd f) = false →
        exec row.2.1 s = .next (s.sendReply f (replyOf cARG [] false)).done) ∧
      (∀ row ∈ vcpPlain,
        (frameBad f = false → frameCmd f = row.1 → row.1 ≠ 1 → versionBad →
          exec row.2.1 s = .next (s.sendReply f (replyOf cVERSION [] false)).done) ∧
        (frameBad f = false → frameCmd f = row.1 → row.1 = 1 ∨ ¬ versionBad →
          let q := row.2.2 s (f.drop 32)
          exec row.2.1 s = .next (q.2.2.sendReply f (replyOf q.1 q.2.1 false)).done)) ∧
      (frameBad f = false → frameCmd f = 3 →
        exec .stop s = .next (s.raiseStop.sendReply f (replyOf cOK [] false)).done ∧ s.raiseStop.stopLine = true) ∧
      (frameBad f = false → frameCmd f = 0x20 → ¬ versionBad → field f 32 1 ≠ 2 →
        let q := s.keyPhase1 (f.drop 32)
        exec .keyExchangePhase1 s = .next (q.2.2.sendReply f (replyOf q.1 q.2.1 false)).done) ∧
      (frameBad f = false → frameCmd f = 0x20 → ¬ versionBad → field f 32 1 = 2 →
        let q := s.vcpExchange true kmid (f.drop 32)
        exec (.keyExchangePhase2 kmid) s = .next (q.2.2.sendReply f (replyOf q.1 q.2.1 (q.1 == cOK))).done)) ∧
    (s.sdio.busy = false → (∀ row ∈ vcpPlain ++ vcpCriticalRows mid, exec row.2.1 s = .next s.done) ∧ exec .stop s = .next s.done ∧
      exec .keyExchangePhase1 s = .next s.done ∧ exec (.keyExchangePhase2 kmid) s = .next s.done ∧ exec (.keyRotate kmid) s = .next s.done)

/-- Critical VCP frames, each of ACT_ENABLE, MISSION_LOAD, MODE_CHANGE, ADMIT, REVOKE, WINDOW_BIND, PERF_LIMIT, DEBUG_POLICY and KEY_ROTATE (rules
R384, R385, R387, R402): in LOCKDOWN they are LOCKED, without a key NO_KEY; a wrong tag is AUTH_FAIL and counts; a counter that is not above LAST_CTR
is REPLAY and counts; else LAST_CTR takes the frame's counter, the command runs, and its tagged response carries its code; KEY_ROTATE's key takes over
after its response, and a DRAIN that falls in it ends it with NO_KEY (rule R408). Model's choices in it: log 41. -/
def Obligations.CriticalFrames : Prop :=
  ∀ s : State, Runs s 1 →
    let f := s.sdio.frame
    s.sdio.busy = true → frameBad f = false → s.sdio.ver = some (field f 4 1) → field f 5 1 = 0 →
    ∀ (mid : Option (BitVec 9 × MidTrip)) (kmid : Option MidTrip) (c : Instr) (run : State → List Byte → Nat × List Byte × Option (List Byte) × State),
      (∃ row ∈ vcpCriticalRows mid, c = row.2.1 ∧ frameCmd f = row.1 ∧
        run = fun s p => let q := row.2.2 s p; (q.1, q.2.1, none, q.2.2)) ∨
      (c = .keyRotate kmid ∧ frameCmd f = 0x21 ∧
        run = fun s p => match kmid with
          | none => s.keyRotate p
          | some t => if s.midDrains t then (cNO_KEY, [], none, s.midTrip t) else (s.midTrip t).keyRotate p) →
      (s.lockdown = true → exec c s = .next (s.sendReply f (replyOf cLOCKED [] false)).done) ∧
      (s.lockdown = false → s.sec.cmdKey = none → exec c s = .next (s.sendReply f (replyOf cNO_KEY [] false)).done) ∧
      (∀ key, s.lockdown = false → s.sec.cmdKey = some key →
        (frameTag key f ≠ slice f 16 16 →
          exec c s = .next ((s.bump 0x80118 1).tagFailure.sendReply f (replyOf cAUTH_FAIL [] false)).done) ∧
        (frameTag key f = slice f 16 16 → field f 8 8 ≤ s.sec.lastCtr.toNat →
          ∃ p, exec c s = .next ((s.bump 0x8011C 1).replayFailure.sendReply f (replyOf cREPLAY p true)).done ∧
            (field f 8 8 = s.sec.lastCtr.toNat → field f 8 8 ≠ 0 → p = [s.sec.lastStatus]) ∧
            (field f 8 8 < s.sec.lastCtr.toNat → p = [])) ∧
        (frameTag key f = slice f 16 16 → s.sec.lastCtr.toNat < field f 8 8 →
          let u := ({ s with sec := { s.sec with lastCtr := BitVec.ofNat 64 (field f 8 8) } }.setRf 0x411C 8 8 0).setRf 0x411C 16 8 0
          let q := run u (f.drop 32)
          let v : State := { q.2.2.2 with sec := { q.2.2.2.sec with lastStatus := BitVec.ofNat 8 q.1 } }
          let t := (v.sendReply f (replyOf q.1 q.2.1 true)).keyAfter q.2.2.1
          exec c s = .next t.done ∧ (∀ k, q.2.2.1 = some k → t.sec.cmdKey = some k ∧ t.sec.lastCtr = 0)))

/-! Trust, reset and supplies (rules R394–R414, R445–R449, R454, R469–R474). -/

/-- BOOT_VERIFY (rules R394–R398, R405): before the stream and self-test are complete it does nothing; a verification that fails sets BOOT 4 with its
code, ARG for a malformed header and AUTH_FAIL for a wrong root key, and trips alarm source 4; success starts the firmware with the grade, the
identity, the version and the first level. Model's choices in it: log 24 and 25. -/
def Obligations.BootVerification : Prop :=
  ∀ (s : State) (level : Fin 5) (linear : Bool), Up s →
    let b := s.boot.stream
    (¬ (Runs s 1 ∧ s.boot.step = 2 ∧ s.boot.tested = true ∧ s.domain 1 = 2) → exec (.bootVerify level linear) s = .next s.done) ∧
    (Runs s 1 → s.boot.step = 2 → s.boot.tested = true → s.domain 1 = 2 →
      (∀ code, bootCheck b = some code →
        let u := s.alarmTrip 4
        exec (.bootVerify level linear) s = .next ({ u with boot := { u.boot with step := 4, code := code } }).done ∧
        (code = cAUTH_FAIL ∨ code = cARG) ∧ (headerOk (b.take 128) = false → code = cARG) ∧
        (headerOk (b.take 128) = true → sha256 (slice b 16 64) ≠ Config.rootHash → code = cAUTH_FAIL)) ∧
      (bootCheck b = none →
        let gr := slice b (streamLen b - 1024) 1024
        let u := s.bootAccept level.val linear
        exec (.bootVerify level linear) s = .next u.done ∧ u.boot.step = 3 ∧ u.boot.code = 0 ∧ u.boot.fwDigest = sha256 (slice b 0 128) ∧
        u.sec.rootKey = Config.rootKey (slice gr 256 704) ∧ u.sec.did = identityKey u.sec.rootKey ∧
        u.sec.gradeDigest = sha256 (slice gr 0 960)))

/-- Self-test (rules R445–R449): it runs once, with the supplies good and AON_RST_N high, and the block leaves it tested, with the repair map kept
where its CRC checked and built anew otherwise; at another time it does not occur (log entry 16). Model's choices in it: log 24. -/
def Obligations.SelfTestRuns : Prop :=
  ∀ (s : State) (r : SelfTest), Up s →
    let can := s.testing = true ∧ s.power.pg = 7 ∧ s.power.stuck = false ∧ r.speed.toNat ≤ 3 ∧ r.dens.toNat ≤ 3
    (¬ can → exec (.selfTest r) s = .next s.done) ∧
    (can →
      exec (.selfTest r) s = .next (s.testRun r).exitEnd.resume.done ∧ (s.testRun r).testing = false ∧ (s.testRun r).boot.tested = true ∧
      (s.testRun r).boot.rootPub = [] ∧
      (let u := s.testMap r.mapBad
       u.rm 0 = 0x524D0860 ∧ u.rm 1 = 0 ∧ u.rm 3 = s.stamp ∧
       (r.mapBad = true → s.rm 0 ≠ 0 → ∀ i, 4 ≤ i → u.rm i = 0) ∧ (r.mapBad = false → s.rm 1 = 0 → ∀ i, 4 ≤ i → u.rm i = s.rm i)))

/-- Reset (rules R470, R471, R474): a low of AON_RST_N of 4.9 µs or less does nothing, one of 5.1 µs or more puts everything at reset, and one between
does either; the rise enables VDD_SOC, or stops the sequence under TEST_EN; the power-on reset holds the block. Supplies (rules R454, R471–R473): a
power-good rise enables the next rail, and VDD_SOC's starts the mask ROM; a timeout stops the sequence with a supply excursion; a loss is an
excursion, takes the rail's domains with it, and raises the stop line where VDD_CORE or VDD_LOOP fails. Model's choices in it: log 4 and 33. -/
def Obligations.ResetsAndSupplies : Prop :=
  (∀ (s : State) (ns : BitVec 32) (taken testEn : Bool),
    (ns.toNat ≤ 4900 ∨ (ns.toNat < 5100 ∧ taken = false) → s.power.held = false → exec (.wellhouseReset ns taken) s = .next s.done) ∧
    (5100 ≤ ns.toNat ∨ (4900 < ns.toNat ∧ taken = true) → exec (.wellhouseReset ns taken) s =
      .next { State.reset with pending := s.pending, freeCtr := s.freeCtr }) ∧
    exec .powerOnReset s = .next { State.reset with pending := s.pending, freeCtr := s.freeCtr } ∧
    (s.power.held = true → exec (.aonRstNRise testEn) s =
      .next ({ s with power := { s.power with held := false, pen := if testEn then 0 else 1, stuck := testEn } }).done) ∧
    (s.power.held = false → exec (.aonRstNRise testEn) s = .next s.done)) ∧
  (∀ (s : State) (r : Rail), Up s →
    let i := railNo r
    let pen := s.power.pen.getLsbD i
    let pg := s.power.pg.getLsbD i
    (pen = false ∨ pg = true ∨ s.power.stuck = true → exec (.pgRise r) s = .next s.done ∧ exec (.pgTimeout r) s = .next s.done) ∧
    (pen = true → pg = false → s.power.stuck = false →
      (∃ u : State, exec (.pgRise r) s = .next u.done ∧ u.power.pg = s.power.pg ||| (1#3 <<< i) ∧
        u.power.pen = (if i < 2 then s.power.pen ||| (2#3 <<< i) else s.power.pen) ∧
        (∀ d, u.domain d = if d = 1 ∧ i = 0 ∧ s.domain 1 = 0 then 2 else s.domain d)) ∧
      (∃ u : State, exec (.pgTimeout r) s = .next u.done ∧ u.power = { s.power with stuck := true } ∧ u.regs = (s.excursion .power 0).regs)) ∧
    (pen = false ∨ pg = false → exec (.pgLoss r) s = .next s.done) ∧
    (pen = true → pg = true → ∃ u : State, exec (.pgLoss r) s = .next u.done ∧
      (r = .core → u.stopLine = true ∧ (∀ d, 2 ≤ d → d < 30 → u.domain d = 0) ∧ u.power.pen = s.power.pen &&& ~~~4#3 ∧ u.power.pg = s.power.pg &&& ~~~4#3) ∧
      (r = .loop → u.stopLine = true ∧ u.loops = [] ∧ u.domain 30 = 0 ∧
        u.power.pen = s.power.pen &&& ~~~2#3 ∧ u.power.pg = s.power.pg &&& ~~~2#3) ∧
      (r = .soc → (∀ d, 1 ≤ d → d < 36 → u.domain d = 0) ∧ u.power.pen = s.power.pen &&& ~~~7#3 ∧ u.power.pg = s.power.pg &&& ~~~7#3)))

/-- Glitches (rules R405, R406, R454, R469): a detector whose rail is not enabled sees nothing; else alarm source 0 (a supply) or 1 (a temperature)
trips and counts, with an excursion on the fault alarm path; LOCKDOWN follows a severity of 1 or 2, and the stop line a STOP or a severity of 2.
Model's choices in it: log 26. -/
def Obligations.Glitches : Prop :=
  ∀ (s : State) (r : Supply) (crcBad saveBad : Bool), Up s →
    (let on := match r with
       | .core => s.power.pen.getLsbD 2
       | .loop => s.power.pen.getLsbD 1
       | .aon => true
     (on = false → exec (.vglitch r crcBad saveBad) s = .next s.done) ∧
     (on = true →
       let u := (s.alarmTrip 0).excursion .alarm 0
       exec (.vglitch r crcBad saveBad) s = .next (match r with
         | .core => u.excursionTear
         | .loop => u.missSamples
         | .aon => u.excursionTear.gapRings.recheck crcBad saveBad).done)) ∧
    exec .tglitch s = .next (((s.alarmTrip 1).excursion .alarm 1).excursionTear).done ∧
    (∀ i, i < 6 →
      let u := s.alarmTrip i
      let sev := s.rf (0x4100 + 4 * i) 0 2
      u.reg (0x4120 + 4 * i) = satInc (s.reg (0x4120 + 4 * i)) 1 ∧ (1 ≤ sev → u.lockdown = true) ∧ (sev = 0 → u.lockdown = s.lockdown) ∧
      (sev = 2 → u.sec.cmdKey = none ∧ u.sec.lastCtr = 0 ∧ u.sec.eph = none) ∧ (sev ≠ 2 → u.sec.cmdKey = s.sec.cmdKey) ∧
      (u.stopLine = (s.stopLine || bit (s.reg (0x4100 + 4 * i)) 2 || sev == 2)))

/-- The debug port (rule R413): attaching marks DBG_STAT and counts, once; detaching clears the mark; EXTEST and CLAMP act only while attached; with
the actuators disabled they take the pads, and otherwise they leave the TAP in BYPASS and are counted as refused. Model's choices in it: log 16. -/
def Obligations.DebugPort : Prop :=
  ∀ s : State, Up s →
    (bit (s.reg 0x76104) 1 = true → exec .debugAttach s = .next s.done) ∧
    (bit (s.reg 0x76104) 1 = false → exec .debugAttach s = .next (((s.setReg 0x76104 3).bump 0x76108 1).intRaise .dbg 0).done) ∧
    (let u := s.setReg 0x76104 (setBit (s.reg 0x76104) 1 false)
     exec .debugDetach s = .next { u with boot := { u.boot with tap := 0 } }.done) ∧
    (∀ (c : Instr) (i : Nat), (c = .extest ∧ i = 1) ∨ (c = .clamp ∧ i = 2) →
      (bit (s.reg 0x76104) 1 = false → exec c s = .next s.done) ∧
      (bit (s.reg 0x76104) 1 = true → s.reg 0x5A600 = 0 → exec c s = .next { s with boot := { s.boot with tap := i } }.done) ∧
      (bit (s.reg 0x76104) 1 = true → s.reg 0x5A600 ≠ 0 → exec c s =
        .next (let u := s.bump 0x7610C 1; { u with boot := { u.boot with tap := 0 } }).done))

/-! Power (rules R415–R439, R461, R483). -/

/-- Sleep entries (rules R424, R425, R427–R431, R441): the management controller's PWR_REQ for a deeper state, or an expired idle timer, begins an
entry that asks its participants in order, waits for one that runs, and is refused (ARG) for S0 or a state no deeper; AGREE takes the one asked once
its work is over; STOP_WAIT refuses for a basin, lane or memory controller whose work has not ended within it; the entry ends with its state in
PWR_STAT and its participants asleep, an entry to S1 or S2 not before a level change that runs. Model's choices in it: log 22 and 33. -/
def Obligations.SleepEntry : Prop :=
  ∀ (s : State) (q : Requester) (t : BitVec 2) (d : Fin 36),
    (Reaches s q 0x3100 true →
      let cur := s.rf 0x3104 0 2
      (q ≠ .mgmt → exec (.pwrReq q t) s = .next (s.respond q cARG 0).done) ∧
      (q = .mgmt → t = 0 → exec (.pwrReq q t) s = .next (s.respond q cARG 0).done) ∧
      (q = .mgmt → t ≠ 0 → s.moving = true → exec (.pwrReq q t) s =
        .next (State.respond { s with power := { s.power with reqs := s.power.reqs ++ [.sleep t.toNat] } } q cOK 0).done) ∧
      (q = .mgmt → t ≠ 0 → s.moving = false → t.toNat ≤ cur → exec (.pwrReq q t) s = .next (s.respond q cARG 0).done) ∧
      (q = .mgmt → s.moving = false → cur < t.toNat → exec (.pwrReq q t) s =
        .next ((s.entryStart t.toNat 0 (s.participants t.toNat)).resume.respond q cOK 0).done)) ∧
    (Up s →
      (s.idleDue d.val = false → exec (.idleExpiry d) s = .next s.done) ∧
      (s.idleDue d.val = true → s.moving = true → s.power.reqs.contains (PowerReq.idle d.val) = false → exec (.idleExpiry d) s =
        .next { s with power := { s.power with reqs := s.power.reqs ++ [PowerReq.idle d.val] } }.done) ∧
      (s.idleDue d.val = true → s.moving = false → exec (.idleExpiry d) s =
        .next (s.entryStart 0 (if s.rf (0x3200 + 4 * d.val) 20 2 = 2 then 0 else 3) [d.val]).resume.done) ∧
      (s.idleDue d.val = true → s.moving = true → s.power.reqs.contains (PowerReq.idle d.val) = true → exec (.idleExpiry d) s = .next s.done) ∧
      (∀ n rest, s.power.phase = 1 → s.power.ask = n :: rest →
        let failed := (domainUnit n).any s.isFailed
        (failed = true → exec .agree s = .next (State.resume (State.askNext { s with power := { s.power with ask := rest } })).done) ∧
        (failed = false → s.domainBusy n = true → exec .agree s = .next s.resume.done) ∧
        (failed = false → s.domainBusy n = false → exec .agree s = .next (State.resume (State.askNext { s with power := { s.power with
          ask := rest, agreed := s.power.agreed ++ [n] } })).done) ∧
        (let late := ((domainUnit n).isSome = true ∨ 32 ≤ n) ∧ failed = false ∧ s.domainBusy n = true ∧
           s.rf 0x3108 0 16 * 1000 ≤ s.time.ns - s.power.askNs
         (late → exec .stopWaitExpiry s = .next (s.refuse n 1 (domainPage n)).resume.done) ∧
         (¬ late → exec .stopWaitExpiry s = .next s.resume.done))) ∧
      (let waits := (s.power.target = 1 ∨ s.power.target = 2) ∧ s.power.seq.isSome = true
       (s.power.phase ≠ 2 ∨ waits → exec .entered s = .next s.done) ∧
       (s.power.phase = 2 → ¬ waits → ∃ u : State, exec .entered s = .next u.done ∧
        (s.reg 0x311C = 0 → s.power.reqs = [] → s.power.next = none → u.power.phase = 0 ∧
          (1 ≤ s.power.target → s.power.target ≤ 3 → u.rf 0x3104 0 2 = s.power.target ∧ u.power.slept = s.power.slept ++ s.power.agreed ∧
            (∀ n, n ∈ s.power.agreed → n < 36 → (domainUnit n).any s.isFailed = false →
              sleepState s.power.target n = 0 ∨ sleepState s.power.target n = 3 → u.domain n = sleepState s.power.target n))))))

/-- Wake events (rules R426, R431, R434): WAKE_N for 1 µs or more, a start bit on CMD while domain 1 is OFF, and WAKE_REQ; a masked event does
nothing, one during an entry is latched, one during an exit does nothing, and in a sleep state it begins the exit. Model's choices in it: log 33. -/
def Obligations.WakeEvents : Prop :=
  ∀ (s : State) (ns : BitVec 32) (q : Requester) (m : BitVec 36), Up s →
    (ns.toNat < 1000 → exec (.wakeN ns) s = .next s.done) ∧
    (1000 ≤ ns.toNat → exec (.wakeN ns) s = .next (s.wakeEvent 0 0).done) ∧
    (s.domain 1 = 0 → exec .sdioCmdWake s = .next (s.wakeEvent 1 0).done) ∧
    (s.domain 1 ≠ 0 → exec .sdioCmdWake s = .next s.done) ∧
    (∀ src mask, src < 4 →
      let masked := src < 3 ∧ bit (s.reg 0x3118) src = false
      (masked → s.wakeEvent src mask = s) ∧
      (¬ masked → s.power.phase ≠ 0 → (s.wakeEvent src mask).reg 0x311C = s.reg 0x311C ||| w32 (2 ^ src) ∧
        (s.wakeEvent src mask).power = { s.power with wakeMask := s.power.wakeMask ||| mask }) ∧
      (¬ masked → s.power.phase = 0 → bit (s.reg 0x3104) 3 = true → s.wakeEvent src mask = s) ∧
      (¬ masked → s.power.phase = 0 → bit (s.reg 0x3104) 3 = false →
        (s.rf 0x3104 0 2 ≠ 0 → s.wakeEvent src mask = (s.exitStart src mask).resume ∧ (s.exitStart src mask).reg 0x3124 = w32 src ∧
          (∀ n, n < 36 → s.domain n = 0 ∨ s.domain n = 3 → s.standsBy n = false → s.power.slept.contains n = true ∨ nbit mask n = true →
            (s.exitStart src mask).domain n = 1)) ∧
        (s.rf 0x3104 0 2 = 0 → s.wakeEvent src mask = (if src = 3 then s.wakeNamed mask else s).resume))) ∧
    (let lo := m.toNat % 2 ^ 32
     let hi := m.toNat - lo
     (m = 0 → Reaches s q 0x3128 true → exec (.wakeReq q m) s = .next (s.respond q cOK 0).done) ∧
     (hi = 0 → lo ≠ 0 → Reaches s q 0x3128 true → exec (.wakeReq q m) s = .next ((s.wakeEvent 3 lo).respond q cOK 0).done) ∧
     (hi ≠ 0 → lo = 0 → Reaches s q 0x312C true → exec (.wakeReq q m) s = .next ((s.wakeEvent 3 hi).respond q cOK 0).done) ∧
     (hi ≠ 0 → lo ≠ 0 → q ≠ .debug → exec (.wakeReq q m) s =
       .next ((State.wakeEvent ((s.wakeEvent 3 lo).respond q cOK 0) 3 hi).respond q cOK 0).done))

/-- A domain's exit (rules R435, R438, R439): regulator, oscillator, memory and logic are ready in turn, each event acting only at its step; the
regulator needs its rail; memory comes up zeroed; the last reads ON, or QUIESCENT for a failed or retired unit (rule R483), with the save list
restored where the domain was OFF. Model's choices in it: log 2 and 33. -/
def Obligations.DomainExit : Prop :=
  ∀ (s : State) (d : Fin 36), Up s →
    let i := d.val
    let w := s.wakeStep i
    (w ≠ 1 ∨ s.power.pg.getLsbD (domainRail i) = false → exec (.regulatorReady d) s = .next s.done) ∧
    (w = 1 → s.power.pg.getLsbD (domainRail i) = true → exec (.regulatorReady d) s = .next (s.setStep i 2).done) ∧
    (w ≠ 2 → exec (.oscRdy d) s = .next s.done) ∧
    (w = 2 → exec (.oscRdy d) s = .next (s.setStep i 3).done) ∧
    (w ≠ 3 → exec (.memRdy d) s = .next s.done) ∧
    (w = 3 → ∃ u : State, exec (.memRdy d) s = .next u.done ∧ u.wakeStep i = 4 ∧
      (3 ≤ i → i < 30 → ∀ a, a < 2 ^ 24 → Mem.byte u.sram (2 ^ 24 * (i - 3) + a) = 0)) ∧
    (w ≠ 4 → exec (.logicRdy d) s = .next s.done) ∧
    (w = 4 →
      let fresh := Cells.get 0 s.power.steps (64 + i) = 1
      let on := if (domainUnit i).any s.isFailed then 3 else 2
      let u := (((if fresh then s.restoreDomain i else s).setStep (64 + i) 0).setStep i 0).setDomain i on
      exec (.logicRdy d) s = .next u.exitEnd.resume.done ∧ u.domain i = on ∧ u.wakeStep i = 0)

/-- Performance levels (rules R417–R419, R421, R442): PERF_REQ takes a level within the limit from the management controller alone; a raise writes
VOUT_COMMAND, waits, and applies the body bias last; a lower applies it first; a write that fails is retried once, and a second failure restores the
old level with PMB_FAULT. Model's choices in it: log 16 and 34. -/
def Obligations.LevelChanges : Prop :=
  ∀ (s : State) (q : Requester) (l : BitVec 3) (ack : Bool),
    (Reaches s q 0x73120 true →
      (q ≠ .mgmt ∨ 4 < l.toNat ∨ s.rf 0x73128 0 3 < l.toNat → exec (.perfReq q l) s = .next (s.respond q cARG 0).done) ∧
      (q = .mgmt → l.toNat ≤ 4 → l.toNat ≤ s.rf 0x73128 0 3 →
        let v := { s.setReg 0x73120 (w32 l.toNat) with power := { s.power with throttled := false } }
        exec (.perfReq q l) s = .next ((v.levelRequest l.toNat).respond q cOK 0).done)) ∧
    (Up s → s.power.seq = none →
      exec (.voutCommandDone ack) s = .next s.done ∧ exec .voutSettled s = .next s.done ∧ exec .bodyBiasSettled s = .next s.done) ∧
    (Up s → ∀ c, s.power.seq = some c →
      (c.wait ≠ 1 → exec (.voutCommandDone ack) s = .next s.done) ∧ (c.wait ≠ 2 → exec .voutSettled s = .next s.done) ∧
      (c.wait ≠ 3 → exec .bodyBiasSettled s = .next s.done) ∧
      (c.wait = 1 → exec (.voutCommandDone true) s =
        .next { s with power := { s.power with seq := some { c with wait := 2 }, vcore := c.new } }.done) ∧
      (c.wait = 1 → c.retried = false →
        let u := (s.bump 0x74110 1).intRaise .pmb 1
        exec (.voutCommandDone false) s = .next { u with power := { s.power with seq := some { c with retried := true } } }.done) ∧
      (c.wait = 1 → c.retried = true → s.power.next = none → c.old < 8 → ∃ u : State, exec (.voutCommandDone false) s = .next u.done ∧
        u.rf 0x73124 0 3 = c.old ∧ u.power = { s.power with seq := none, bias := c.old, assist := c.old }) ∧
      (c.wait = 2 → c.old < c.new → exec .voutSettled s =
        .next { s with power := { s.power with seq := some { c with wait := 3 }, bias := c.new } }.done) ∧
      (c.wait = 2 → c.new ≤ c.old → exec .voutSettled s = .next s.levelDone.done) ∧
      (c.wait = 3 → c.new ≤ c.old → exec .bodyBiasSettled s =
        .next { s with power := { s.power with seq := some { c with wait := 1 } } }.done) ∧
      (c.wait = 3 → c.old < c.new → exec .bodyBiasSettled s =
        .next (State.levelDone { s.setRf 0x73124 0 3 c.new with power := { s.power with assist := c.new } }).done)) ∧
    (Runs s 1 → exec .smbalertN s = .next { s with power := { s.power with smbalert := true } }.done)
end

