-- ==== Sys2Proof/Laws/Cells.lean ====
section
/-! SUPPORT. Laws/Cells.lean: the laws of sparse maps: what a write leaves at every key, and that every operation keeps the
canonical form. -/

namespace Sys2Proof.Machine

variable {α : Type}

theorem Cells.get_append (d : α) (l r : Cells α) (a : Nat) :
    Cells.get d (l ++ r) a = if l.any (fun p => p.1 == a) then Cells.get d l a else Cells.get d r a := by
  induction l with
  | nil => simp
  | cons p l ih =>
    obtain ⟨k, v⟩ := p
    simp only [List.cons_append, Cells.get, List.any_cons, ih]
    by_cases h : k = a
    · simp [h]
    · have hb : (k == a) = false := by simp [h]
      simp only [h, hb, if_false, Bool.false_or]

theorem Cells.get_filter (d : α) (m : Cells α) (f : Nat → Bool) (a : Nat) :
    Cells.get d (m.filter fun p => f p.1) a = if f a then Cells.get d m a else d := by
  induction m with
  | nil => simp [Cells.get]
  | cons p m ih =>
    obtain ⟨k, v⟩ := p
    by_cases hk : f k <;> by_cases h : k = a
    · subst h; simp [List.filter, hk, Cells.get]
    · simp [List.filter, hk, Cells.get, h, ih]
    · subst h; simp [List.filter, hk, ih]
    · simp [List.filter, hk, Cells.get, h, ih]

theorem Cells.get_of_absent (d : α) (m : Cells α) (a : Nat) (h : ∀ p ∈ m, p.1 ≠ a) : Cells.get d m a = d := by
  induction m with
  | nil => rfl
  | cons p m ih =>
    obtain ⟨k, v⟩ := p
    have hk : k ≠ a := h (k, v) (by simp)
    simp only [Cells.get, hk, if_false]
    exact ih fun q hq => h q (by simp [hq])

/-- Reading after a write: the written key gives the value (the reader's default where the entry was dropped), any other key what it
gave before. -/
theorem Cells.get_put [DecidableEq α] (d e : α) (m : Cells α) (a b : Nat) (v : α) :
    Cells.get d (Cells.put e m a v) b = if b = a then (if v = e then d else v) else Cells.get d m b := by
  have hlo := Cells.get_filter d m (fun k => decide (k < a)) b
  have hhi := Cells.get_filter d m (fun k => decide (a < k)) b
  have key : ∀ q : Cells α, ¬ b < a →
      Cells.get d (m.filter (fun p => p.1 < a) ++ q) b = Cells.get d q b := by
    intro q hb
    rw [Cells.get_append]
    have : (m.filter fun p => decide (p.1 < a)).any (fun p => p.1 == b) = false := by
      simp only [List.any_eq_false, List.mem_filter]
      intro p hp
      simp at hp ⊢
      omega
    simp [this]
  unfold Cells.put
  rw [List.append_assoc]
  rcases Nat.lt_trichotomy b a with hb | hb | hb
  · have hne : b ≠ a := by omega
    rw [Cells.get_append]
    split
    · simpa [hb, hne] using hlo
    · rename_i hany
      have h1 : Cells.get d m b = d := by
        have := hlo
        simp only [hb, decide_true, if_true] at this
        rw [← this]
        apply Cells.get_of_absent
        intro p hp hpb
        apply hany
        simp only [List.any_eq_true]
        exact ⟨p, hp, by simpa using hpb⟩
      have h2 : Cells.get d ((if v = e then [] else [(a, v)]) ++ m.filter fun p => decide (a < p.1)) b = d := by
        apply Cells.get_of_absent
        intro p hp
        simp only [List.mem_append, List.mem_filter] at hp
        rcases hp with hp | hp
        · split at hp
          · simp at hp
          · simp at hp; subst hp; exact fun h => hne h.symm
        · simp at hp; omega
      simp [h2, h1]
  · subst hb
    rw [key _ (by omega)]
    by_cases hv : v = e
    · simp only [hv, if_true, List.nil_append]
      simpa using hhi
    · simp [hv, Cells.get]
  · rw [key _ (by omega)]
    have hne : b ≠ a := by omega
    have hne' : ¬ a = b := by omega
    by_cases hv : v = e
    · simp only [hv, if_true, List.nil_append]
      simpa [hb, hne] using hhi
    · simp only [hv, if_false, List.cons_append, List.nil_append, Cells.get, hne']
      simpa [hb, hne] using hhi

/-- A write reads back. -/
theorem Cells.get_put_self [DecidableEq α] (d : α) (m : Cells α) (a : Nat) (v : α) :
    Cells.get d (Cells.put d m a v) a = v := by
  rw [Cells.get_put]; split <;> simp_all

/-- A write leaves every other key alone. -/
theorem Cells.get_put_ne [DecidableEq α] (d e : α) (m : Cells α) {a b : Nat} (v : α) (h : b ≠ a) :
    Cells.get d (Cells.put e m a v) b = Cells.get d m b := by
  rw [Cells.get_put]; simp [h]

/-! The canonical form. -/

theorem Cells.wf_nil (d : Nat → α) : Cells.wf d ([] : Cells α) := by simp [Cells.wf]

/-- Dropping entries keeps the form. -/
theorem Cells.wf_filter (d : Nat → α) (m : Cells α) (f : Nat × α → Bool) (h : Cells.wf d m) : Cells.wf d (m.filter f) :=
  ⟨h.1.sublist List.filter_sublist, fun p hp => h.2 p (List.mem_filter.mp hp).1⟩

/-- Two maps in the form, the first wholly below the second, joined. -/
theorem Cells.wf_append (d : Nat → α) (l r : Cells α) (hl : Cells.wf d l) (hr : Cells.wf d r)
    (h : ∀ p ∈ l, ∀ q ∈ r, p.1 < q.1) : Cells.wf d (l ++ r) := by
  refine ⟨List.pairwise_append.mpr ⟨hl.1, hr.1, h⟩, fun p hp => ?_⟩
  rcases List.mem_append.mp hp with hp | hp
  · exact hl.2 p hp
  · exact hr.2 p hp

/-- A write keeps the form. -/
theorem Cells.wf_put [DecidableEq α] (d : Nat → α) (m : Cells α) (a : Nat) (v : α) (h : Cells.wf d m) :
    Cells.wf d (Cells.put (d a) m a v) := by
  have hm : Cells.wf d (if v = d a then ([] : Cells α) else [(a, v)]) := by
    split
    · exact Cells.wf_nil d
    · rename_i hv
      exact ⟨by simp, fun p hp => by simp at hp; subst hp; exact hv⟩
  have hmid : ∀ p ∈ (if v = d a then ([] : Cells α) else [(a, v)]), p.1 = a := by
    intro p hp
    split at hp
    · simp at hp
    · simp at hp; subst hp; rfl
  unfold Cells.put
  refine Cells.wf_append d _ _ (Cells.wf_append d _ _ (Cells.wf_filter d m _ h) hm ?_) (Cells.wf_filter d m _ h) ?_
  · intro p hp q hq
    have := (List.mem_filter.mp hp).2
    simp at this
    rw [hmid q hq]; exact this
  · intro p hp q hq
    have hq' := (List.mem_filter.mp hq).2
    simp at hq'
    rcases List.mem_append.mp hp with hp | hp
    · have := (List.mem_filter.mp hp).2
      simp at this; omega
    · rw [hmid p hp]; exact hq'

theorem Cells.run_keys [DecidableEq α] (d : α) (vs : List α) (a : Nat) :
    ∀ p ∈ Cells.run d a vs, a ≤ p.1 ∧ p.1 < a + vs.length ∧ p.2 ≠ d := by
  induction vs generalizing a with
  | nil => simp [Cells.run]
  | cons v vs ih =>
    intro p hp
    unfold Cells.run at hp
    split at hp
    · have := ih (a + 1) p hp
      simp only [List.length_cons]; exact ⟨by omega, by omega, this.2.2⟩
    · rcases List.mem_cons.mp hp with hp | hp
      · subst hp; exact ⟨Nat.le_refl _, by simp, by assumption⟩
      · have := ih (a + 1) p hp
        simp only [List.length_cons]
        exact ⟨by omega, by omega, this.2.2⟩

theorem Cells.wf_run [DecidableEq α] (d : α) (vs : List α) (a : Nat) : Cells.wf (fun _ => d) (Cells.run d a vs) := by
  refine ⟨?_, fun p hp => (Cells.run_keys d vs a p hp).2.2⟩
  induction vs generalizing a with
  | nil => simp [Cells.run]
  | cons v vs ih =>
    unfold Cells.run
    split
    · exact ih (a + 1)
    · refine List.pairwise_cons.mpr ⟨fun p hp => ?_, ih (a + 1)⟩
      have := (Cells.run_keys d vs (a + 1) p hp).1
      show a < p.1
      omega

/-- A run of writes keeps the form. -/
theorem Cells.wf_putRun [DecidableEq α] (d : α) (m : Cells α) (a : Nat) (vs : List α) (h : Cells.wf (fun _ => d) m) :
    Cells.wf (fun _ => d) (Cells.putRun d m a vs) := by
  unfold Cells.putRun
  refine Cells.wf_append _ _ _ (Cells.wf_append _ _ _ (Cells.wf_filter _ m _ h) (Cells.wf_run d vs a) ?_)
    (Cells.wf_filter _ m _ h) ?_
  · intro p hp q hq
    have hp' := (List.mem_filter.mp hp).2
    simp at hp'
    have := (Cells.run_keys d vs a q hq).1
    omega
  · intro p hp q hq
    have hq' := (List.mem_filter.mp hq).2
    simp at hq'
    rcases List.mem_append.mp hp with hp | hp
    · have := (List.mem_filter.mp hp).2
      simp at this; omega
    · have := (Cells.run_keys d vs a p hp).2.1
      omega

/-- Clearing a range keeps the form. -/
theorem Cells.wf_clear (d : Nat → α) (m : Cells α) (a n : Nat) (h : Cells.wf d m) : Cells.wf d (Cells.clear m a n) :=
  Cells.wf_filter d m _ h

/-- A byte after a range was cleared. -/
theorem Cells.get_clear (d : α) (m : Cells α) (a n b : Nat) :
    Cells.get d (Cells.clear m a n) b = if b < a ∨ a + n ≤ b then Cells.get d m b else d := by
  have := Cells.get_filter d m (fun k => decide (k < a) || decide (a + n ≤ k)) b
  simpa [Cells.clear] using this

/-- A memory after bytes were stored keeps the canonical form. -/
theorem Mem.wf_store (m : Mem) (a : Nat) (bs : List Byte) (h : m.wf) : (m.store a bs).wf := Cells.wf_putRun 0 m a bs h

theorem Mem.wf_storeNat (m : Mem) (a n v : Nat) (h : m.wf) : (m.storeNat a n v).wf := Mem.wf_store m a _ h

theorem Mem.wf_nil : Mem.wf [] := Cells.wf_nil _

end Sys2Proof.Machine
end

