-- ==== Sys2Proof/Laws/State.lean ====
section
/-! SUPPORT. Laws/State.lean: what each update of the state leaves in each field. -/

namespace Sys2Proof.Machine

/-! A register after a write. -/

theorem State.reg_setReg (s : State) (a b : Nat) (v : Word) : (s.setReg a v).reg b = if b = a then v else s.reg b := by
  unfold State.reg State.setReg
  rw [Cells.get_put]
  by_cases h : b = a
  · subst h; simp only [if_true]; split <;> simp_all
  · simp [h]

@[simp] theorem State.reg_setReg_self (s : State) (a : Nat) (v : Word) : (s.setReg a v).reg a = v := by
  simp [State.reg_setReg]

theorem State.reg_setReg_ne (s : State) {a b : Nat} (v : Word) (h : b ≠ a) : (s.setReg a v).reg b = s.reg b := by
  simp [State.reg_setReg, h]


/-! State.setReg. -/

@[simp] theorem State.setReg_pending (s : State) (a : Nat) (v : Word) : (s.setReg a v).pending = s.pending := rfl
@[simp] theorem State.setReg_perReq (s : State) (a : Nat) (v : Word) : (s.setReg a v).perReq = s.perReq := rfl
@[simp] theorem State.setReg_resp (s : State) (a : Nat) (v : Word) : (s.setReg a v).resp = s.resp := rfl
@[simp] theorem State.setReg_time (s : State) (a : Nat) (v : Word) : (s.setReg a v).time = s.time := rfl
@[simp] theorem State.setReg_stopLine (s : State) (a : Nat) (v : Word) : (s.setReg a v).stopLine = s.stopLine := rfl
@[simp] theorem State.setReg_f1Int (s : State) (a : Nat) (v : Word) : (s.setReg a v).f1Int = s.f1Int := rfl
@[simp] theorem State.setReg_evtMask (s : State) (a : Nat) (v : Word) : (s.setReg a v).evtMask = s.evtMask := rfl
@[simp] theorem State.setReg_evtPend (s : State) (a : Nat) (v : Word) : (s.setReg a v).evtPend = s.evtPend := rfl
@[simp] theorem State.setReg_dom (s : State) (a : Nat) (v : Word) : (s.setReg a v).dom = s.dom := rfl
@[simp] theorem State.setReg_grade (s : State) (a : Nat) (v : Word) : (s.setReg a v).grade = s.grade := rfl
@[simp] theorem State.setReg_rmap (s : State) (a : Nat) (v : Word) : (s.setReg a v).rmap = s.rmap := rfl
@[simp] theorem State.setReg_sec (s : State) (a : Nat) (v : Word) : (s.setReg a v).sec = s.sec := rfl
@[simp] theorem State.setReg_dram (s : State) (a : Nat) (v : Word) : (s.setReg a v).dram = s.dram := rfl
@[simp] theorem State.setReg_dramBad (s : State) (a : Nat) (v : Word) : (s.setReg a v).dramBad = s.dramBad := rfl
@[simp] theorem State.setReg_foldDue (s : State) (a : Nat) (v : Word) : (s.setReg a v).foldDue = s.foldDue := rfl
@[simp] theorem State.setReg_gates (s : State) (a : Nat) (v : Word) : (s.setReg a v).gates = s.gates := rfl
@[simp] theorem State.setReg_head (s : State) (a : Nat) (v : Word) : (s.setReg a v).head = s.head := rfl
@[simp] theorem State.setReg_sram (s : State) (a : Nat) (v : Word) : (s.setReg a v).sram = s.sram := rfl
@[simp] theorem State.setReg_sramBad (s : State) (a : Nat) (v : Word) : (s.setReg a v).sramBad = s.sramBad := rfl
@[simp] theorem State.setReg_rowErr (s : State) (a : Nat) (v : Word) : (s.setReg a v).rowErr = s.rowErr := rfl
@[simp] theorem State.setReg_rowLost (s : State) (a : Nat) (v : Word) : (s.setReg a v).rowLost = s.rowLost := rfl
@[simp] theorem State.setReg_rowPardon (s : State) (a : Nat) (v : Word) : (s.setReg a v).rowPardon = s.rowPardon := rfl
@[simp] theorem State.setReg_plans (s : State) (a : Nat) (v : Word) : (s.setReg a v).plans = s.plans := rfl
@[simp] theorem State.setReg_copying (s : State) (a : Nat) (v : Word) : (s.setReg a v).copying = s.copying := rfl
@[simp] theorem State.setReg_edge (s : State) (a : Nat) (v : Word) : (s.setReg a v).edge = s.edge := rfl
@[simp] theorem State.setReg_loops (s : State) (a : Nat) (v : Word) : (s.setReg a v).loops = s.loops := rfl
@[simp] theorem State.setReg_power (s : State) (a : Nat) (v : Word) : (s.setReg a v).power = s.power := rfl
@[simp] theorem State.setReg_fabric (s : State) (a : Nat) (v : Word) : (s.setReg a v).fabric = s.fabric := rfl
@[simp] theorem State.setReg_sdio (s : State) (a : Nat) (v : Word) : (s.setReg a v).sdio = s.sdio := rfl
@[simp] theorem State.setReg_boot (s : State) (a : Nat) (v : Word) : (s.setReg a v).boot = s.boot := rfl
@[simp] theorem State.setReg_testing (s : State) (a : Nat) (v : Word) : (s.setReg a v).testing = s.testing := rfl
@[simp] theorem State.setReg_freeCtr (s : State) (a : Nat) (v : Word) : (s.setReg a v).freeCtr = s.freeCtr := rfl

/-! State.setOwn. -/

@[simp] theorem State.setOwn_pending (s : State) (r : Requester) (a : Nat) (v : Word) : (s.setOwn r a v).pending = s.pending := rfl
@[simp] theorem State.setOwn_regs (s : State) (r : Requester) (a : Nat) (v : Word) : (s.setOwn r a v).regs = s.regs := rfl
@[simp] theorem State.setOwn_resp (s : State) (r : Requester) (a : Nat) (v : Word) : (s.setOwn r a v).resp = s.resp := rfl
@[simp] theorem State.setOwn_time (s : State) (r : Requester) (a : Nat) (v : Word) : (s.setOwn r a v).time = s.time := rfl
@[simp] theorem State.setOwn_stopLine (s : State) (r : Requester) (a : Nat) (v : Word) : (s.setOwn r a v).stopLine = s.stopLine := rfl
@[simp] theorem State.setOwn_f1Int (s : State) (r : Requester) (a : Nat) (v : Word) : (s.setOwn r a v).f1Int = s.f1Int := rfl
@[simp] theorem State.setOwn_evtMask (s : State) (r : Requester) (a : Nat) (v : Word) : (s.setOwn r a v).evtMask = s.evtMask := rfl
@[simp] theorem State.setOwn_evtPend (s : State) (r : Requester) (a : Nat) (v : Word) : (s.setOwn r a v).evtPend = s.evtPend := rfl
@[simp] theorem State.setOwn_dom (s : State) (r : Requester) (a : Nat) (v : Word) : (s.setOwn r a v).dom = s.dom := rfl
@[simp] theorem State.setOwn_grade (s : State) (r : Requester) (a : Nat) (v : Word) : (s.setOwn r a v).grade = s.grade := rfl
@[simp] theorem State.setOwn_rmap (s : State) (r : Requester) (a : Nat) (v : Word) : (s.setOwn r a v).rmap = s.rmap := rfl
@[simp] theorem State.setOwn_sec (s : State) (r : Requester) (a : Nat) (v : Word) : (s.setOwn r a v).sec = s.sec := rfl
@[simp] theorem State.setOwn_dram (s : State) (r : Requester) (a : Nat) (v : Word) : (s.setOwn r a v).dram = s.dram := rfl
@[simp] theorem State.setOwn_dramBad (s : State) (r : Requester) (a : Nat) (v : Word) : (s.setOwn r a v).dramBad = s.dramBad := rfl
@[simp] theorem State.setOwn_foldDue (s : State) (r : Requester) (a : Nat) (v : Word) : (s.setOwn r a v).foldDue = s.foldDue := rfl
@[simp] theorem State.setOwn_gates (s : State) (r : Requester) (a : Nat) (v : Word) : (s.setOwn r a v).gates = s.gates := rfl
@[simp] theorem State.setOwn_head (s : State) (r : Requester) (a : Nat) (v : Word) : (s.setOwn r a v).head = s.head := rfl
@[simp] theorem State.setOwn_sram (s : State) (r : Requester) (a : Nat) (v : Word) : (s.setOwn r a v).sram = s.sram := rfl
@[simp] theorem State.setOwn_sramBad (s : State) (r : Requester) (a : Nat) (v : Word) : (s.setOwn r a v).sramBad = s.sramBad := rfl
@[simp] theorem State.setOwn_rowErr (s : State) (r : Requester) (a : Nat) (v : Word) : (s.setOwn r a v).rowErr = s.rowErr := rfl
@[simp] theorem State.setOwn_rowLost (s : State) (r : Requester) (a : Nat) (v : Word) : (s.setOwn r a v).rowLost = s.rowLost := rfl
@[simp] theorem State.setOwn_rowPardon (s : State) (r : Requester) (a : Nat) (v : Word) : (s.setOwn r a v).rowPardon = s.rowPardon := rfl
@[simp] theorem State.setOwn_plans (s : State) (r : Requester) (a : Nat) (v : Word) : (s.setOwn r a v).plans = s.plans := rfl
@[simp] theorem State.setOwn_copying (s : State) (r : Requester) (a : Nat) (v : Word) : (s.setOwn r a v).copying = s.copying := rfl
@[simp] theorem State.setOwn_edge (s : State) (r : Requester) (a : Nat) (v : Word) : (s.setOwn r a v).edge = s.edge := rfl
@[simp] theorem State.setOwn_loops (s : State) (r : Requester) (a : Nat) (v : Word) : (s.setOwn r a v).loops = s.loops := rfl
@[simp] theorem State.setOwn_power (s : State) (r : Requester) (a : Nat) (v : Word) : (s.setOwn r a v).power = s.power := rfl
@[simp] theorem State.setOwn_fabric (s : State) (r : Requester) (a : Nat) (v : Word) : (s.setOwn r a v).fabric = s.fabric := rfl
@[simp] theorem State.setOwn_sdio (s : State) (r : Requester) (a : Nat) (v : Word) : (s.setOwn r a v).sdio = s.sdio := rfl
@[simp] theorem State.setOwn_boot (s : State) (r : Requester) (a : Nat) (v : Word) : (s.setOwn r a v).boot = s.boot := rfl
@[simp] theorem State.setOwn_testing (s : State) (r : Requester) (a : Nat) (v : Word) : (s.setOwn r a v).testing = s.testing := rfl
@[simp] theorem State.setOwn_freeCtr (s : State) (r : Requester) (a : Nat) (v : Word) : (s.setOwn r a v).freeCtr = s.freeCtr := rfl
@[simp] theorem State.setOwn_reg (s : State) (r : Requester) (a : Nat) (v : Word) (b : Nat) : (s.setOwn r a v).reg b = s.reg b := rfl

/-! State.respond. -/

@[simp] theorem State.respond_pending (s : State) (r : Requester) (c : Nat) (v : Word) : (s.respond r c v).pending = s.pending := rfl
@[simp] theorem State.respond_regs (s : State) (r : Requester) (c : Nat) (v : Word) : (s.respond r c v).regs = s.regs := rfl
@[simp] theorem State.respond_perReq (s : State) (r : Requester) (c : Nat) (v : Word) : (s.respond r c v).perReq = s.perReq := rfl
@[simp] theorem State.respond_time (s : State) (r : Requester) (c : Nat) (v : Word) : (s.respond r c v).time = s.time := rfl
@[simp] theorem State.respond_stopLine (s : State) (r : Requester) (c : Nat) (v : Word) : (s.respond r c v).stopLine = s.stopLine := rfl
@[simp] theorem State.respond_f1Int (s : State) (r : Requester) (c : Nat) (v : Word) : (s.respond r c v).f1Int = s.f1Int := rfl
@[simp] theorem State.respond_evtMask (s : State) (r : Requester) (c : Nat) (v : Word) : (s.respond r c v).evtMask = s.evtMask := rfl
@[simp] theorem State.respond_evtPend (s : State) (r : Requester) (c : Nat) (v : Word) : (s.respond r c v).evtPend = s.evtPend := rfl
@[simp] theorem State.respond_dom (s : State) (r : Requester) (c : Nat) (v : Word) : (s.respond r c v).dom = s.dom := rfl
@[simp] theorem State.respond_grade (s : State) (r : Requester) (c : Nat) (v : Word) : (s.respond r c v).grade = s.grade := rfl
@[simp] theorem State.respond_rmap (s : State) (r : Requester) (c : Nat) (v : Word) : (s.respond r c v).rmap = s.rmap := rfl
@[simp] theorem State.respond_sec (s : State) (r : Requester) (c : Nat) (v : Word) : (s.respond r c v).sec = s.sec := rfl
@[simp] theorem State.respond_dram (s : State) (r : Requester) (c : Nat) (v : Word) : (s.respond r c v).dram = s.dram := rfl
@[simp] theorem State.respond_dramBad (s : State) (r : Requester) (c : Nat) (v : Word) : (s.respond r c v).dramBad = s.dramBad := rfl
@[simp] theorem State.respond_foldDue (s : State) (r : Requester) (c : Nat) (v : Word) : (s.respond r c v).foldDue = s.foldDue := rfl
@[simp] theorem State.respond_gates (s : State) (r : Requester) (c : Nat) (v : Word) : (s.respond r c v).gates = s.gates := rfl
@[simp] theorem State.respond_head (s : State) (r : Requester) (c : Nat) (v : Word) : (s.respond r c v).head = s.head := rfl
@[simp] theorem State.respond_sram (s : State) (r : Requester) (c : Nat) (v : Word) : (s.respond r c v).sram = s.sram := rfl
@[simp] theorem State.respond_sramBad (s : State) (r : Requester) (c : Nat) (v : Word) : (s.respond r c v).sramBad = s.sramBad := rfl
@[simp] theorem State.respond_rowErr (s : State) (r : Requester) (c : Nat) (v : Word) : (s.respond r c v).rowErr = s.rowErr := rfl
@[simp] theorem State.respond_rowLost (s : State) (r : Requester) (c : Nat) (v : Word) : (s.respond r c v).rowLost = s.rowLost := rfl
@[simp] theorem State.respond_rowPardon (s : State) (r : Requester) (c : Nat) (v : Word) : (s.respond r c v).rowPardon = s.rowPardon := rfl
@[simp] theorem State.respond_plans (s : State) (r : Requester) (c : Nat) (v : Word) : (s.respond r c v).plans = s.plans := rfl
@[simp] theorem State.respond_copying (s : State) (r : Requester) (c : Nat) (v : Word) : (s.respond r c v).copying = s.copying := rfl
@[simp] theorem State.respond_edge (s : State) (r : Requester) (c : Nat) (v : Word) : (s.respond r c v).edge = s.edge := rfl
@[simp] theorem State.respond_loops (s : State) (r : Requester) (c : Nat) (v : Word) : (s.respond r c v).loops = s.loops := rfl
@[simp] theorem State.respond_power (s : State) (r : Requester) (c : Nat) (v : Word) : (s.respond r c v).power = s.power := rfl
@[simp] theorem State.respond_fabric (s : State) (r : Requester) (c : Nat) (v : Word) : (s.respond r c v).fabric = s.fabric := rfl
@[simp] theorem State.respond_sdio (s : State) (r : Requester) (c : Nat) (v : Word) : (s.respond r c v).sdio = s.sdio := rfl
@[simp] theorem State.respond_boot (s : State) (r : Requester) (c : Nat) (v : Word) : (s.respond r c v).boot = s.boot := rfl
@[simp] theorem State.respond_testing (s : State) (r : Requester) (c : Nat) (v : Word) : (s.respond r c v).testing = s.testing := rfl
@[simp] theorem State.respond_freeCtr (s : State) (r : Requester) (c : Nat) (v : Word) : (s.respond r c v).freeCtr = s.freeCtr := rfl
@[simp] theorem State.respond_reg (s : State) (r : Requester) (c : Nat) (v : Word) (b : Nat) : (s.respond r c v).reg b = s.reg b := rfl

/-! State.setTc. -/

@[simp] theorem State.setTc_pending (s : State) (n : Nat) (c : Tc) : (s.setTc n c).pending = s.pending := rfl
@[simp] theorem State.setTc_regs (s : State) (n : Nat) (c : Tc) : (s.setTc n c).regs = s.regs := rfl
@[simp] theorem State.setTc_perReq (s : State) (n : Nat) (c : Tc) : (s.setTc n c).perReq = s.perReq := rfl
@[simp] theorem State.setTc_resp (s : State) (n : Nat) (c : Tc) : (s.setTc n c).resp = s.resp := rfl
@[simp] theorem State.setTc_stopLine (s : State) (n : Nat) (c : Tc) : (s.setTc n c).stopLine = s.stopLine := rfl
@[simp] theorem State.setTc_f1Int (s : State) (n : Nat) (c : Tc) : (s.setTc n c).f1Int = s.f1Int := rfl
@[simp] theorem State.setTc_evtMask (s : State) (n : Nat) (c : Tc) : (s.setTc n c).evtMask = s.evtMask := rfl
@[simp] theorem State.setTc_evtPend (s : State) (n : Nat) (c : Tc) : (s.setTc n c).evtPend = s.evtPend := rfl
@[simp] theorem State.setTc_dom (s : State) (n : Nat) (c : Tc) : (s.setTc n c).dom = s.dom := rfl
@[simp] theorem State.setTc_grade (s : State) (n : Nat) (c : Tc) : (s.setTc n c).grade = s.grade := rfl
@[simp] theorem State.setTc_rmap (s : State) (n : Nat) (c : Tc) : (s.setTc n c).rmap = s.rmap := rfl
@[simp] theorem State.setTc_sec (s : State) (n : Nat) (c : Tc) : (s.setTc n c).sec = s.sec := rfl
@[simp] theorem State.setTc_dram (s : State) (n : Nat) (c : Tc) : (s.setTc n c).dram = s.dram := rfl
@[simp] theorem State.setTc_dramBad (s : State) (n : Nat) (c : Tc) : (s.setTc n c).dramBad = s.dramBad := rfl
@[simp] theorem State.setTc_foldDue (s : State) (n : Nat) (c : Tc) : (s.setTc n c).foldDue = s.foldDue := rfl
@[simp] theorem State.setTc_gates (s : State) (n : Nat) (c : Tc) : (s.setTc n c).gates = s.gates := rfl
@[simp] theorem State.setTc_head (s : State) (n : Nat) (c : Tc) : (s.setTc n c).head = s.head := rfl
@[simp] theorem State.setTc_sram (s : State) (n : Nat) (c : Tc) : (s.setTc n c).sram = s.sram := rfl
@[simp] theorem State.setTc_sramBad (s : State) (n : Nat) (c : Tc) : (s.setTc n c).sramBad = s.sramBad := rfl
@[simp] theorem State.setTc_rowErr (s : State) (n : Nat) (c : Tc) : (s.setTc n c).rowErr = s.rowErr := rfl
@[simp] theorem State.setTc_rowLost (s : State) (n : Nat) (c : Tc) : (s.setTc n c).rowLost = s.rowLost := rfl
@[simp] theorem State.setTc_rowPardon (s : State) (n : Nat) (c : Tc) : (s.setTc n c).rowPardon = s.rowPardon := rfl
@[simp] theorem State.setTc_plans (s : State) (n : Nat) (c : Tc) : (s.setTc n c).plans = s.plans := rfl
@[simp] theorem State.setTc_copying (s : State) (n : Nat) (c : Tc) : (s.setTc n c).copying = s.copying := rfl
@[simp] theorem State.setTc_edge (s : State) (n : Nat) (c : Tc) : (s.setTc n c).edge = s.edge := rfl
@[simp] theorem State.setTc_loops (s : State) (n : Nat) (c : Tc) : (s.setTc n c).loops = s.loops := rfl
@[simp] theorem State.setTc_power (s : State) (n : Nat) (c : Tc) : (s.setTc n c).power = s.power := rfl
@[simp] theorem State.setTc_fabric (s : State) (n : Nat) (c : Tc) : (s.setTc n c).fabric = s.fabric := rfl
@[simp] theorem State.setTc_sdio (s : State) (n : Nat) (c : Tc) : (s.setTc n c).sdio = s.sdio := rfl
@[simp] theorem State.setTc_boot (s : State) (n : Nat) (c : Tc) : (s.setTc n c).boot = s.boot := rfl
@[simp] theorem State.setTc_testing (s : State) (n : Nat) (c : Tc) : (s.setTc n c).testing = s.testing := rfl
@[simp] theorem State.setTc_freeCtr (s : State) (n : Nat) (c : Tc) : (s.setTc n c).freeCtr = s.freeCtr := rfl
@[simp] theorem State.setTc_reg (s : State) (n : Nat) (c : Tc) (b : Nat) : (s.setTc n c).reg b = s.reg b := rfl

/-! State.setSlotW. -/

@[simp] theorem State.setSlotW_pending (s : State) (k w : Nat) (v : Word) : (s.setSlotW k w v).pending = s.pending := rfl
@[simp] theorem State.setSlotW_regs (s : State) (k w : Nat) (v : Word) : (s.setSlotW k w v).regs = s.regs := rfl
@[simp] theorem State.setSlotW_perReq (s : State) (k w : Nat) (v : Word) : (s.setSlotW k w v).perReq = s.perReq := rfl
@[simp] theorem State.setSlotW_resp (s : State) (k w : Nat) (v : Word) : (s.setSlotW k w v).resp = s.resp := rfl
@[simp] theorem State.setSlotW_stopLine (s : State) (k w : Nat) (v : Word) : (s.setSlotW k w v).stopLine = s.stopLine := rfl
@[simp] theorem State.setSlotW_f1Int (s : State) (k w : Nat) (v : Word) : (s.setSlotW k w v).f1Int = s.f1Int := rfl
@[simp] theorem State.setSlotW_evtMask (s : State) (k w : Nat) (v : Word) : (s.setSlotW k w v).evtMask = s.evtMask := rfl
@[simp] theorem State.setSlotW_evtPend (s : State) (k w : Nat) (v : Word) : (s.setSlotW k w v).evtPend = s.evtPend := rfl
@[simp] theorem State.setSlotW_dom (s : State) (k w : Nat) (v : Word) : (s.setSlotW k w v).dom = s.dom := rfl
@[simp] theorem State.setSlotW_grade (s : State) (k w : Nat) (v : Word) : (s.setSlotW k w v).grade = s.grade := rfl
@[simp] theorem State.setSlotW_rmap (s : State) (k w : Nat) (v : Word) : (s.setSlotW k w v).rmap = s.rmap := rfl
@[simp] theorem State.setSlotW_sec (s : State) (k w : Nat) (v : Word) : (s.setSlotW k w v).sec = s.sec := rfl
@[simp] theorem State.setSlotW_dram (s : State) (k w : Nat) (v : Word) : (s.setSlotW k w v).dram = s.dram := rfl
@[simp] theorem State.setSlotW_dramBad (s : State) (k w : Nat) (v : Word) : (s.setSlotW k w v).dramBad = s.dramBad := rfl
@[simp] theorem State.setSlotW_foldDue (s : State) (k w : Nat) (v : Word) : (s.setSlotW k w v).foldDue = s.foldDue := rfl
@[simp] theorem State.setSlotW_gates (s : State) (k w : Nat) (v : Word) : (s.setSlotW k w v).gates = s.gates := rfl
@[simp] theorem State.setSlotW_head (s : State) (k w : Nat) (v : Word) : (s.setSlotW k w v).head = s.head := rfl
@[simp] theorem State.setSlotW_sram (s : State) (k w : Nat) (v : Word) : (s.setSlotW k w v).sram = s.sram := rfl
@[simp] theorem State.setSlotW_sramBad (s : State) (k w : Nat) (v : Word) : (s.setSlotW k w v).sramBad = s.sramBad := rfl
@[simp] theorem State.setSlotW_rowErr (s : State) (k w : Nat) (v : Word) : (s.setSlotW k w v).rowErr = s.rowErr := rfl
@[simp] theorem State.setSlotW_rowLost (s : State) (k w : Nat) (v : Word) : (s.setSlotW k w v).rowLost = s.rowLost := rfl
@[simp] theorem State.setSlotW_rowPardon (s : State) (k w : Nat) (v : Word) : (s.setSlotW k w v).rowPardon = s.rowPardon := rfl
@[simp] theorem State.setSlotW_plans (s : State) (k w : Nat) (v : Word) : (s.setSlotW k w v).plans = s.plans := rfl
@[simp] theorem State.setSlotW_copying (s : State) (k w : Nat) (v : Word) : (s.setSlotW k w v).copying = s.copying := rfl
@[simp] theorem State.setSlotW_edge (s : State) (k w : Nat) (v : Word) : (s.setSlotW k w v).edge = s.edge := rfl
@[simp] theorem State.setSlotW_loops (s : State) (k w : Nat) (v : Word) : (s.setSlotW k w v).loops = s.loops := rfl
@[simp] theorem State.setSlotW_power (s : State) (k w : Nat) (v : Word) : (s.setSlotW k w v).power = s.power := rfl
@[simp] theorem State.setSlotW_fabric (s : State) (k w : Nat) (v : Word) : (s.setSlotW k w v).fabric = s.fabric := rfl
@[simp] theorem State.setSlotW_sdio (s : State) (k w : Nat) (v : Word) : (s.setSlotW k w v).sdio = s.sdio := rfl
@[simp] theorem State.setSlotW_boot (s : State) (k w : Nat) (v : Word) : (s.setSlotW k w v).boot = s.boot := rfl
@[simp] theorem State.setSlotW_testing (s : State) (k w : Nat) (v : Word) : (s.setSlotW k w v).testing = s.testing := rfl
@[simp] theorem State.setSlotW_freeCtr (s : State) (k w : Nat) (v : Word) : (s.setSlotW k w v).freeCtr = s.freeCtr := rfl
@[simp] theorem State.setSlotW_reg (s : State) (k w : Nat) (v : Word) (b : Nat) : (s.setSlotW k w v).reg b = s.reg b := rfl

/-! State.setRm. -/

@[simp] theorem State.setRm_pending (s : State) (i : Nat) (v : Word) : (s.setRm i v).pending = s.pending := rfl
@[simp] theorem State.setRm_regs (s : State) (i : Nat) (v : Word) : (s.setRm i v).regs = s.regs := rfl
@[simp] theorem State.setRm_perReq (s : State) (i : Nat) (v : Word) : (s.setRm i v).perReq = s.perReq := rfl
@[simp] theorem State.setRm_resp (s : State) (i : Nat) (v : Word) : (s.setRm i v).resp = s.resp := rfl
@[simp] theorem State.setRm_time (s : State) (i : Nat) (v : Word) : (s.setRm i v).time = s.time := rfl
@[simp] theorem State.setRm_stopLine (s : State) (i : Nat) (v : Word) : (s.setRm i v).stopLine = s.stopLine := rfl
@[simp] theorem State.setRm_f1Int (s : State) (i : Nat) (v : Word) : (s.setRm i v).f1Int = s.f1Int := rfl
@[simp] theorem State.setRm_evtMask (s : State) (i : Nat) (v : Word) : (s.setRm i v).evtMask = s.evtMask := rfl
@[simp] theorem State.setRm_evtPend (s : State) (i : Nat) (v : Word) : (s.setRm i v).evtPend = s.evtPend := rfl
@[simp] theorem State.setRm_dom (s : State) (i : Nat) (v : Word) : (s.setRm i v).dom = s.dom := rfl
@[simp] theorem State.setRm_grade (s : State) (i : Nat) (v : Word) : (s.setRm i v).grade = s.grade := rfl
@[simp] theorem State.setRm_sec (s : State) (i : Nat) (v : Word) : (s.setRm i v).sec = s.sec := rfl
@[simp] theorem State.setRm_dram (s : State) (i : Nat) (v : Word) : (s.setRm i v).dram = s.dram := rfl
@[simp] theorem State.setRm_dramBad (s : State) (i : Nat) (v : Word) : (s.setRm i v).dramBad = s.dramBad := rfl
@[simp] theorem State.setRm_foldDue (s : State) (i : Nat) (v : Word) : (s.setRm i v).foldDue = s.foldDue := rfl
@[simp] theorem State.setRm_gates (s : State) (i : Nat) (v : Word) : (s.setRm i v).gates = s.gates := rfl
@[simp] theorem State.setRm_head (s : State) (i : Nat) (v : Word) : (s.setRm i v).head = s.head := rfl
@[simp] theorem State.setRm_sram (s : State) (i : Nat) (v : Word) : (s.setRm i v).sram = s.sram := rfl
@[simp] theorem State.setRm_sramBad (s : State) (i : Nat) (v : Word) : (s.setRm i v).sramBad = s.sramBad := rfl
@[simp] theorem State.setRm_rowErr (s : State) (i : Nat) (v : Word) : (s.setRm i v).rowErr = s.rowErr := rfl
@[simp] theorem State.setRm_rowLost (s : State) (i : Nat) (v : Word) : (s.setRm i v).rowLost = s.rowLost := rfl
@[simp] theorem State.setRm_rowPardon (s : State) (i : Nat) (v : Word) : (s.setRm i v).rowPardon = s.rowPardon := rfl
@[simp] theorem State.setRm_plans (s : State) (i : Nat) (v : Word) : (s.setRm i v).plans = s.plans := rfl
@[simp] theorem State.setRm_copying (s : State) (i : Nat) (v : Word) : (s.setRm i v).copying = s.copying := rfl
@[simp] theorem State.setRm_edge (s : State) (i : Nat) (v : Word) : (s.setRm i v).edge = s.edge := rfl
@[simp] theorem State.setRm_loops (s : State) (i : Nat) (v : Word) : (s.setRm i v).loops = s.loops := rfl
@[simp] theorem State.setRm_power (s : State) (i : Nat) (v : Word) : (s.setRm i v).power = s.power := rfl
@[simp] theorem State.setRm_fabric (s : State) (i : Nat) (v : Word) : (s.setRm i v).fabric = s.fabric := rfl
@[simp] theorem State.setRm_sdio (s : State) (i : Nat) (v : Word) : (s.setRm i v).sdio = s.sdio := rfl
@[simp] theorem State.setRm_boot (s : State) (i : Nat) (v : Word) : (s.setRm i v).boot = s.boot := rfl
@[simp] theorem State.setRm_testing (s : State) (i : Nat) (v : Word) : (s.setRm i v).testing = s.testing := rfl
@[simp] theorem State.setRm_freeCtr (s : State) (i : Nat) (v : Word) : (s.setRm i v).freeCtr = s.freeCtr := rfl
@[simp] theorem State.setRm_reg (s : State) (i : Nat) (v : Word) (b : Nat) : (s.setRm i v).reg b = s.reg b := rfl

/-! State.setDomain. -/

@[simp] theorem State.setDomain_pending (s : State) (d v : Nat) : (s.setDomain d v).pending = s.pending := rfl
@[simp] theorem State.setDomain_regs (s : State) (d v : Nat) : (s.setDomain d v).regs = s.regs := rfl
@[simp] theorem State.setDomain_perReq (s : State) (d v : Nat) : (s.setDomain d v).perReq = s.perReq := rfl
@[simp] theorem State.setDomain_resp (s : State) (d v : Nat) : (s.setDomain d v).resp = s.resp := rfl
@[simp] theorem State.setDomain_time (s : State) (d v : Nat) : (s.setDomain d v).time = s.time := rfl
@[simp] theorem State.setDomain_stopLine (s : State) (d v : Nat) : (s.setDomain d v).stopLine = s.stopLine := rfl
@[simp] theorem State.setDomain_f1Int (s : State) (d v : Nat) : (s.setDomain d v).f1Int = s.f1Int := rfl
@[simp] theorem State.setDomain_evtMask (s : State) (d v : Nat) : (s.setDomain d v).evtMask = s.evtMask := rfl
@[simp] theorem State.setDomain_evtPend (s : State) (d v : Nat) : (s.setDomain d v).evtPend = s.evtPend := rfl
@[simp] theorem State.setDomain_grade (s : State) (d v : Nat) : (s.setDomain d v).grade = s.grade := rfl
@[simp] theorem State.setDomain_rmap (s : State) (d v : Nat) : (s.setDomain d v).rmap = s.rmap := rfl
@[simp] theorem State.setDomain_sec (s : State) (d v : Nat) : (s.setDomain d v).sec = s.sec := rfl
@[simp] theorem State.setDomain_dram (s : State) (d v : Nat) : (s.setDomain d v).dram = s.dram := rfl
@[simp] theorem State.setDomain_dramBad (s : State) (d v : Nat) : (s.setDomain d v).dramBad = s.dramBad := rfl
@[simp] theorem State.setDomain_foldDue (s : State) (d v : Nat) : (s.setDomain d v).foldDue = s.foldDue := rfl
@[simp] theorem State.setDomain_gates (s : State) (d v : Nat) : (s.setDomain d v).gates = s.gates := rfl
@[simp] theorem State.setDomain_head (s : State) (d v : Nat) : (s.setDomain d v).head = s.head := rfl
@[simp] theorem State.setDomain_sram (s : State) (d v : Nat) : (s.setDomain d v).sram = s.sram := rfl
@[simp] theorem State.setDomain_sramBad (s : State) (d v : Nat) : (s.setDomain d v).sramBad = s.sramBad := rfl
@[simp] theorem State.setDomain_rowErr (s : State) (d v : Nat) : (s.setDomain d v).rowErr = s.rowErr := rfl
@[simp] theorem State.setDomain_rowLost (s : State) (d v : Nat) : (s.setDomain d v).rowLost = s.rowLost := rfl
@[simp] theorem State.setDomain_rowPardon (s : State) (d v : Nat) : (s.setDomain d v).rowPardon = s.rowPardon := rfl
@[simp] theorem State.setDomain_plans (s : State) (d v : Nat) : (s.setDomain d v).plans = s.plans := rfl
@[simp] theorem State.setDomain_copying (s : State) (d v : Nat) : (s.setDomain d v).copying = s.copying := rfl
@[simp] theorem State.setDomain_edge (s : State) (d v : Nat) : (s.setDomain d v).edge = s.edge := rfl
@[simp] theorem State.setDomain_loops (s : State) (d v : Nat) : (s.setDomain d v).loops = s.loops := rfl
@[simp] theorem State.setDomain_sdio (s : State) (d v : Nat) : (s.setDomain d v).sdio = s.sdio := rfl
@[simp] theorem State.setDomain_boot (s : State) (d v : Nat) : (s.setDomain d v).boot = s.boot := rfl
@[simp] theorem State.setDomain_testing (s : State) (d v : Nat) : (s.setDomain d v).testing = s.testing := rfl
@[simp] theorem State.setDomain_freeCtr (s : State) (d v : Nat) : (s.setDomain d v).freeCtr = s.freeCtr := rfl
@[simp] theorem State.setDomain_reg (s : State) (d v : Nat) (b : Nat) : (s.setDomain d v).reg b = s.reg b := rfl

/-! State.setCtx. -/

@[simp] theorem State.setCtx_pending (s : State) (c : Nat) (x : Ctx) : (s.setCtx c x).pending = s.pending := rfl
@[simp] theorem State.setCtx_regs (s : State) (c : Nat) (x : Ctx) : (s.setCtx c x).regs = s.regs := rfl
@[simp] theorem State.setCtx_perReq (s : State) (c : Nat) (x : Ctx) : (s.setCtx c x).perReq = s.perReq := rfl
@[simp] theorem State.setCtx_resp (s : State) (c : Nat) (x : Ctx) : (s.setCtx c x).resp = s.resp := rfl
@[simp] theorem State.setCtx_time (s : State) (c : Nat) (x : Ctx) : (s.setCtx c x).time = s.time := rfl
@[simp] theorem State.setCtx_stopLine (s : State) (c : Nat) (x : Ctx) : (s.setCtx c x).stopLine = s.stopLine := rfl
@[simp] theorem State.setCtx_f1Int (s : State) (c : Nat) (x : Ctx) : (s.setCtx c x).f1Int = s.f1Int := rfl
@[simp] theorem State.setCtx_evtMask (s : State) (c : Nat) (x : Ctx) : (s.setCtx c x).evtMask = s.evtMask := rfl
@[simp] theorem State.setCtx_evtPend (s : State) (c : Nat) (x : Ctx) : (s.setCtx c x).evtPend = s.evtPend := rfl
@[simp] theorem State.setCtx_dom (s : State) (c : Nat) (x : Ctx) : (s.setCtx c x).dom = s.dom := rfl
@[simp] theorem State.setCtx_grade (s : State) (c : Nat) (x : Ctx) : (s.setCtx c x).grade = s.grade := rfl
@[simp] theorem State.setCtx_rmap (s : State) (c : Nat) (x : Ctx) : (s.setCtx c x).rmap = s.rmap := rfl
@[simp] theorem State.setCtx_sec (s : State) (c : Nat) (x : Ctx) : (s.setCtx c x).sec = s.sec := rfl
@[simp] theorem State.setCtx_dram (s : State) (c : Nat) (x : Ctx) : (s.setCtx c x).dram = s.dram := rfl
@[simp] theorem State.setCtx_dramBad (s : State) (c : Nat) (x : Ctx) : (s.setCtx c x).dramBad = s.dramBad := rfl
@[simp] theorem State.setCtx_foldDue (s : State) (c : Nat) (x : Ctx) : (s.setCtx c x).foldDue = s.foldDue := rfl
@[simp] theorem State.setCtx_gates (s : State) (c : Nat) (x : Ctx) : (s.setCtx c x).gates = s.gates := rfl
@[simp] theorem State.setCtx_sram (s : State) (c : Nat) (x : Ctx) : (s.setCtx c x).sram = s.sram := rfl
@[simp] theorem State.setCtx_sramBad (s : State) (c : Nat) (x : Ctx) : (s.setCtx c x).sramBad = s.sramBad := rfl
@[simp] theorem State.setCtx_rowErr (s : State) (c : Nat) (x : Ctx) : (s.setCtx c x).rowErr = s.rowErr := rfl
@[simp] theorem State.setCtx_rowLost (s : State) (c : Nat) (x : Ctx) : (s.setCtx c x).rowLost = s.rowLost := rfl
@[simp] theorem State.setCtx_rowPardon (s : State) (c : Nat) (x : Ctx) : (s.setCtx c x).rowPardon = s.rowPardon := rfl
@[simp] theorem State.setCtx_plans (s : State) (c : Nat) (x : Ctx) : (s.setCtx c x).plans = s.plans := rfl
@[simp] theorem State.setCtx_copying (s : State) (c : Nat) (x : Ctx) : (s.setCtx c x).copying = s.copying := rfl
@[simp] theorem State.setCtx_edge (s : State) (c : Nat) (x : Ctx) : (s.setCtx c x).edge = s.edge := rfl
@[simp] theorem State.setCtx_loops (s : State) (c : Nat) (x : Ctx) : (s.setCtx c x).loops = s.loops := rfl
@[simp] theorem State.setCtx_power (s : State) (c : Nat) (x : Ctx) : (s.setCtx c x).power = s.power := rfl
@[simp] theorem State.setCtx_fabric (s : State) (c : Nat) (x : Ctx) : (s.setCtx c x).fabric = s.fabric := rfl
@[simp] theorem State.setCtx_sdio (s : State) (c : Nat) (x : Ctx) : (s.setCtx c x).sdio = s.sdio := rfl
@[simp] theorem State.setCtx_boot (s : State) (c : Nat) (x : Ctx) : (s.setCtx c x).boot = s.boot := rfl
@[simp] theorem State.setCtx_testing (s : State) (c : Nat) (x : Ctx) : (s.setCtx c x).testing = s.testing := rfl
@[simp] theorem State.setCtx_freeCtr (s : State) (c : Nat) (x : Ctx) : (s.setCtx c x).freeCtr = s.freeCtr := rfl
@[simp] theorem State.setCtx_reg (s : State) (c : Nat) (x : Ctx) (b : Nat) : (s.setCtx c x).reg b = s.reg b := rfl

/-! State.setHg. -/

@[simp] theorem State.setHg_pending (s : State) (c off : Nat) (v : Word) : (s.setHg c off v).pending = s.pending := rfl
@[simp] theorem State.setHg_regs (s : State) (c off : Nat) (v : Word) : (s.setHg c off v).regs = s.regs := rfl
@[simp] theorem State.setHg_perReq (s : State) (c off : Nat) (v : Word) : (s.setHg c off v).perReq = s.perReq := rfl
@[simp] theorem State.setHg_resp (s : State) (c off : Nat) (v : Word) : (s.setHg c off v).resp = s.resp := rfl
@[simp] theorem State.setHg_time (s : State) (c off : Nat) (v : Word) : (s.setHg c off v).time = s.time := rfl
@[simp] theorem State.setHg_stopLine (s : State) (c off : Nat) (v : Word) : (s.setHg c off v).stopLine = s.stopLine := rfl
@[simp] theorem State.setHg_f1Int (s : State) (c off : Nat) (v : Word) : (s.setHg c off v).f1Int = s.f1Int := rfl
@[simp] theorem State.setHg_evtMask (s : State) (c off : Nat) (v : Word) : (s.setHg c off v).evtMask = s.evtMask := rfl
@[simp] theorem State.setHg_evtPend (s : State) (c off : Nat) (v : Word) : (s.setHg c off v).evtPend = s.evtPend := rfl
@[simp] theorem State.setHg_dom (s : State) (c off : Nat) (v : Word) : (s.setHg c off v).dom = s.dom := rfl
@[simp] theorem State.setHg_grade (s : State) (c off : Nat) (v : Word) : (s.setHg c off v).grade = s.grade := rfl
@[simp] theorem State.setHg_rmap (s : State) (c off : Nat) (v : Word) : (s.setHg c off v).rmap = s.rmap := rfl
@[simp] theorem State.setHg_sec (s : State) (c off : Nat) (v : Word) : (s.setHg c off v).sec = s.sec := rfl
@[simp] theorem State.setHg_dram (s : State) (c off : Nat) (v : Word) : (s.setHg c off v).dram = s.dram := rfl
@[simp] theorem State.setHg_dramBad (s : State) (c off : Nat) (v : Word) : (s.setHg c off v).dramBad = s.dramBad := rfl
@[simp] theorem State.setHg_foldDue (s : State) (c off : Nat) (v : Word) : (s.setHg c off v).foldDue = s.foldDue := rfl
@[simp] theorem State.setHg_gates (s : State) (c off : Nat) (v : Word) : (s.setHg c off v).gates = s.gates := rfl
@[simp] theorem State.setHg_sram (s : State) (c off : Nat) (v : Word) : (s.setHg c off v).sram = s.sram := rfl
@[simp] theorem State.setHg_sramBad (s : State) (c off : Nat) (v : Word) : (s.setHg c off v).sramBad = s.sramBad := rfl
@[simp] theorem State.setHg_rowErr (s : State) (c off : Nat) (v : Word) : (s.setHg c off v).rowErr = s.rowErr := rfl
@[simp] theorem State.setHg_rowLost (s : State) (c off : Nat) (v : Word) : (s.setHg c off v).rowLost = s.rowLost := rfl
@[simp] theorem State.setHg_rowPardon (s : State) (c off : Nat) (v : Word) : (s.setHg c off v).rowPardon = s.rowPardon := rfl
@[simp] theorem State.setHg_plans (s : State) (c off : Nat) (v : Word) : (s.setHg c off v).plans = s.plans := rfl
@[simp] theorem State.setHg_copying (s : State) (c off : Nat) (v : Word) : (s.setHg c off v).copying = s.copying := rfl
@[simp] theorem State.setHg_edge (s : State) (c off : Nat) (v : Word) : (s.setHg c off v).edge = s.edge := rfl
@[simp] theorem State.setHg_loops (s : State) (c off : Nat) (v : Word) : (s.setHg c off v).loops = s.loops := rfl
@[simp] theorem State.setHg_power (s : State) (c off : Nat) (v : Word) : (s.setHg c off v).power = s.power := rfl
@[simp] theorem State.setHg_fabric (s : State) (c off : Nat) (v : Word) : (s.setHg c off v).fabric = s.fabric := rfl
@[simp] theorem State.setHg_sdio (s : State) (c off : Nat) (v : Word) : (s.setHg c off v).sdio = s.sdio := rfl
@[simp] theorem State.setHg_boot (s : State) (c off : Nat) (v : Word) : (s.setHg c off v).boot = s.boot := rfl
@[simp] theorem State.setHg_testing (s : State) (c off : Nat) (v : Word) : (s.setHg c off v).testing = s.testing := rfl
@[simp] theorem State.setHg_freeCtr (s : State) (c off : Nat) (v : Word) : (s.setHg c off v).freeCtr = s.freeCtr := rfl
@[simp] theorem State.setHg_reg (s : State) (c off : Nat) (v : Word) (b : Nat) : (s.setHg c off v).reg b = s.reg b := rfl

/-! State.setGate. -/

@[simp] theorem State.setGate_pending (s : State) (g : Nat) (x : Gate) : (s.setGate g x).pending = s.pending := rfl
@[simp] theorem State.setGate_regs (s : State) (g : Nat) (x : Gate) : (s.setGate g x).regs = s.regs := rfl
@[simp] theorem State.setGate_perReq (s : State) (g : Nat) (x : Gate) : (s.setGate g x).perReq = s.perReq := rfl
@[simp] theorem State.setGate_resp (s : State) (g : Nat) (x : Gate) : (s.setGate g x).resp = s.resp := rfl
@[simp] theorem State.setGate_time (s : State) (g : Nat) (x : Gate) : (s.setGate g x).time = s.time := rfl
@[simp] theorem State.setGate_stopLine (s : State) (g : Nat) (x : Gate) : (s.setGate g x).stopLine = s.stopLine := rfl
@[simp] theorem State.setGate_f1Int (s : State) (g : Nat) (x : Gate) : (s.setGate g x).f1Int = s.f1Int := rfl
@[simp] theorem State.setGate_evtMask (s : State) (g : Nat) (x : Gate) : (s.setGate g x).evtMask = s.evtMask := rfl
@[simp] theorem State.setGate_evtPend (s : State) (g : Nat) (x : Gate) : (s.setGate g x).evtPend = s.evtPend := rfl
@[simp] theorem State.setGate_dom (s : State) (g : Nat) (x : Gate) : (s.setGate g x).dom = s.dom := rfl
@[simp] theorem State.setGate_grade (s : State) (g : Nat) (x : Gate) : (s.setGate g x).grade = s.grade := rfl
@[simp] theorem State.setGate_rmap (s : State) (g : Nat) (x : Gate) : (s.setGate g x).rmap = s.rmap := rfl
@[simp] theorem State.setGate_sec (s : State) (g : Nat) (x : Gate) : (s.setGate g x).sec = s.sec := rfl
@[simp] theorem State.setGate_dram (s : State) (g : Nat) (x : Gate) : (s.setGate g x).dram = s.dram := rfl
@[simp] theorem State.setGate_dramBad (s : State) (g : Nat) (x : Gate) : (s.setGate g x).dramBad = s.dramBad := rfl
@[simp] theorem State.setGate_foldDue (s : State) (g : Nat) (x : Gate) : (s.setGate g x).foldDue = s.foldDue := rfl
@[simp] theorem State.setGate_head (s : State) (g : Nat) (x : Gate) : (s.setGate g x).head = s.head := rfl
@[simp] theorem State.setGate_sram (s : State) (g : Nat) (x : Gate) : (s.setGate g x).sram = s.sram := rfl
@[simp] theorem State.setGate_sramBad (s : State) (g : Nat) (x : Gate) : (s.setGate g x).sramBad = s.sramBad := rfl
@[simp] theorem State.setGate_rowErr (s : State) (g : Nat) (x : Gate) : (s.setGate g x).rowErr = s.rowErr := rfl
@[simp] theorem State.setGate_rowLost (s : State) (g : Nat) (x : Gate) : (s.setGate g x).rowLost = s.rowLost := rfl
@[simp] theorem State.setGate_rowPardon (s : State) (g : Nat) (x : Gate) : (s.setGate g x).rowPardon = s.rowPardon := rfl
@[simp] theorem State.setGate_plans (s : State) (g : Nat) (x : Gate) : (s.setGate g x).plans = s.plans := rfl
@[simp] theorem State.setGate_copying (s : State) (g : Nat) (x : Gate) : (s.setGate g x).copying = s.copying := rfl
@[simp] theorem State.setGate_edge (s : State) (g : Nat) (x : Gate) : (s.setGate g x).edge = s.edge := rfl
@[simp] theorem State.setGate_loops (s : State) (g : Nat) (x : Gate) : (s.setGate g x).loops = s.loops := rfl
@[simp] theorem State.setGate_power (s : State) (g : Nat) (x : Gate) : (s.setGate g x).power = s.power := rfl
@[simp] theorem State.setGate_fabric (s : State) (g : Nat) (x : Gate) : (s.setGate g x).fabric = s.fabric := rfl
@[simp] theorem State.setGate_sdio (s : State) (g : Nat) (x : Gate) : (s.setGate g x).sdio = s.sdio := rfl
@[simp] theorem State.setGate_boot (s : State) (g : Nat) (x : Gate) : (s.setGate g x).boot = s.boot := rfl
@[simp] theorem State.setGate_testing (s : State) (g : Nat) (x : Gate) : (s.setGate g x).testing = s.testing := rfl
@[simp] theorem State.setGate_freeCtr (s : State) (g : Nat) (x : Gate) : (s.setGate g x).freeCtr = s.freeCtr := rfl
@[simp] theorem State.setGate_reg (s : State) (g : Nat) (x : Gate) (b : Nat) : (s.setGate g x).reg b = s.reg b := rfl

/-! State.setLineBad. -/

@[simp] theorem State.setLineBad_pending (s : State) (line n : Nat) : (s.setLineBad line n).pending = s.pending := rfl
@[simp] theorem State.setLineBad_regs (s : State) (line n : Nat) : (s.setLineBad line n).regs = s.regs := rfl
@[simp] theorem State.setLineBad_perReq (s : State) (line n : Nat) : (s.setLineBad line n).perReq = s.perReq := rfl
@[simp] theorem State.setLineBad_resp (s : State) (line n : Nat) : (s.setLineBad line n).resp = s.resp := rfl
@[simp] theorem State.setLineBad_time (s : State) (line n : Nat) : (s.setLineBad line n).time = s.time := rfl
@[simp] theorem State.setLineBad_stopLine (s : State) (line n : Nat) : (s.setLineBad line n).stopLine = s.stopLine := rfl
@[simp] theorem State.setLineBad_f1Int (s : State) (line n : Nat) : (s.setLineBad line n).f1Int = s.f1Int := rfl
@[simp] theorem State.setLineBad_evtMask (s : State) (line n : Nat) : (s.setLineBad line n).evtMask = s.evtMask := rfl
@[simp] theorem State.setLineBad_evtPend (s : State) (line n : Nat) : (s.setLineBad line n).evtPend = s.evtPend := rfl
@[simp] theorem State.setLineBad_dom (s : State) (line n : Nat) : (s.setLineBad line n).dom = s.dom := rfl
@[simp] theorem State.setLineBad_grade (s : State) (line n : Nat) : (s.setLineBad line n).grade = s.grade := rfl
@[simp] theorem State.setLineBad_rmap (s : State) (line n : Nat) : (s.setLineBad line n).rmap = s.rmap := rfl
@[simp] theorem State.setLineBad_sec (s : State) (line n : Nat) : (s.setLineBad line n).sec = s.sec := rfl
@[simp] theorem State.setLineBad_dram (s : State) (line n : Nat) : (s.setLineBad line n).dram = s.dram := rfl
@[simp] theorem State.setLineBad_foldDue (s : State) (line n : Nat) : (s.setLineBad line n).foldDue = s.foldDue := rfl
@[simp] theorem State.setLineBad_gates (s : State) (line n : Nat) : (s.setLineBad line n).gates = s.gates := rfl
@[simp] theorem State.setLineBad_head (s : State) (line n : Nat) : (s.setLineBad line n).head = s.head := rfl
@[simp] theorem State.setLineBad_sram (s : State) (line n : Nat) : (s.setLineBad line n).sram = s.sram := rfl
@[simp] theorem State.setLineBad_sramBad (s : State) (line n : Nat) : (s.setLineBad line n).sramBad = s.sramBad := rfl
@[simp] theorem State.setLineBad_rowErr (s : State) (line n : Nat) : (s.setLineBad line n).rowErr = s.rowErr := rfl
@[simp] theorem State.setLineBad_rowLost (s : State) (line n : Nat) : (s.setLineBad line n).rowLost = s.rowLost := rfl
@[simp] theorem State.setLineBad_rowPardon (s : State) (line n : Nat) : (s.setLineBad line n).rowPardon = s.rowPardon := rfl
@[simp] theorem State.setLineBad_plans (s : State) (line n : Nat) : (s.setLineBad line n).plans = s.plans := rfl
@[simp] theorem State.setLineBad_copying (s : State) (line n : Nat) : (s.setLineBad line n).copying = s.copying := rfl
@[simp] theorem State.setLineBad_edge (s : State) (line n : Nat) : (s.setLineBad line n).edge = s.edge := rfl
@[simp] theorem State.setLineBad_loops (s : State) (line n : Nat) : (s.setLineBad line n).loops = s.loops := rfl
@[simp] theorem State.setLineBad_power (s : State) (line n : Nat) : (s.setLineBad line n).power = s.power := rfl
@[simp] theorem State.setLineBad_fabric (s : State) (line n : Nat) : (s.setLineBad line n).fabric = s.fabric := rfl
@[simp] theorem State.setLineBad_sdio (s : State) (line n : Nat) : (s.setLineBad line n).sdio = s.sdio := rfl
@[simp] theorem State.setLineBad_boot (s : State) (line n : Nat) : (s.setLineBad line n).boot = s.boot := rfl
@[simp] theorem State.setLineBad_testing (s : State) (line n : Nat) : (s.setLineBad line n).testing = s.testing := rfl
@[simp] theorem State.setLineBad_freeCtr (s : State) (line n : Nat) : (s.setLineBad line n).freeCtr = s.freeCtr := rfl
@[simp] theorem State.setLineBad_reg (s : State) (line n : Nat) (b : Nat) : (s.setLineBad line n).reg b = s.reg b := rfl

/-! State.setRing. -/

@[simp] theorem State.setRing_pending (s : State) (i : Nat) (r : RingSt) : (s.setRing i r).pending = s.pending := rfl
@[simp] theorem State.setRing_regs (s : State) (i : Nat) (r : RingSt) : (s.setRing i r).regs = s.regs := rfl
@[simp] theorem State.setRing_perReq (s : State) (i : Nat) (r : RingSt) : (s.setRing i r).perReq = s.perReq := rfl
@[simp] theorem State.setRing_resp (s : State) (i : Nat) (r : RingSt) : (s.setRing i r).resp = s.resp := rfl
@[simp] theorem State.setRing_time (s : State) (i : Nat) (r : RingSt) : (s.setRing i r).time = s.time := rfl
@[simp] theorem State.setRing_stopLine (s : State) (i : Nat) (r : RingSt) : (s.setRing i r).stopLine = s.stopLine := rfl
@[simp] theorem State.setRing_f1Int (s : State) (i : Nat) (r : RingSt) : (s.setRing i r).f1Int = s.f1Int := rfl
@[simp] theorem State.setRing_evtMask (s : State) (i : Nat) (r : RingSt) : (s.setRing i r).evtMask = s.evtMask := rfl
@[simp] theorem State.setRing_evtPend (s : State) (i : Nat) (r : RingSt) : (s.setRing i r).evtPend = s.evtPend := rfl
@[simp] theorem State.setRing_dom (s : State) (i : Nat) (r : RingSt) : (s.setRing i r).dom = s.dom := rfl
@[simp] theorem State.setRing_grade (s : State) (i : Nat) (r : RingSt) : (s.setRing i r).grade = s.grade := rfl
@[simp] theorem State.setRing_rmap (s : State) (i : Nat) (r : RingSt) : (s.setRing i r).rmap = s.rmap := rfl
@[simp] theorem State.setRing_sec (s : State) (i : Nat) (r : RingSt) : (s.setRing i r).sec = s.sec := rfl
@[simp] theorem State.setRing_dram (s : State) (i : Nat) (r : RingSt) : (s.setRing i r).dram = s.dram := rfl
@[simp] theorem State.setRing_dramBad (s : State) (i : Nat) (r : RingSt) : (s.setRing i r).dramBad = s.dramBad := rfl
@[simp] theorem State.setRing_foldDue (s : State) (i : Nat) (r : RingSt) : (s.setRing i r).foldDue = s.foldDue := rfl
@[simp] theorem State.setRing_gates (s : State) (i : Nat) (r : RingSt) : (s.setRing i r).gates = s.gates := rfl
@[simp] theorem State.setRing_head (s : State) (i : Nat) (r : RingSt) : (s.setRing i r).head = s.head := rfl
@[simp] theorem State.setRing_sram (s : State) (i : Nat) (r : RingSt) : (s.setRing i r).sram = s.sram := rfl
@[simp] theorem State.setRing_sramBad (s : State) (i : Nat) (r : RingSt) : (s.setRing i r).sramBad = s.sramBad := rfl
@[simp] theorem State.setRing_rowErr (s : State) (i : Nat) (r : RingSt) : (s.setRing i r).rowErr = s.rowErr := rfl
@[simp] theorem State.setRing_rowLost (s : State) (i : Nat) (r : RingSt) : (s.setRing i r).rowLost = s.rowLost := rfl
@[simp] theorem State.setRing_rowPardon (s : State) (i : Nat) (r : RingSt) : (s.setRing i r).rowPardon = s.rowPardon := rfl
@[simp] theorem State.setRing_plans (s : State) (i : Nat) (r : RingSt) : (s.setRing i r).plans = s.plans := rfl
@[simp] theorem State.setRing_copying (s : State) (i : Nat) (r : RingSt) : (s.setRing i r).copying = s.copying := rfl
@[simp] theorem State.setRing_loops (s : State) (i : Nat) (r : RingSt) : (s.setRing i r).loops = s.loops := rfl
@[simp] theorem State.setRing_power (s : State) (i : Nat) (r : RingSt) : (s.setRing i r).power = s.power := rfl
@[simp] theorem State.setRing_fabric (s : State) (i : Nat) (r : RingSt) : (s.setRing i r).fabric = s.fabric := rfl
@[simp] theorem State.setRing_sdio (s : State) (i : Nat) (r : RingSt) : (s.setRing i r).sdio = s.sdio := rfl
@[simp] theorem State.setRing_boot (s : State) (i : Nat) (r : RingSt) : (s.setRing i r).boot = s.boot := rfl
@[simp] theorem State.setRing_testing (s : State) (i : Nat) (r : RingSt) : (s.setRing i r).testing = s.testing := rfl
@[simp] theorem State.setRing_freeCtr (s : State) (i : Nat) (r : RingSt) : (s.setRing i r).freeCtr = s.freeCtr := rfl
@[simp] theorem State.setRing_reg (s : State) (i : Nat) (r : RingSt) (b : Nat) : (s.setRing i r).reg b = s.reg b := rfl

/-! State.setCsi. -/

@[simp] theorem State.setCsi_pending (s : State) (r vc : Nat) (f : Option CsiFrame) : (s.setCsi r vc f).pending = s.pending := rfl
@[simp] theorem State.setCsi_regs (s : State) (r vc : Nat) (f : Option CsiFrame) : (s.setCsi r vc f).regs = s.regs := rfl
@[simp] theorem State.setCsi_perReq (s : State) (r vc : Nat) (f : Option CsiFrame) : (s.setCsi r vc f).perReq = s.perReq := rfl
@[simp] theorem State.setCsi_resp (s : State) (r vc : Nat) (f : Option CsiFrame) : (s.setCsi r vc f).resp = s.resp := rfl
@[simp] theorem State.setCsi_time (s : State) (r vc : Nat) (f : Option CsiFrame) : (s.setCsi r vc f).time = s.time := rfl
@[simp] theorem State.setCsi_stopLine (s : State) (r vc : Nat) (f : Option CsiFrame) : (s.setCsi r vc f).stopLine = s.stopLine := rfl
@[simp] theorem State.setCsi_f1Int (s : State) (r vc : Nat) (f : Option CsiFrame) : (s.setCsi r vc f).f1Int = s.f1Int := rfl
@[simp] theorem State.setCsi_evtMask (s : State) (r vc : Nat) (f : Option CsiFrame) : (s.setCsi r vc f).evtMask = s.evtMask := rfl
@[simp] theorem State.setCsi_evtPend (s : State) (r vc : Nat) (f : Option CsiFrame) : (s.setCsi r vc f).evtPend = s.evtPend := rfl
@[simp] theorem State.setCsi_dom (s : State) (r vc : Nat) (f : Option CsiFrame) : (s.setCsi r vc f).dom = s.dom := rfl
@[simp] theorem State.setCsi_grade (s : State) (r vc : Nat) (f : Option CsiFrame) : (s.setCsi r vc f).grade = s.grade := rfl
@[simp] theorem State.setCsi_rmap (s : State) (r vc : Nat) (f : Option CsiFrame) : (s.setCsi r vc f).rmap = s.rmap := rfl
@[simp] theorem State.setCsi_sec (s : State) (r vc : Nat) (f : Option CsiFrame) : (s.setCsi r vc f).sec = s.sec := rfl
@[simp] theorem State.setCsi_dram (s : State) (r vc : Nat) (f : Option CsiFrame) : (s.setCsi r vc f).dram = s.dram := rfl
@[simp] theorem State.setCsi_dramBad (s : State) (r vc : Nat) (f : Option CsiFrame) : (s.setCsi r vc f).dramBad = s.dramBad := rfl
@[simp] theorem State.setCsi_foldDue (s : State) (r vc : Nat) (f : Option CsiFrame) : (s.setCsi r vc f).foldDue = s.foldDue := rfl
@[simp] theorem State.setCsi_gates (s : State) (r vc : Nat) (f : Option CsiFrame) : (s.setCsi r vc f).gates = s.gates := rfl
@[simp] theorem State.setCsi_head (s : State) (r vc : Nat) (f : Option CsiFrame) : (s.setCsi r vc f).head = s.head := rfl
@[simp] theorem State.setCsi_sram (s : State) (r vc : Nat) (f : Option CsiFrame) : (s.setCsi r vc f).sram = s.sram := rfl
@[simp] theorem State.setCsi_sramBad (s : State) (r vc : Nat) (f : Option CsiFrame) : (s.setCsi r vc f).sramBad = s.sramBad := rfl
@[simp] theorem State.setCsi_rowErr (s : State) (r vc : Nat) (f : Option CsiFrame) : (s.setCsi r vc f).rowErr = s.rowErr := rfl
@[simp] theorem State.setCsi_rowLost (s : State) (r vc : Nat) (f : Option CsiFrame) : (s.setCsi r vc f).rowLost = s.rowLost := rfl
@[simp] theorem State.setCsi_rowPardon (s : State) (r vc : Nat) (f : Option CsiFrame) : (s.setCsi r vc f).rowPardon = s.rowPardon := rfl
@[simp] theorem State.setCsi_plans (s : State) (r vc : Nat) (f : Option CsiFrame) : (s.setCsi r vc f).plans = s.plans := rfl
@[simp] theorem State.setCsi_copying (s : State) (r vc : Nat) (f : Option CsiFrame) : (s.setCsi r vc f).copying = s.copying := rfl
@[simp] theorem State.setCsi_loops (s : State) (r vc : Nat) (f : Option CsiFrame) : (s.setCsi r vc f).loops = s.loops := rfl
@[simp] theorem State.setCsi_power (s : State) (r vc : Nat) (f : Option CsiFrame) : (s.setCsi r vc f).power = s.power := rfl
@[simp] theorem State.setCsi_fabric (s : State) (r vc : Nat) (f : Option CsiFrame) : (s.setCsi r vc f).fabric = s.fabric := rfl
@[simp] theorem State.setCsi_sdio (s : State) (r vc : Nat) (f : Option CsiFrame) : (s.setCsi r vc f).sdio = s.sdio := rfl
@[simp] theorem State.setCsi_boot (s : State) (r vc : Nat) (f : Option CsiFrame) : (s.setCsi r vc f).boot = s.boot := rfl
@[simp] theorem State.setCsi_testing (s : State) (r vc : Nat) (f : Option CsiFrame) : (s.setCsi r vc f).testing = s.testing := rfl
@[simp] theorem State.setCsi_freeCtr (s : State) (r vc : Nat) (f : Option CsiFrame) : (s.setCsi r vc f).freeCtr = s.freeCtr := rfl
@[simp] theorem State.setCsi_reg (s : State) (r vc : Nat) (f : Option CsiFrame) (b : Nat) : (s.setCsi r vc f).reg b = s.reg b := rfl

/-! State.setSpi. -/

@[simp] theorem State.setSpi_pending (s : State) (k : Nat) (v : Option SpiRun) : (s.setSpi k v).pending = s.pending := rfl
@[simp] theorem State.setSpi_regs (s : State) (k : Nat) (v : Option SpiRun) : (s.setSpi k v).regs = s.regs := rfl
@[simp] theorem State.setSpi_perReq (s : State) (k : Nat) (v : Option SpiRun) : (s.setSpi k v).perReq = s.perReq := rfl
@[simp] theorem State.setSpi_resp (s : State) (k : Nat) (v : Option SpiRun) : (s.setSpi k v).resp = s.resp := rfl
@[simp] theorem State.setSpi_time (s : State) (k : Nat) (v : Option SpiRun) : (s.setSpi k v).time = s.time := rfl
@[simp] theorem State.setSpi_stopLine (s : State) (k : Nat) (v : Option SpiRun) : (s.setSpi k v).stopLine = s.stopLine := rfl
@[simp] theorem State.setSpi_f1Int (s : State) (k : Nat) (v : Option SpiRun) : (s.setSpi k v).f1Int = s.f1Int := rfl
@[simp] theorem State.setSpi_evtMask (s : State) (k : Nat) (v : Option SpiRun) : (s.setSpi k v).evtMask = s.evtMask := rfl
@[simp] theorem State.setSpi_evtPend (s : State) (k : Nat) (v : Option SpiRun) : (s.setSpi k v).evtPend = s.evtPend := rfl
@[simp] theorem State.setSpi_dom (s : State) (k : Nat) (v : Option SpiRun) : (s.setSpi k v).dom = s.dom := rfl
@[simp] theorem State.setSpi_grade (s : State) (k : Nat) (v : Option SpiRun) : (s.setSpi k v).grade = s.grade := rfl
@[simp] theorem State.setSpi_rmap (s : State) (k : Nat) (v : Option SpiRun) : (s.setSpi k v).rmap = s.rmap := rfl
@[simp] theorem State.setSpi_sec (s : State) (k : Nat) (v : Option SpiRun) : (s.setSpi k v).sec = s.sec := rfl
@[simp] theorem State.setSpi_dram (s : State) (k : Nat) (v : Option SpiRun) : (s.setSpi k v).dram = s.dram := rfl
@[simp] theorem State.setSpi_dramBad (s : State) (k : Nat) (v : Option SpiRun) : (s.setSpi k v).dramBad = s.dramBad := rfl
@[simp] theorem State.setSpi_foldDue (s : State) (k : Nat) (v : Option SpiRun) : (s.setSpi k v).foldDue = s.foldDue := rfl
@[simp] theorem State.setSpi_gates (s : State) (k : Nat) (v : Option SpiRun) : (s.setSpi k v).gates = s.gates := rfl
@[simp] theorem State.setSpi_head (s : State) (k : Nat) (v : Option SpiRun) : (s.setSpi k v).head = s.head := rfl
@[simp] theorem State.setSpi_sram (s : State) (k : Nat) (v : Option SpiRun) : (s.setSpi k v).sram = s.sram := rfl
@[simp] theorem State.setSpi_sramBad (s : State) (k : Nat) (v : Option SpiRun) : (s.setSpi k v).sramBad = s.sramBad := rfl
@[simp] theorem State.setSpi_rowErr (s : State) (k : Nat) (v : Option SpiRun) : (s.setSpi k v).rowErr = s.rowErr := rfl
@[simp] theorem State.setSpi_rowLost (s : State) (k : Nat) (v : Option SpiRun) : (s.setSpi k v).rowLost = s.rowLost := rfl
@[simp] theorem State.setSpi_rowPardon (s : State) (k : Nat) (v : Option SpiRun) : (s.setSpi k v).rowPardon = s.rowPardon := rfl
@[simp] theorem State.setSpi_plans (s : State) (k : Nat) (v : Option SpiRun) : (s.setSpi k v).plans = s.plans := rfl
@[simp] theorem State.setSpi_copying (s : State) (k : Nat) (v : Option SpiRun) : (s.setSpi k v).copying = s.copying := rfl
@[simp] theorem State.setSpi_loops (s : State) (k : Nat) (v : Option SpiRun) : (s.setSpi k v).loops = s.loops := rfl
@[simp] theorem State.setSpi_power (s : State) (k : Nat) (v : Option SpiRun) : (s.setSpi k v).power = s.power := rfl
@[simp] theorem State.setSpi_fabric (s : State) (k : Nat) (v : Option SpiRun) : (s.setSpi k v).fabric = s.fabric := rfl
@[simp] theorem State.setSpi_sdio (s : State) (k : Nat) (v : Option SpiRun) : (s.setSpi k v).sdio = s.sdio := rfl
@[simp] theorem State.setSpi_boot (s : State) (k : Nat) (v : Option SpiRun) : (s.setSpi k v).boot = s.boot := rfl
@[simp] theorem State.setSpi_testing (s : State) (k : Nat) (v : Option SpiRun) : (s.setSpi k v).testing = s.testing := rfl
@[simp] theorem State.setSpi_freeCtr (s : State) (k : Nat) (v : Option SpiRun) : (s.setSpi k v).freeCtr = s.freeCtr := rfl
@[simp] theorem State.setSpi_reg (s : State) (k : Nat) (v : Option SpiRun) (b : Nat) : (s.setSpi k v).reg b = s.reg b := rfl

/-! State.setUart. -/

@[simp] theorem State.setUart_pending (s : State) (u : Nat) (m : Option UartMsg) : (s.setUart u m).pending = s.pending := rfl
@[simp] theorem State.setUart_regs (s : State) (u : Nat) (m : Option UartMsg) : (s.setUart u m).regs = s.regs := rfl
@[simp] theorem State.setUart_perReq (s : State) (u : Nat) (m : Option UartMsg) : (s.setUart u m).perReq = s.perReq := rfl
@[simp] theorem State.setUart_resp (s : State) (u : Nat) (m : Option UartMsg) : (s.setUart u m).resp = s.resp := rfl
@[simp] theorem State.setUart_time (s : State) (u : Nat) (m : Option UartMsg) : (s.setUart u m).time = s.time := rfl
@[simp] theorem State.setUart_stopLine (s : State) (u : Nat) (m : Option UartMsg) : (s.setUart u m).stopLine = s.stopLine := rfl
@[simp] theorem State.setUart_f1Int (s : State) (u : Nat) (m : Option UartMsg) : (s.setUart u m).f1Int = s.f1Int := rfl
@[simp] theorem State.setUart_evtMask (s : State) (u : Nat) (m : Option UartMsg) : (s.setUart u m).evtMask = s.evtMask := rfl
@[simp] theorem State.setUart_evtPend (s : State) (u : Nat) (m : Option UartMsg) : (s.setUart u m).evtPend = s.evtPend := rfl
@[simp] theorem State.setUart_dom (s : State) (u : Nat) (m : Option UartMsg) : (s.setUart u m).dom = s.dom := rfl
@[simp] theorem State.setUart_grade (s : State) (u : Nat) (m : Option UartMsg) : (s.setUart u m).grade = s.grade := rfl
@[simp] theorem State.setUart_rmap (s : State) (u : Nat) (m : Option UartMsg) : (s.setUart u m).rmap = s.rmap := rfl
@[simp] theorem State.setUart_sec (s : State) (u : Nat) (m : Option UartMsg) : (s.setUart u m).sec = s.sec := rfl
@[simp] theorem State.setUart_dram (s : State) (u : Nat) (m : Option UartMsg) : (s.setUart u m).dram = s.dram := rfl
@[simp] theorem State.setUart_dramBad (s : State) (u : Nat) (m : Option UartMsg) : (s.setUart u m).dramBad = s.dramBad := rfl
@[simp] theorem State.setUart_foldDue (s : State) (u : Nat) (m : Option UartMsg) : (s.setUart u m).foldDue = s.foldDue := rfl
@[simp] theorem State.setUart_gates (s : State) (u : Nat) (m : Option UartMsg) : (s.setUart u m).gates = s.gates := rfl
@[simp] theorem State.setUart_head (s : State) (u : Nat) (m : Option UartMsg) : (s.setUart u m).head = s.head := rfl
@[simp] theorem State.setUart_sram (s : State) (u : Nat) (m : Option UartMsg) : (s.setUart u m).sram = s.sram := rfl
@[simp] theorem State.setUart_sramBad (s : State) (u : Nat) (m : Option UartMsg) : (s.setUart u m).sramBad = s.sramBad := rfl
@[simp] theorem State.setUart_rowErr (s : State) (u : Nat) (m : Option UartMsg) : (s.setUart u m).rowErr = s.rowErr := rfl
@[simp] theorem State.setUart_rowLost (s : State) (u : Nat) (m : Option UartMsg) : (s.setUart u m).rowLost = s.rowLost := rfl
@[simp] theorem State.setUart_rowPardon (s : State) (u : Nat) (m : Option UartMsg) : (s.setUart u m).rowPardon = s.rowPardon := rfl
@[simp] theorem State.setUart_plans (s : State) (u : Nat) (m : Option UartMsg) : (s.setUart u m).plans = s.plans := rfl
@[simp] theorem State.setUart_copying (s : State) (u : Nat) (m : Option UartMsg) : (s.setUart u m).copying = s.copying := rfl
@[simp] theorem State.setUart_loops (s : State) (u : Nat) (m : Option UartMsg) : (s.setUart u m).loops = s.loops := rfl
@[simp] theorem State.setUart_power (s : State) (u : Nat) (m : Option UartMsg) : (s.setUart u m).power = s.power := rfl
@[simp] theorem State.setUart_fabric (s : State) (u : Nat) (m : Option UartMsg) : (s.setUart u m).fabric = s.fabric := rfl
@[simp] theorem State.setUart_sdio (s : State) (u : Nat) (m : Option UartMsg) : (s.setUart u m).sdio = s.sdio := rfl
@[simp] theorem State.setUart_boot (s : State) (u : Nat) (m : Option UartMsg) : (s.setUart u m).boot = s.boot := rfl
@[simp] theorem State.setUart_testing (s : State) (u : Nat) (m : Option UartMsg) : (s.setUart u m).testing = s.testing := rfl
@[simp] theorem State.setUart_freeCtr (s : State) (u : Nat) (m : Option UartMsg) : (s.setUart u m).freeCtr = s.freeCtr := rfl
@[simp] theorem State.setUart_reg (s : State) (u : Nat) (m : Option UartMsg) (b : Nat) : (s.setUart u m).reg b = s.reg b := rfl

/-! State.setCanBufW. -/

@[simp] theorem State.setCanBufW_pending (s : State) (c k w : Nat) (v : Word) : (s.setCanBufW c k w v).pending = s.pending := rfl
@[simp] theorem State.setCanBufW_regs (s : State) (c k w : Nat) (v : Word) : (s.setCanBufW c k w v).regs = s.regs := rfl
@[simp] theorem State.setCanBufW_perReq (s : State) (c k w : Nat) (v : Word) : (s.setCanBufW c k w v).perReq = s.perReq := rfl
@[simp] theorem State.setCanBufW_resp (s : State) (c k w : Nat) (v : Word) : (s.setCanBufW c k w v).resp = s.resp := rfl
@[simp] theorem State.setCanBufW_time (s : State) (c k w : Nat) (v : Word) : (s.setCanBufW c k w v).time = s.time := rfl
@[simp] theorem State.setCanBufW_stopLine (s : State) (c k w : Nat) (v : Word) : (s.setCanBufW c k w v).stopLine = s.stopLine := rfl
@[simp] theorem State.setCanBufW_f1Int (s : State) (c k w : Nat) (v : Word) : (s.setCanBufW c k w v).f1Int = s.f1Int := rfl
@[simp] theorem State.setCanBufW_evtMask (s : State) (c k w : Nat) (v : Word) : (s.setCanBufW c k w v).evtMask = s.evtMask := rfl
@[simp] theorem State.setCanBufW_evtPend (s : State) (c k w : Nat) (v : Word) : (s.setCanBufW c k w v).evtPend = s.evtPend := rfl
@[simp] theorem State.setCanBufW_dom (s : State) (c k w : Nat) (v : Word) : (s.setCanBufW c k w v).dom = s.dom := rfl
@[simp] theorem State.setCanBufW_grade (s : State) (c k w : Nat) (v : Word) : (s.setCanBufW c k w v).grade = s.grade := rfl
@[simp] theorem State.setCanBufW_rmap (s : State) (c k w : Nat) (v : Word) : (s.setCanBufW c k w v).rmap = s.rmap := rfl
@[simp] theorem State.setCanBufW_sec (s : State) (c k w : Nat) (v : Word) : (s.setCanBufW c k w v).sec = s.sec := rfl
@[simp] theorem State.setCanBufW_dram (s : State) (c k w : Nat) (v : Word) : (s.setCanBufW c k w v).dram = s.dram := rfl
@[simp] theorem State.setCanBufW_dramBad (s : State) (c k w : Nat) (v : Word) : (s.setCanBufW c k w v).dramBad = s.dramBad := rfl
@[simp] theorem State.setCanBufW_foldDue (s : State) (c k w : Nat) (v : Word) : (s.setCanBufW c k w v).foldDue = s.foldDue := rfl
@[simp] theorem State.setCanBufW_gates (s : State) (c k w : Nat) (v : Word) : (s.setCanBufW c k w v).gates = s.gates := rfl
@[simp] theorem State.setCanBufW_head (s : State) (c k w : Nat) (v : Word) : (s.setCanBufW c k w v).head = s.head := rfl
@[simp] theorem State.setCanBufW_sram (s : State) (c k w : Nat) (v : Word) : (s.setCanBufW c k w v).sram = s.sram := rfl
@[simp] theorem State.setCanBufW_sramBad (s : State) (c k w : Nat) (v : Word) : (s.setCanBufW c k w v).sramBad = s.sramBad := rfl
@[simp] theorem State.setCanBufW_rowErr (s : State) (c k w : Nat) (v : Word) : (s.setCanBufW c k w v).rowErr = s.rowErr := rfl
@[simp] theorem State.setCanBufW_rowLost (s : State) (c k w : Nat) (v : Word) : (s.setCanBufW c k w v).rowLost = s.rowLost := rfl
@[simp] theorem State.setCanBufW_rowPardon (s : State) (c k w : Nat) (v : Word) : (s.setCanBufW c k w v).rowPardon = s.rowPardon := rfl
@[simp] theorem State.setCanBufW_plans (s : State) (c k w : Nat) (v : Word) : (s.setCanBufW c k w v).plans = s.plans := rfl
@[simp] theorem State.setCanBufW_copying (s : State) (c k w : Nat) (v : Word) : (s.setCanBufW c k w v).copying = s.copying := rfl
@[simp] theorem State.setCanBufW_loops (s : State) (c k w : Nat) (v : Word) : (s.setCanBufW c k w v).loops = s.loops := rfl
@[simp] theorem State.setCanBufW_power (s : State) (c k w : Nat) (v : Word) : (s.setCanBufW c k w v).power = s.power := rfl
@[simp] theorem State.setCanBufW_fabric (s : State) (c k w : Nat) (v : Word) : (s.setCanBufW c k w v).fabric = s.fabric := rfl
@[simp] theorem State.setCanBufW_sdio (s : State) (c k w : Nat) (v : Word) : (s.setCanBufW c k w v).sdio = s.sdio := rfl
@[simp] theorem State.setCanBufW_boot (s : State) (c k w : Nat) (v : Word) : (s.setCanBufW c k w v).boot = s.boot := rfl
@[simp] theorem State.setCanBufW_testing (s : State) (c k w : Nat) (v : Word) : (s.setCanBufW c k w v).testing = s.testing := rfl
@[simp] theorem State.setCanBufW_freeCtr (s : State) (c k w : Nat) (v : Word) : (s.setCanBufW c k w v).freeCtr = s.freeCtr := rfl
@[simp] theorem State.setCanBufW_reg (s : State) (c k w : Nat) (v : Word) (b : Nat) : (s.setCanBufW c k w v).reg b = s.reg b := rfl

/-! State.setEnc. -/

@[simp] theorem State.setEnc_pending (s : State) (e : Nat) (x : EncSt) : (s.setEnc e x).pending = s.pending := rfl
@[simp] theorem State.setEnc_regs (s : State) (e : Nat) (x : EncSt) : (s.setEnc e x).regs = s.regs := rfl
@[simp] theorem State.setEnc_perReq (s : State) (e : Nat) (x : EncSt) : (s.setEnc e x).perReq = s.perReq := rfl
@[simp] theorem State.setEnc_resp (s : State) (e : Nat) (x : EncSt) : (s.setEnc e x).resp = s.resp := rfl
@[simp] theorem State.setEnc_time (s : State) (e : Nat) (x : EncSt) : (s.setEnc e x).time = s.time := rfl
@[simp] theorem State.setEnc_stopLine (s : State) (e : Nat) (x : EncSt) : (s.setEnc e x).stopLine = s.stopLine := rfl
@[simp] theorem State.setEnc_f1Int (s : State) (e : Nat) (x : EncSt) : (s.setEnc e x).f1Int = s.f1Int := rfl
@[simp] theorem State.setEnc_evtMask (s : State) (e : Nat) (x : EncSt) : (s.setEnc e x).evtMask = s.evtMask := rfl
@[simp] theorem State.setEnc_evtPend (s : State) (e : Nat) (x : EncSt) : (s.setEnc e x).evtPend = s.evtPend := rfl
@[simp] theorem State.setEnc_dom (s : State) (e : Nat) (x : EncSt) : (s.setEnc e x).dom = s.dom := rfl
@[simp] theorem State.setEnc_grade (s : State) (e : Nat) (x : EncSt) : (s.setEnc e x).grade = s.grade := rfl
@[simp] theorem State.setEnc_rmap (s : State) (e : Nat) (x : EncSt) : (s.setEnc e x).rmap = s.rmap := rfl
@[simp] theorem State.setEnc_sec (s : State) (e : Nat) (x : EncSt) : (s.setEnc e x).sec = s.sec := rfl
@[simp] theorem State.setEnc_dram (s : State) (e : Nat) (x : EncSt) : (s.setEnc e x).dram = s.dram := rfl
@[simp] theorem State.setEnc_dramBad (s : State) (e : Nat) (x : EncSt) : (s.setEnc e x).dramBad = s.dramBad := rfl
@[simp] theorem State.setEnc_foldDue (s : State) (e : Nat) (x : EncSt) : (s.setEnc e x).foldDue = s.foldDue := rfl
@[simp] theorem State.setEnc_gates (s : State) (e : Nat) (x : EncSt) : (s.setEnc e x).gates = s.gates := rfl
@[simp] theorem State.setEnc_head (s : State) (e : Nat) (x : EncSt) : (s.setEnc e x).head = s.head := rfl
@[simp] theorem State.setEnc_sram (s : State) (e : Nat) (x : EncSt) : (s.setEnc e x).sram = s.sram := rfl
@[simp] theorem State.setEnc_sramBad (s : State) (e : Nat) (x : EncSt) : (s.setEnc e x).sramBad = s.sramBad := rfl
@[simp] theorem State.setEnc_rowErr (s : State) (e : Nat) (x : EncSt) : (s.setEnc e x).rowErr = s.rowErr := rfl
@[simp] theorem State.setEnc_rowLost (s : State) (e : Nat) (x : EncSt) : (s.setEnc e x).rowLost = s.rowLost := rfl
@[simp] theorem State.setEnc_rowPardon (s : State) (e : Nat) (x : EncSt) : (s.setEnc e x).rowPardon = s.rowPardon := rfl
@[simp] theorem State.setEnc_plans (s : State) (e : Nat) (x : EncSt) : (s.setEnc e x).plans = s.plans := rfl
@[simp] theorem State.setEnc_copying (s : State) (e : Nat) (x : EncSt) : (s.setEnc e x).copying = s.copying := rfl
@[simp] theorem State.setEnc_loops (s : State) (e : Nat) (x : EncSt) : (s.setEnc e x).loops = s.loops := rfl
@[simp] theorem State.setEnc_power (s : State) (e : Nat) (x : EncSt) : (s.setEnc e x).power = s.power := rfl
@[simp] theorem State.setEnc_fabric (s : State) (e : Nat) (x : EncSt) : (s.setEnc e x).fabric = s.fabric := rfl
@[simp] theorem State.setEnc_sdio (s : State) (e : Nat) (x : EncSt) : (s.setEnc e x).sdio = s.sdio := rfl
@[simp] theorem State.setEnc_boot (s : State) (e : Nat) (x : EncSt) : (s.setEnc e x).boot = s.boot := rfl
@[simp] theorem State.setEnc_testing (s : State) (e : Nat) (x : EncSt) : (s.setEnc e x).testing = s.testing := rfl
@[simp] theorem State.setEnc_freeCtr (s : State) (e : Nat) (x : EncSt) : (s.setEnc e x).freeCtr = s.freeCtr := rfl
@[simp] theorem State.setEnc_reg (s : State) (e : Nat) (x : EncSt) (b : Nat) : (s.setEnc e x).reg b = s.reg b := rfl

/-! State.setPwm. -/

@[simp] theorem State.setPwm_pending (s : State) (k : Nat) (x : PwmSt) : (s.setPwm k x).pending = s.pending := rfl
@[simp] theorem State.setPwm_regs (s : State) (k : Nat) (x : PwmSt) : (s.setPwm k x).regs = s.regs := rfl
@[simp] theorem State.setPwm_perReq (s : State) (k : Nat) (x : PwmSt) : (s.setPwm k x).perReq = s.perReq := rfl
@[simp] theorem State.setPwm_resp (s : State) (k : Nat) (x : PwmSt) : (s.setPwm k x).resp = s.resp := rfl
@[simp] theorem State.setPwm_time (s : State) (k : Nat) (x : PwmSt) : (s.setPwm k x).time = s.time := rfl
@[simp] theorem State.setPwm_stopLine (s : State) (k : Nat) (x : PwmSt) : (s.setPwm k x).stopLine = s.stopLine := rfl
@[simp] theorem State.setPwm_f1Int (s : State) (k : Nat) (x : PwmSt) : (s.setPwm k x).f1Int = s.f1Int := rfl
@[simp] theorem State.setPwm_evtMask (s : State) (k : Nat) (x : PwmSt) : (s.setPwm k x).evtMask = s.evtMask := rfl
@[simp] theorem State.setPwm_evtPend (s : State) (k : Nat) (x : PwmSt) : (s.setPwm k x).evtPend = s.evtPend := rfl
@[simp] theorem State.setPwm_dom (s : State) (k : Nat) (x : PwmSt) : (s.setPwm k x).dom = s.dom := rfl
@[simp] theorem State.setPwm_grade (s : State) (k : Nat) (x : PwmSt) : (s.setPwm k x).grade = s.grade := rfl
@[simp] theorem State.setPwm_rmap (s : State) (k : Nat) (x : PwmSt) : (s.setPwm k x).rmap = s.rmap := rfl
@[simp] theorem State.setPwm_sec (s : State) (k : Nat) (x : PwmSt) : (s.setPwm k x).sec = s.sec := rfl
@[simp] theorem State.setPwm_dram (s : State) (k : Nat) (x : PwmSt) : (s.setPwm k x).dram = s.dram := rfl
@[simp] theorem State.setPwm_dramBad (s : State) (k : Nat) (x : PwmSt) : (s.setPwm k x).dramBad = s.dramBad := rfl
@[simp] theorem State.setPwm_foldDue (s : State) (k : Nat) (x : PwmSt) : (s.setPwm k x).foldDue = s.foldDue := rfl
@[simp] theorem State.setPwm_gates (s : State) (k : Nat) (x : PwmSt) : (s.setPwm k x).gates = s.gates := rfl
@[simp] theorem State.setPwm_head (s : State) (k : Nat) (x : PwmSt) : (s.setPwm k x).head = s.head := rfl
@[simp] theorem State.setPwm_sram (s : State) (k : Nat) (x : PwmSt) : (s.setPwm k x).sram = s.sram := rfl
@[simp] theorem State.setPwm_sramBad (s : State) (k : Nat) (x : PwmSt) : (s.setPwm k x).sramBad = s.sramBad := rfl
@[simp] theorem State.setPwm_rowErr (s : State) (k : Nat) (x : PwmSt) : (s.setPwm k x).rowErr = s.rowErr := rfl
@[simp] theorem State.setPwm_rowLost (s : State) (k : Nat) (x : PwmSt) : (s.setPwm k x).rowLost = s.rowLost := rfl
@[simp] theorem State.setPwm_rowPardon (s : State) (k : Nat) (x : PwmSt) : (s.setPwm k x).rowPardon = s.rowPardon := rfl
@[simp] theorem State.setPwm_plans (s : State) (k : Nat) (x : PwmSt) : (s.setPwm k x).plans = s.plans := rfl
@[simp] theorem State.setPwm_copying (s : State) (k : Nat) (x : PwmSt) : (s.setPwm k x).copying = s.copying := rfl
@[simp] theorem State.setPwm_loops (s : State) (k : Nat) (x : PwmSt) : (s.setPwm k x).loops = s.loops := rfl
@[simp] theorem State.setPwm_power (s : State) (k : Nat) (x : PwmSt) : (s.setPwm k x).power = s.power := rfl
@[simp] theorem State.setPwm_fabric (s : State) (k : Nat) (x : PwmSt) : (s.setPwm k x).fabric = s.fabric := rfl
@[simp] theorem State.setPwm_sdio (s : State) (k : Nat) (x : PwmSt) : (s.setPwm k x).sdio = s.sdio := rfl
@[simp] theorem State.setPwm_boot (s : State) (k : Nat) (x : PwmSt) : (s.setPwm k x).boot = s.boot := rfl
@[simp] theorem State.setPwm_testing (s : State) (k : Nat) (x : PwmSt) : (s.setPwm k x).testing = s.testing := rfl
@[simp] theorem State.setPwm_freeCtr (s : State) (k : Nat) (x : PwmSt) : (s.setPwm k x).freeCtr = s.freeCtr := rfl
@[simp] theorem State.setPwm_reg (s : State) (k : Nat) (x : PwmSt) (b : Nat) : (s.setPwm k x).reg b = s.reg b := rfl

/-! State.setLoop. -/

@[simp] theorem State.setLoop_pending (s : State) (c : Nat) (x : LoopSt) : (s.setLoop c x).pending = s.pending := rfl
@[simp] theorem State.setLoop_regs (s : State) (c : Nat) (x : LoopSt) : (s.setLoop c x).regs = s.regs := rfl
@[simp] theorem State.setLoop_perReq (s : State) (c : Nat) (x : LoopSt) : (s.setLoop c x).perReq = s.perReq := rfl
@[simp] theorem State.setLoop_resp (s : State) (c : Nat) (x : LoopSt) : (s.setLoop c x).resp = s.resp := rfl
@[simp] theorem State.setLoop_time (s : State) (c : Nat) (x : LoopSt) : (s.setLoop c x).time = s.time := rfl
@[simp] theorem State.setLoop_stopLine (s : State) (c : Nat) (x : LoopSt) : (s.setLoop c x).stopLine = s.stopLine := rfl
@[simp] theorem State.setLoop_f1Int (s : State) (c : Nat) (x : LoopSt) : (s.setLoop c x).f1Int = s.f1Int := rfl
@[simp] theorem State.setLoop_evtMask (s : State) (c : Nat) (x : LoopSt) : (s.setLoop c x).evtMask = s.evtMask := rfl
@[simp] theorem State.setLoop_evtPend (s : State) (c : Nat) (x : LoopSt) : (s.setLoop c x).evtPend = s.evtPend := rfl
@[simp] theorem State.setLoop_dom (s : State) (c : Nat) (x : LoopSt) : (s.setLoop c x).dom = s.dom := rfl
@[simp] theorem State.setLoop_grade (s : State) (c : Nat) (x : LoopSt) : (s.setLoop c x).grade = s.grade := rfl
@[simp] theorem State.setLoop_rmap (s : State) (c : Nat) (x : LoopSt) : (s.setLoop c x).rmap = s.rmap := rfl
@[simp] theorem State.setLoop_sec (s : State) (c : Nat) (x : LoopSt) : (s.setLoop c x).sec = s.sec := rfl
@[simp] theorem State.setLoop_dram (s : State) (c : Nat) (x : LoopSt) : (s.setLoop c x).dram = s.dram := rfl
@[simp] theorem State.setLoop_dramBad (s : State) (c : Nat) (x : LoopSt) : (s.setLoop c x).dramBad = s.dramBad := rfl
@[simp] theorem State.setLoop_foldDue (s : State) (c : Nat) (x : LoopSt) : (s.setLoop c x).foldDue = s.foldDue := rfl
@[simp] theorem State.setLoop_gates (s : State) (c : Nat) (x : LoopSt) : (s.setLoop c x).gates = s.gates := rfl
@[simp] theorem State.setLoop_head (s : State) (c : Nat) (x : LoopSt) : (s.setLoop c x).head = s.head := rfl
@[simp] theorem State.setLoop_sram (s : State) (c : Nat) (x : LoopSt) : (s.setLoop c x).sram = s.sram := rfl
@[simp] theorem State.setLoop_sramBad (s : State) (c : Nat) (x : LoopSt) : (s.setLoop c x).sramBad = s.sramBad := rfl
@[simp] theorem State.setLoop_rowErr (s : State) (c : Nat) (x : LoopSt) : (s.setLoop c x).rowErr = s.rowErr := rfl
@[simp] theorem State.setLoop_rowLost (s : State) (c : Nat) (x : LoopSt) : (s.setLoop c x).rowLost = s.rowLost := rfl
@[simp] theorem State.setLoop_rowPardon (s : State) (c : Nat) (x : LoopSt) : (s.setLoop c x).rowPardon = s.rowPardon := rfl
@[simp] theorem State.setLoop_plans (s : State) (c : Nat) (x : LoopSt) : (s.setLoop c x).plans = s.plans := rfl
@[simp] theorem State.setLoop_copying (s : State) (c : Nat) (x : LoopSt) : (s.setLoop c x).copying = s.copying := rfl
@[simp] theorem State.setLoop_edge (s : State) (c : Nat) (x : LoopSt) : (s.setLoop c x).edge = s.edge := rfl
@[simp] theorem State.setLoop_power (s : State) (c : Nat) (x : LoopSt) : (s.setLoop c x).power = s.power := rfl
@[simp] theorem State.setLoop_fabric (s : State) (c : Nat) (x : LoopSt) : (s.setLoop c x).fabric = s.fabric := rfl
@[simp] theorem State.setLoop_sdio (s : State) (c : Nat) (x : LoopSt) : (s.setLoop c x).sdio = s.sdio := rfl
@[simp] theorem State.setLoop_boot (s : State) (c : Nat) (x : LoopSt) : (s.setLoop c x).boot = s.boot := rfl
@[simp] theorem State.setLoop_testing (s : State) (c : Nat) (x : LoopSt) : (s.setLoop c x).testing = s.testing := rfl
@[simp] theorem State.setLoop_freeCtr (s : State) (c : Nat) (x : LoopSt) : (s.setLoop c x).freeCtr = s.freeCtr := rfl
@[simp] theorem State.setLoop_reg (s : State) (c : Nat) (x : LoopSt) (b : Nat) : (s.setLoop c x).reg b = s.reg b := rfl

/-! State.setSaveW. -/

@[simp] theorem State.setSaveW_pending (s : State) (i : Nat) (v : Word) : (s.setSaveW i v).pending = s.pending := rfl
@[simp] theorem State.setSaveW_regs (s : State) (i : Nat) (v : Word) : (s.setSaveW i v).regs = s.regs := rfl
@[simp] theorem State.setSaveW_perReq (s : State) (i : Nat) (v : Word) : (s.setSaveW i v).perReq = s.perReq := rfl
@[simp] theorem State.setSaveW_resp (s : State) (i : Nat) (v : Word) : (s.setSaveW i v).resp = s.resp := rfl
@[simp] theorem State.setSaveW_time (s : State) (i : Nat) (v : Word) : (s.setSaveW i v).time = s.time := rfl
@[simp] theorem State.setSaveW_stopLine (s : State) (i : Nat) (v : Word) : (s.setSaveW i v).stopLine = s.stopLine := rfl
@[simp] theorem State.setSaveW_f1Int (s : State) (i : Nat) (v : Word) : (s.setSaveW i v).f1Int = s.f1Int := rfl
@[simp] theorem State.setSaveW_evtMask (s : State) (i : Nat) (v : Word) : (s.setSaveW i v).evtMask = s.evtMask := rfl
@[simp] theorem State.setSaveW_evtPend (s : State) (i : Nat) (v : Word) : (s.setSaveW i v).evtPend = s.evtPend := rfl
@[simp] theorem State.setSaveW_dom (s : State) (i : Nat) (v : Word) : (s.setSaveW i v).dom = s.dom := rfl
@[simp] theorem State.setSaveW_grade (s : State) (i : Nat) (v : Word) : (s.setSaveW i v).grade = s.grade := rfl
@[simp] theorem State.setSaveW_rmap (s : State) (i : Nat) (v : Word) : (s.setSaveW i v).rmap = s.rmap := rfl
@[simp] theorem State.setSaveW_sec (s : State) (i : Nat) (v : Word) : (s.setSaveW i v).sec = s.sec := rfl
@[simp] theorem State.setSaveW_dram (s : State) (i : Nat) (v : Word) : (s.setSaveW i v).dram = s.dram := rfl
@[simp] theorem State.setSaveW_dramBad (s : State) (i : Nat) (v : Word) : (s.setSaveW i v).dramBad = s.dramBad := rfl
@[simp] theorem State.setSaveW_foldDue (s : State) (i : Nat) (v : Word) : (s.setSaveW i v).foldDue = s.foldDue := rfl
@[simp] theorem State.setSaveW_gates (s : State) (i : Nat) (v : Word) : (s.setSaveW i v).gates = s.gates := rfl
@[simp] theorem State.setSaveW_head (s : State) (i : Nat) (v : Word) : (s.setSaveW i v).head = s.head := rfl
@[simp] theorem State.setSaveW_sram (s : State) (i : Nat) (v : Word) : (s.setSaveW i v).sram = s.sram := rfl
@[simp] theorem State.setSaveW_sramBad (s : State) (i : Nat) (v : Word) : (s.setSaveW i v).sramBad = s.sramBad := rfl
@[simp] theorem State.setSaveW_rowErr (s : State) (i : Nat) (v : Word) : (s.setSaveW i v).rowErr = s.rowErr := rfl
@[simp] theorem State.setSaveW_rowLost (s : State) (i : Nat) (v : Word) : (s.setSaveW i v).rowLost = s.rowLost := rfl
@[simp] theorem State.setSaveW_rowPardon (s : State) (i : Nat) (v : Word) : (s.setSaveW i v).rowPardon = s.rowPardon := rfl
@[simp] theorem State.setSaveW_plans (s : State) (i : Nat) (v : Word) : (s.setSaveW i v).plans = s.plans := rfl
@[simp] theorem State.setSaveW_copying (s : State) (i : Nat) (v : Word) : (s.setSaveW i v).copying = s.copying := rfl
@[simp] theorem State.setSaveW_edge (s : State) (i : Nat) (v : Word) : (s.setSaveW i v).edge = s.edge := rfl
@[simp] theorem State.setSaveW_loops (s : State) (i : Nat) (v : Word) : (s.setSaveW i v).loops = s.loops := rfl
@[simp] theorem State.setSaveW_fabric (s : State) (i : Nat) (v : Word) : (s.setSaveW i v).fabric = s.fabric := rfl
@[simp] theorem State.setSaveW_sdio (s : State) (i : Nat) (v : Word) : (s.setSaveW i v).sdio = s.sdio := rfl
@[simp] theorem State.setSaveW_boot (s : State) (i : Nat) (v : Word) : (s.setSaveW i v).boot = s.boot := rfl
@[simp] theorem State.setSaveW_testing (s : State) (i : Nat) (v : Word) : (s.setSaveW i v).testing = s.testing := rfl
@[simp] theorem State.setSaveW_freeCtr (s : State) (i : Nat) (v : Word) : (s.setSaveW i v).freeCtr = s.freeCtr := rfl
@[simp] theorem State.setSaveW_reg (s : State) (i : Nat) (v : Word) (b : Nat) : (s.setSaveW i v).reg b = s.reg b := rfl

/-! State.setStep. -/

@[simp] theorem State.setStep_pending (s : State) (d n : Nat) : (s.setStep d n).pending = s.pending := rfl
@[simp] theorem State.setStep_regs (s : State) (d n : Nat) : (s.setStep d n).regs = s.regs := rfl
@[simp] theorem State.setStep_perReq (s : State) (d n : Nat) : (s.setStep d n).perReq = s.perReq := rfl
@[simp] theorem State.setStep_resp (s : State) (d n : Nat) : (s.setStep d n).resp = s.resp := rfl
@[simp] theorem State.setStep_time (s : State) (d n : Nat) : (s.setStep d n).time = s.time := rfl
@[simp] theorem State.setStep_stopLine (s : State) (d n : Nat) : (s.setStep d n).stopLine = s.stopLine := rfl
@[simp] theorem State.setStep_f1Int (s : State) (d n : Nat) : (s.setStep d n).f1Int = s.f1Int := rfl
@[simp] theorem State.setStep_evtMask (s : State) (d n : Nat) : (s.setStep d n).evtMask = s.evtMask := rfl
@[simp] theorem State.setStep_evtPend (s : State) (d n : Nat) : (s.setStep d n).evtPend = s.evtPend := rfl
@[simp] theorem State.setStep_dom (s : State) (d n : Nat) : (s.setStep d n).dom = s.dom := rfl
@[simp] theorem State.setStep_grade (s : State) (d n : Nat) : (s.setStep d n).grade = s.grade := rfl
@[simp] theorem State.setStep_rmap (s : State) (d n : Nat) : (s.setStep d n).rmap = s.rmap := rfl
@[simp] theorem State.setStep_sec (s : State) (d n : Nat) : (s.setStep d n).sec = s.sec := rfl
@[simp] theorem State.setStep_dram (s : State) (d n : Nat) : (s.setStep d n).dram = s.dram := rfl
@[simp] theorem State.setStep_dramBad (s : State) (d n : Nat) : (s.setStep d n).dramBad = s.dramBad := rfl
@[simp] theorem State.setStep_foldDue (s : State) (d n : Nat) : (s.setStep d n).foldDue = s.foldDue := rfl
@[simp] theorem State.setStep_gates (s : State) (d n : Nat) : (s.setStep d n).gates = s.gates := rfl
@[simp] theorem State.setStep_head (s : State) (d n : Nat) : (s.setStep d n).head = s.head := rfl
@[simp] theorem State.setStep_sram (s : State) (d n : Nat) : (s.setStep d n).sram = s.sram := rfl
@[simp] theorem State.setStep_sramBad (s : State) (d n : Nat) : (s.setStep d n).sramBad = s.sramBad := rfl
@[simp] theorem State.setStep_rowErr (s : State) (d n : Nat) : (s.setStep d n).rowErr = s.rowErr := rfl
@[simp] theorem State.setStep_rowLost (s : State) (d n : Nat) : (s.setStep d n).rowLost = s.rowLost := rfl
@[simp] theorem State.setStep_rowPardon (s : State) (d n : Nat) : (s.setStep d n).rowPardon = s.rowPardon := rfl
@[simp] theorem State.setStep_plans (s : State) (d n : Nat) : (s.setStep d n).plans = s.plans := rfl
@[simp] theorem State.setStep_copying (s : State) (d n : Nat) : (s.setStep d n).copying = s.copying := rfl
@[simp] theorem State.setStep_edge (s : State) (d n : Nat) : (s.setStep d n).edge = s.edge := rfl
@[simp] theorem State.setStep_loops (s : State) (d n : Nat) : (s.setStep d n).loops = s.loops := rfl
@[simp] theorem State.setStep_fabric (s : State) (d n : Nat) : (s.setStep d n).fabric = s.fabric := rfl
@[simp] theorem State.setStep_sdio (s : State) (d n : Nat) : (s.setStep d n).sdio = s.sdio := rfl
@[simp] theorem State.setStep_boot (s : State) (d n : Nat) : (s.setStep d n).boot = s.boot := rfl
@[simp] theorem State.setStep_testing (s : State) (d n : Nat) : (s.setStep d n).testing = s.testing := rfl
@[simp] theorem State.setStep_freeCtr (s : State) (d n : Nat) : (s.setStep d n).freeCtr = s.freeCtr := rfl
@[simp] theorem State.setStep_reg (s : State) (d n : Nat) (b : Nat) : (s.setStep d n).reg b = s.reg b := rfl

/-! State.setF0. -/

@[simp] theorem State.setF0_pending (s : State) (a v : Nat) : (s.setF0 a v).pending = s.pending := rfl
@[simp] theorem State.setF0_regs (s : State) (a v : Nat) : (s.setF0 a v).regs = s.regs := rfl
@[simp] theorem State.setF0_perReq (s : State) (a v : Nat) : (s.setF0 a v).perReq = s.perReq := rfl
@[simp] theorem State.setF0_resp (s : State) (a v : Nat) : (s.setF0 a v).resp = s.resp := rfl
@[simp] theorem State.setF0_time (s : State) (a v : Nat) : (s.setF0 a v).time = s.time := rfl
@[simp] theorem State.setF0_stopLine (s : State) (a v : Nat) : (s.setF0 a v).stopLine = s.stopLine := rfl
@[simp] theorem State.setF0_f1Int (s : State) (a v : Nat) : (s.setF0 a v).f1Int = s.f1Int := rfl
@[simp] theorem State.setF0_evtMask (s : State) (a v : Nat) : (s.setF0 a v).evtMask = s.evtMask := rfl
@[simp] theorem State.setF0_evtPend (s : State) (a v : Nat) : (s.setF0 a v).evtPend = s.evtPend := rfl
@[simp] theorem State.setF0_dom (s : State) (a v : Nat) : (s.setF0 a v).dom = s.dom := rfl
@[simp] theorem State.setF0_grade (s : State) (a v : Nat) : (s.setF0 a v).grade = s.grade := rfl
@[simp] theorem State.setF0_rmap (s : State) (a v : Nat) : (s.setF0 a v).rmap = s.rmap := rfl
@[simp] theorem State.setF0_sec (s : State) (a v : Nat) : (s.setF0 a v).sec = s.sec := rfl
@[simp] theorem State.setF0_dram (s : State) (a v : Nat) : (s.setF0 a v).dram = s.dram := rfl
@[simp] theorem State.setF0_dramBad (s : State) (a v : Nat) : (s.setF0 a v).dramBad = s.dramBad := rfl
@[simp] theorem State.setF0_foldDue (s : State) (a v : Nat) : (s.setF0 a v).foldDue = s.foldDue := rfl
@[simp] theorem State.setF0_gates (s : State) (a v : Nat) : (s.setF0 a v).gates = s.gates := rfl
@[simp] theorem State.setF0_head (s : State) (a v : Nat) : (s.setF0 a v).head = s.head := rfl
@[simp] theorem State.setF0_sram (s : State) (a v : Nat) : (s.setF0 a v).sram = s.sram := rfl
@[simp] theorem State.setF0_sramBad (s : State) (a v : Nat) : (s.setF0 a v).sramBad = s.sramBad := rfl
@[simp] theorem State.setF0_rowErr (s : State) (a v : Nat) : (s.setF0 a v).rowErr = s.rowErr := rfl
@[simp] theorem State.setF0_rowLost (s : State) (a v : Nat) : (s.setF0 a v).rowLost = s.rowLost := rfl
@[simp] theorem State.setF0_rowPardon (s : State) (a v : Nat) : (s.setF0 a v).rowPardon = s.rowPardon := rfl
@[simp] theorem State.setF0_plans (s : State) (a v : Nat) : (s.setF0 a v).plans = s.plans := rfl
@[simp] theorem State.setF0_copying (s : State) (a v : Nat) : (s.setF0 a v).copying = s.copying := rfl
@[simp] theorem State.setF0_edge (s : State) (a v : Nat) : (s.setF0 a v).edge = s.edge := rfl
@[simp] theorem State.setF0_loops (s : State) (a v : Nat) : (s.setF0 a v).loops = s.loops := rfl
@[simp] theorem State.setF0_power (s : State) (a v : Nat) : (s.setF0 a v).power = s.power := rfl
@[simp] theorem State.setF0_fabric (s : State) (a v : Nat) : (s.setF0 a v).fabric = s.fabric := rfl
@[simp] theorem State.setF0_boot (s : State) (a v : Nat) : (s.setF0 a v).boot = s.boot := rfl
@[simp] theorem State.setF0_testing (s : State) (a v : Nat) : (s.setF0 a v).testing = s.testing := rfl
@[simp] theorem State.setF0_freeCtr (s : State) (a v : Nat) : (s.setF0 a v).freeCtr = s.freeCtr := rfl
@[simp] theorem State.setF0_reg (s : State) (a v : Nat) (b : Nat) : (s.setF0 a v).reg b = s.reg b := rfl

/-! State.answer. -/

@[simp] theorem State.answer_pending (s : State) (r : Option (List Byte)) (l : List Byte) : (s.answer r l).pending = s.pending := rfl
@[simp] theorem State.answer_regs (s : State) (r : Option (List Byte)) (l : List Byte) : (s.answer r l).regs = s.regs := rfl
@[simp] theorem State.answer_perReq (s : State) (r : Option (List Byte)) (l : List Byte) : (s.answer r l).perReq = s.perReq := rfl
@[simp] theorem State.answer_resp (s : State) (r : Option (List Byte)) (l : List Byte) : (s.answer r l).resp = s.resp := rfl
@[simp] theorem State.answer_time (s : State) (r : Option (List Byte)) (l : List Byte) : (s.answer r l).time = s.time := rfl
@[simp] theorem State.answer_stopLine (s : State) (r : Option (List Byte)) (l : List Byte) : (s.answer r l).stopLine = s.stopLine := rfl
@[simp] theorem State.answer_f1Int (s : State) (r : Option (List Byte)) (l : List Byte) : (s.answer r l).f1Int = s.f1Int := rfl
@[simp] theorem State.answer_evtMask (s : State) (r : Option (List Byte)) (l : List Byte) : (s.answer r l).evtMask = s.evtMask := rfl
@[simp] theorem State.answer_evtPend (s : State) (r : Option (List Byte)) (l : List Byte) : (s.answer r l).evtPend = s.evtPend := rfl
@[simp] theorem State.answer_dom (s : State) (r : Option (List Byte)) (l : List Byte) : (s.answer r l).dom = s.dom := rfl
@[simp] theorem State.answer_grade (s : State) (r : Option (List Byte)) (l : List Byte) : (s.answer r l).grade = s.grade := rfl
@[simp] theorem State.answer_rmap (s : State) (r : Option (List Byte)) (l : List Byte) : (s.answer r l).rmap = s.rmap := rfl
@[simp] theorem State.answer_sec (s : State) (r : Option (List Byte)) (l : List Byte) : (s.answer r l).sec = s.sec := rfl
@[simp] theorem State.answer_dram (s : State) (r : Option (List Byte)) (l : List Byte) : (s.answer r l).dram = s.dram := rfl
@[simp] theorem State.answer_dramBad (s : State) (r : Option (List Byte)) (l : List Byte) : (s.answer r l).dramBad = s.dramBad := rfl
@[simp] theorem State.answer_foldDue (s : State) (r : Option (List Byte)) (l : List Byte) : (s.answer r l).foldDue = s.foldDue := rfl
@[simp] theorem State.answer_gates (s : State) (r : Option (List Byte)) (l : List Byte) : (s.answer r l).gates = s.gates := rfl
@[simp] theorem State.answer_head (s : State) (r : Option (List Byte)) (l : List Byte) : (s.answer r l).head = s.head := rfl
@[simp] theorem State.answer_sram (s : State) (r : Option (List Byte)) (l : List Byte) : (s.answer r l).sram = s.sram := rfl
@[simp] theorem State.answer_sramBad (s : State) (r : Option (List Byte)) (l : List Byte) : (s.answer r l).sramBad = s.sramBad := rfl
@[simp] theorem State.answer_rowErr (s : State) (r : Option (List Byte)) (l : List Byte) : (s.answer r l).rowErr = s.rowErr := rfl
@[simp] theorem State.answer_rowLost (s : State) (r : Option (List Byte)) (l : List Byte) : (s.answer r l).rowLost = s.rowLost := rfl
@[simp] theorem State.answer_rowPardon (s : State) (r : Option (List Byte)) (l : List Byte) : (s.answer r l).rowPardon = s.rowPardon := rfl
@[simp] theorem State.answer_plans (s : State) (r : Option (List Byte)) (l : List Byte) : (s.answer r l).plans = s.plans := rfl
@[simp] theorem State.answer_copying (s : State) (r : Option (List Byte)) (l : List Byte) : (s.answer r l).copying = s.copying := rfl
@[simp] theorem State.answer_edge (s : State) (r : Option (List Byte)) (l : List Byte) : (s.answer r l).edge = s.edge := rfl
@[simp] theorem State.answer_loops (s : State) (r : Option (List Byte)) (l : List Byte) : (s.answer r l).loops = s.loops := rfl
@[simp] theorem State.answer_power (s : State) (r : Option (List Byte)) (l : List Byte) : (s.answer r l).power = s.power := rfl
@[simp] theorem State.answer_fabric (s : State) (r : Option (List Byte)) (l : List Byte) : (s.answer r l).fabric = s.fabric := rfl
@[simp] theorem State.answer_boot (s : State) (r : Option (List Byte)) (l : List Byte) : (s.answer r l).boot = s.boot := rfl
@[simp] theorem State.answer_testing (s : State) (r : Option (List Byte)) (l : List Byte) : (s.answer r l).testing = s.testing := rfl
@[simp] theorem State.answer_freeCtr (s : State) (r : Option (List Byte)) (l : List Byte) : (s.answer r l).freeCtr = s.freeCtr := rfl
@[simp] theorem State.answer_reg (s : State) (r : Option (List Byte)) (l : List Byte) (b : Nat) : (s.answer r l).reg b = s.reg b := rfl

/-! State.setRf. -/

@[simp] theorem State.setRf_pending (s : State) (a lo n v : Nat) : (s.setRf a lo n v).pending = s.pending := rfl
@[simp] theorem State.setRf_perReq (s : State) (a lo n v : Nat) : (s.setRf a lo n v).perReq = s.perReq := rfl
@[simp] theorem State.setRf_resp (s : State) (a lo n v : Nat) : (s.setRf a lo n v).resp = s.resp := rfl
@[simp] theorem State.setRf_time (s : State) (a lo n v : Nat) : (s.setRf a lo n v).time = s.time := rfl
@[simp] theorem State.setRf_stopLine (s : State) (a lo n v : Nat) : (s.setRf a lo n v).stopLine = s.stopLine := rfl
@[simp] theorem State.setRf_f1Int (s : State) (a lo n v : Nat) : (s.setRf a lo n v).f1Int = s.f1Int := rfl
@[simp] theorem State.setRf_evtMask (s : State) (a lo n v : Nat) : (s.setRf a lo n v).evtMask = s.evtMask := rfl
@[simp] theorem State.setRf_evtPend (s : State) (a lo n v : Nat) : (s.setRf a lo n v).evtPend = s.evtPend := rfl
@[simp] theorem State.setRf_dom (s : State) (a lo n v : Nat) : (s.setRf a lo n v).dom = s.dom := rfl
@[simp] theorem State.setRf_grade (s : State) (a lo n v : Nat) : (s.setRf a lo n v).grade = s.grade := rfl
@[simp] theorem State.setRf_rmap (s : State) (a lo n v : Nat) : (s.setRf a lo n v).rmap = s.rmap := rfl
@[simp] theorem State.setRf_sec (s : State) (a lo n v : Nat) : (s.setRf a lo n v).sec = s.sec := rfl
@[simp] theorem State.setRf_dram (s : State) (a lo n v : Nat) : (s.setRf a lo n v).dram = s.dram := rfl
@[simp] theorem State.setRf_dramBad (s : State) (a lo n v : Nat) : (s.setRf a lo n v).dramBad = s.dramBad := rfl
@[simp] theorem State.setRf_foldDue (s : State) (a lo n v : Nat) : (s.setRf a lo n v).foldDue = s.foldDue := rfl
@[simp] theorem State.setRf_gates (s : State) (a lo n v : Nat) : (s.setRf a lo n v).gates = s.gates := rfl
@[simp] theorem State.setRf_head (s : State) (a lo n v : Nat) : (s.setRf a lo n v).head = s.head := rfl
@[simp] theorem State.setRf_sram (s : State) (a lo n v : Nat) : (s.setRf a lo n v).sram = s.sram := rfl
@[simp] theorem State.setRf_sramBad (s : State) (a lo n v : Nat) : (s.setRf a lo n v).sramBad = s.sramBad := rfl
@[simp] theorem State.setRf_rowErr (s : State) (a lo n v : Nat) : (s.setRf a lo n v).rowErr = s.rowErr := rfl
@[simp] theorem State.setRf_rowLost (s : State) (a lo n v : Nat) : (s.setRf a lo n v).rowLost = s.rowLost := rfl
@[simp] theorem State.setRf_rowPardon (s : State) (a lo n v : Nat) : (s.setRf a lo n v).rowPardon = s.rowPardon := rfl
@[simp] theorem State.setRf_plans (s : State) (a lo n v : Nat) : (s.setRf a lo n v).plans = s.plans := rfl
@[simp] theorem State.setRf_copying (s : State) (a lo n v : Nat) : (s.setRf a lo n v).copying = s.copying := rfl
@[simp] theorem State.setRf_edge (s : State) (a lo n v : Nat) : (s.setRf a lo n v).edge = s.edge := rfl
@[simp] theorem State.setRf_loops (s : State) (a lo n v : Nat) : (s.setRf a lo n v).loops = s.loops := rfl
@[simp] theorem State.setRf_power (s : State) (a lo n v : Nat) : (s.setRf a lo n v).power = s.power := rfl
@[simp] theorem State.setRf_fabric (s : State) (a lo n v : Nat) : (s.setRf a lo n v).fabric = s.fabric := rfl
@[simp] theorem State.setRf_sdio (s : State) (a lo n v : Nat) : (s.setRf a lo n v).sdio = s.sdio := rfl
@[simp] theorem State.setRf_boot (s : State) (a lo n v : Nat) : (s.setRf a lo n v).boot = s.boot := rfl
@[simp] theorem State.setRf_testing (s : State) (a lo n v : Nat) : (s.setRf a lo n v).testing = s.testing := rfl
@[simp] theorem State.setRf_freeCtr (s : State) (a lo n v : Nat) : (s.setRf a lo n v).freeCtr = s.freeCtr := rfl

/-! State.bump. -/

@[simp] theorem State.bump_pending (s : State) (a n : Nat) : (s.bump a n).pending = s.pending := rfl
@[simp] theorem State.bump_perReq (s : State) (a n : Nat) : (s.bump a n).perReq = s.perReq := rfl
@[simp] theorem State.bump_resp (s : State) (a n : Nat) : (s.bump a n).resp = s.resp := rfl
@[simp] theorem State.bump_time (s : State) (a n : Nat) : (s.bump a n).time = s.time := rfl
@[simp] theorem State.bump_stopLine (s : State) (a n : Nat) : (s.bump a n).stopLine = s.stopLine := rfl
@[simp] theorem State.bump_f1Int (s : State) (a n : Nat) : (s.bump a n).f1Int = s.f1Int := rfl
@[simp] theorem State.bump_evtMask (s : State) (a n : Nat) : (s.bump a n).evtMask = s.evtMask := rfl
@[simp] theorem State.bump_evtPend (s : State) (a n : Nat) : (s.bump a n).evtPend = s.evtPend := rfl
@[simp] theorem State.bump_dom (s : State) (a n : Nat) : (s.bump a n).dom = s.dom := rfl
@[simp] theorem State.bump_grade (s : State) (a n : Nat) : (s.bump a n).grade = s.grade := rfl
@[simp] theorem State.bump_rmap (s : State) (a n : Nat) : (s.bump a n).rmap = s.rmap := rfl
@[simp] theorem State.bump_sec (s : State) (a n : Nat) : (s.bump a n).sec = s.sec := rfl
@[simp] theorem State.bump_dram (s : State) (a n : Nat) : (s.bump a n).dram = s.dram := rfl
@[simp] theorem State.bump_dramBad (s : State) (a n : Nat) : (s.bump a n).dramBad = s.dramBad := rfl
@[simp] theorem State.bump_foldDue (s : State) (a n : Nat) : (s.bump a n).foldDue = s.foldDue := rfl
@[simp] theorem State.bump_gates (s : State) (a n : Nat) : (s.bump a n).gates = s.gates := rfl
@[simp] theorem State.bump_head (s : State) (a n : Nat) : (s.bump a n).head = s.head := rfl
@[simp] theorem State.bump_sram (s : State) (a n : Nat) : (s.bump a n).sram = s.sram := rfl
@[simp] theorem State.bump_sramBad (s : State) (a n : Nat) : (s.bump a n).sramBad = s.sramBad := rfl
@[simp] theorem State.bump_rowErr (s : State) (a n : Nat) : (s.bump a n).rowErr = s.rowErr := rfl
@[simp] theorem State.bump_rowLost (s : State) (a n : Nat) : (s.bump a n).rowLost = s.rowLost := rfl
@[simp] theorem State.bump_rowPardon (s : State) (a n : Nat) : (s.bump a n).rowPardon = s.rowPardon := rfl
@[simp] theorem State.bump_plans (s : State) (a n : Nat) : (s.bump a n).plans = s.plans := rfl
@[simp] theorem State.bump_copying (s : State) (a n : Nat) : (s.bump a n).copying = s.copying := rfl
@[simp] theorem State.bump_edge (s : State) (a n : Nat) : (s.bump a n).edge = s.edge := rfl
@[simp] theorem State.bump_loops (s : State) (a n : Nat) : (s.bump a n).loops = s.loops := rfl
@[simp] theorem State.bump_power (s : State) (a n : Nat) : (s.bump a n).power = s.power := rfl
@[simp] theorem State.bump_fabric (s : State) (a n : Nat) : (s.bump a n).fabric = s.fabric := rfl
@[simp] theorem State.bump_sdio (s : State) (a n : Nat) : (s.bump a n).sdio = s.sdio := rfl
@[simp] theorem State.bump_boot (s : State) (a n : Nat) : (s.bump a n).boot = s.boot := rfl
@[simp] theorem State.bump_testing (s : State) (a n : Nat) : (s.bump a n).testing = s.testing := rfl
@[simp] theorem State.bump_freeCtr (s : State) (a n : Nat) : (s.bump a n).freeCtr = s.freeCtr := rfl

/-! State.bumpWrap. -/

@[simp] theorem State.bumpWrap_pending (s : State) (a n : Nat) : (s.bumpWrap a n).pending = s.pending := rfl
@[simp] theorem State.bumpWrap_perReq (s : State) (a n : Nat) : (s.bumpWrap a n).perReq = s.perReq := rfl
@[simp] theorem State.bumpWrap_resp (s : State) (a n : Nat) : (s.bumpWrap a n).resp = s.resp := rfl
@[simp] theorem State.bumpWrap_time (s : State) (a n : Nat) : (s.bumpWrap a n).time = s.time := rfl
@[simp] theorem State.bumpWrap_stopLine (s : State) (a n : Nat) : (s.bumpWrap a n).stopLine = s.stopLine := rfl
@[simp] theorem State.bumpWrap_f1Int (s : State) (a n : Nat) : (s.bumpWrap a n).f1Int = s.f1Int := rfl
@[simp] theorem State.bumpWrap_evtMask (s : State) (a n : Nat) : (s.bumpWrap a n).evtMask = s.evtMask := rfl
@[simp] theorem State.bumpWrap_evtPend (s : State) (a n : Nat) : (s.bumpWrap a n).evtPend = s.evtPend := rfl
@[simp] theorem State.bumpWrap_dom (s : State) (a n : Nat) : (s.bumpWrap a n).dom = s.dom := rfl
@[simp] theorem State.bumpWrap_grade (s : State) (a n : Nat) : (s.bumpWrap a n).grade = s.grade := rfl
@[simp] theorem State.bumpWrap_rmap (s : State) (a n : Nat) : (s.bumpWrap a n).rmap = s.rmap := rfl
@[simp] theorem State.bumpWrap_sec (s : State) (a n : Nat) : (s.bumpWrap a n).sec = s.sec := rfl
@[simp] theorem State.bumpWrap_dram (s : State) (a n : Nat) : (s.bumpWrap a n).dram = s.dram := rfl
@[simp] theorem State.bumpWrap_dramBad (s : State) (a n : Nat) : (s.bumpWrap a n).dramBad = s.dramBad := rfl
@[simp] theorem State.bumpWrap_foldDue (s : State) (a n : Nat) : (s.bumpWrap a n).foldDue = s.foldDue := rfl
@[simp] theorem State.bumpWrap_gates (s : State) (a n : Nat) : (s.bumpWrap a n).gates = s.gates := rfl
@[simp] theorem State.bumpWrap_head (s : State) (a n : Nat) : (s.bumpWrap a n).head = s.head := rfl
@[simp] theorem State.bumpWrap_sram (s : State) (a n : Nat) : (s.bumpWrap a n).sram = s.sram := rfl
@[simp] theorem State.bumpWrap_sramBad (s : State) (a n : Nat) : (s.bumpWrap a n).sramBad = s.sramBad := rfl
@[simp] theorem State.bumpWrap_rowErr (s : State) (a n : Nat) : (s.bumpWrap a n).rowErr = s.rowErr := rfl
@[simp] theorem State.bumpWrap_rowLost (s : State) (a n : Nat) : (s.bumpWrap a n).rowLost = s.rowLost := rfl
@[simp] theorem State.bumpWrap_rowPardon (s : State) (a n : Nat) : (s.bumpWrap a n).rowPardon = s.rowPardon := rfl
@[simp] theorem State.bumpWrap_plans (s : State) (a n : Nat) : (s.bumpWrap a n).plans = s.plans := rfl
@[simp] theorem State.bumpWrap_copying (s : State) (a n : Nat) : (s.bumpWrap a n).copying = s.copying := rfl
@[simp] theorem State.bumpWrap_edge (s : State) (a n : Nat) : (s.bumpWrap a n).edge = s.edge := rfl
@[simp] theorem State.bumpWrap_loops (s : State) (a n : Nat) : (s.bumpWrap a n).loops = s.loops := rfl
@[simp] theorem State.bumpWrap_power (s : State) (a n : Nat) : (s.bumpWrap a n).power = s.power := rfl
@[simp] theorem State.bumpWrap_fabric (s : State) (a n : Nat) : (s.bumpWrap a n).fabric = s.fabric := rfl
@[simp] theorem State.bumpWrap_sdio (s : State) (a n : Nat) : (s.bumpWrap a n).sdio = s.sdio := rfl
@[simp] theorem State.bumpWrap_boot (s : State) (a n : Nat) : (s.bumpWrap a n).boot = s.boot := rfl
@[simp] theorem State.bumpWrap_testing (s : State) (a n : Nat) : (s.bumpWrap a n).testing = s.testing := rfl
@[simp] theorem State.bumpWrap_freeCtr (s : State) (a n : Nat) : (s.bumpWrap a n).freeCtr = s.freeCtr := rfl

/-! State.bumpFld. -/

@[simp] theorem State.bumpFld_pending (s : State) (a lo n : Nat) : (s.bumpFld a lo n).pending = s.pending := rfl
@[simp] theorem State.bumpFld_perReq (s : State) (a lo n : Nat) : (s.bumpFld a lo n).perReq = s.perReq := rfl
@[simp] theorem State.bumpFld_resp (s : State) (a lo n : Nat) : (s.bumpFld a lo n).resp = s.resp := rfl
@[simp] theorem State.bumpFld_time (s : State) (a lo n : Nat) : (s.bumpFld a lo n).time = s.time := rfl
@[simp] theorem State.bumpFld_stopLine (s : State) (a lo n : Nat) : (s.bumpFld a lo n).stopLine = s.stopLine := rfl
@[simp] theorem State.bumpFld_f1Int (s : State) (a lo n : Nat) : (s.bumpFld a lo n).f1Int = s.f1Int := rfl
@[simp] theorem State.bumpFld_evtMask (s : State) (a lo n : Nat) : (s.bumpFld a lo n).evtMask = s.evtMask := rfl
@[simp] theorem State.bumpFld_evtPend (s : State) (a lo n : Nat) : (s.bumpFld a lo n).evtPend = s.evtPend := rfl
@[simp] theorem State.bumpFld_dom (s : State) (a lo n : Nat) : (s.bumpFld a lo n).dom = s.dom := rfl
@[simp] theorem State.bumpFld_grade (s : State) (a lo n : Nat) : (s.bumpFld a lo n).grade = s.grade := rfl
@[simp] theorem State.bumpFld_rmap (s : State) (a lo n : Nat) : (s.bumpFld a lo n).rmap = s.rmap := rfl
@[simp] theorem State.bumpFld_sec (s : State) (a lo n : Nat) : (s.bumpFld a lo n).sec = s.sec := rfl
@[simp] theorem State.bumpFld_dram (s : State) (a lo n : Nat) : (s.bumpFld a lo n).dram = s.dram := rfl
@[simp] theorem State.bumpFld_dramBad (s : State) (a lo n : Nat) : (s.bumpFld a lo n).dramBad = s.dramBad := rfl
@[simp] theorem State.bumpFld_foldDue (s : State) (a lo n : Nat) : (s.bumpFld a lo n).foldDue = s.foldDue := rfl
@[simp] theorem State.bumpFld_gates (s : State) (a lo n : Nat) : (s.bumpFld a lo n).gates = s.gates := rfl
@[simp] theorem State.bumpFld_head (s : State) (a lo n : Nat) : (s.bumpFld a lo n).head = s.head := rfl
@[simp] theorem State.bumpFld_sram (s : State) (a lo n : Nat) : (s.bumpFld a lo n).sram = s.sram := rfl
@[simp] theorem State.bumpFld_sramBad (s : State) (a lo n : Nat) : (s.bumpFld a lo n).sramBad = s.sramBad := rfl
@[simp] theorem State.bumpFld_rowErr (s : State) (a lo n : Nat) : (s.bumpFld a lo n).rowErr = s.rowErr := rfl
@[simp] theorem State.bumpFld_rowLost (s : State) (a lo n : Nat) : (s.bumpFld a lo n).rowLost = s.rowLost := rfl
@[simp] theorem State.bumpFld_rowPardon (s : State) (a lo n : Nat) : (s.bumpFld a lo n).rowPardon = s.rowPardon := rfl
@[simp] theorem State.bumpFld_plans (s : State) (a lo n : Nat) : (s.bumpFld a lo n).plans = s.plans := rfl
@[simp] theorem State.bumpFld_copying (s : State) (a lo n : Nat) : (s.bumpFld a lo n).copying = s.copying := rfl
@[simp] theorem State.bumpFld_edge (s : State) (a lo n : Nat) : (s.bumpFld a lo n).edge = s.edge := rfl
@[simp] theorem State.bumpFld_loops (s : State) (a lo n : Nat) : (s.bumpFld a lo n).loops = s.loops := rfl
@[simp] theorem State.bumpFld_power (s : State) (a lo n : Nat) : (s.bumpFld a lo n).power = s.power := rfl
@[simp] theorem State.bumpFld_fabric (s : State) (a lo n : Nat) : (s.bumpFld a lo n).fabric = s.fabric := rfl
@[simp] theorem State.bumpFld_sdio (s : State) (a lo n : Nat) : (s.bumpFld a lo n).sdio = s.sdio := rfl
@[simp] theorem State.bumpFld_boot (s : State) (a lo n : Nat) : (s.bumpFld a lo n).boot = s.boot := rfl
@[simp] theorem State.bumpFld_testing (s : State) (a lo n : Nat) : (s.bumpFld a lo n).testing = s.testing := rfl
@[simp] theorem State.bumpFld_freeCtr (s : State) (a lo n : Nat) : (s.bumpFld a lo n).freeCtr = s.freeCtr := rfl

/-! State.intRaise. -/

@[simp] theorem State.intRaise_pending (s : State) (p : Page) (i : Nat) : (s.intRaise p i).pending = s.pending := rfl
@[simp] theorem State.intRaise_perReq (s : State) (p : Page) (i : Nat) : (s.intRaise p i).perReq = s.perReq := rfl
@[simp] theorem State.intRaise_resp (s : State) (p : Page) (i : Nat) : (s.intRaise p i).resp = s.resp := rfl
@[simp] theorem State.intRaise_time (s : State) (p : Page) (i : Nat) : (s.intRaise p i).time = s.time := rfl
@[simp] theorem State.intRaise_stopLine (s : State) (p : Page) (i : Nat) : (s.intRaise p i).stopLine = s.stopLine := rfl
@[simp] theorem State.intRaise_f1Int (s : State) (p : Page) (i : Nat) : (s.intRaise p i).f1Int = s.f1Int := rfl
@[simp] theorem State.intRaise_evtMask (s : State) (p : Page) (i : Nat) : (s.intRaise p i).evtMask = s.evtMask := rfl
@[simp] theorem State.intRaise_evtPend (s : State) (p : Page) (i : Nat) : (s.intRaise p i).evtPend = s.evtPend := rfl
@[simp] theorem State.intRaise_dom (s : State) (p : Page) (i : Nat) : (s.intRaise p i).dom = s.dom := rfl
@[simp] theorem State.intRaise_grade (s : State) (p : Page) (i : Nat) : (s.intRaise p i).grade = s.grade := rfl
@[simp] theorem State.intRaise_rmap (s : State) (p : Page) (i : Nat) : (s.intRaise p i).rmap = s.rmap := rfl
@[simp] theorem State.intRaise_sec (s : State) (p : Page) (i : Nat) : (s.intRaise p i).sec = s.sec := rfl
@[simp] theorem State.intRaise_dram (s : State) (p : Page) (i : Nat) : (s.intRaise p i).dram = s.dram := rfl
@[simp] theorem State.intRaise_dramBad (s : State) (p : Page) (i : Nat) : (s.intRaise p i).dramBad = s.dramBad := rfl
@[simp] theorem State.intRaise_foldDue (s : State) (p : Page) (i : Nat) : (s.intRaise p i).foldDue = s.foldDue := rfl
@[simp] theorem State.intRaise_gates (s : State) (p : Page) (i : Nat) : (s.intRaise p i).gates = s.gates := rfl
@[simp] theorem State.intRaise_head (s : State) (p : Page) (i : Nat) : (s.intRaise p i).head = s.head := rfl
@[simp] theorem State.intRaise_sram (s : State) (p : Page) (i : Nat) : (s.intRaise p i).sram = s.sram := rfl
@[simp] theorem State.intRaise_sramBad (s : State) (p : Page) (i : Nat) : (s.intRaise p i).sramBad = s.sramBad := rfl
@[simp] theorem State.intRaise_rowErr (s : State) (p : Page) (i : Nat) : (s.intRaise p i).rowErr = s.rowErr := rfl
@[simp] theorem State.intRaise_rowLost (s : State) (p : Page) (i : Nat) : (s.intRaise p i).rowLost = s.rowLost := rfl
@[simp] theorem State.intRaise_rowPardon (s : State) (p : Page) (i : Nat) : (s.intRaise p i).rowPardon = s.rowPardon := rfl
@[simp] theorem State.intRaise_plans (s : State) (p : Page) (i : Nat) : (s.intRaise p i).plans = s.plans := rfl
@[simp] theorem State.intRaise_copying (s : State) (p : Page) (i : Nat) : (s.intRaise p i).copying = s.copying := rfl
@[simp] theorem State.intRaise_edge (s : State) (p : Page) (i : Nat) : (s.intRaise p i).edge = s.edge := rfl
@[simp] theorem State.intRaise_loops (s : State) (p : Page) (i : Nat) : (s.intRaise p i).loops = s.loops := rfl
@[simp] theorem State.intRaise_power (s : State) (p : Page) (i : Nat) : (s.intRaise p i).power = s.power := rfl
@[simp] theorem State.intRaise_fabric (s : State) (p : Page) (i : Nat) : (s.intRaise p i).fabric = s.fabric := rfl
@[simp] theorem State.intRaise_sdio (s : State) (p : Page) (i : Nat) : (s.intRaise p i).sdio = s.sdio := rfl
@[simp] theorem State.intRaise_boot (s : State) (p : Page) (i : Nat) : (s.intRaise p i).boot = s.boot := rfl
@[simp] theorem State.intRaise_testing (s : State) (p : Page) (i : Nat) : (s.intRaise p i).testing = s.testing := rfl
@[simp] theorem State.intRaise_freeCtr (s : State) (p : Page) (i : Nat) : (s.intRaise p i).freeCtr = s.freeCtr := rfl

/-! State.lastCode. -/

@[simp] theorem State.lastCode_pending (s : State) (p : Page) (c : Nat) : (s.lastCode p c).pending = s.pending := by
  unfold State.lastCode; split <;> rfl
@[simp] theorem State.lastCode_perReq (s : State) (p : Page) (c : Nat) : (s.lastCode p c).perReq = s.perReq := by
  unfold State.lastCode; split <;> rfl
@[simp] theorem State.lastCode_resp (s : State) (p : Page) (c : Nat) : (s.lastCode p c).resp = s.resp := by
  unfold State.lastCode; split <;> rfl
@[simp] theorem State.lastCode_time (s : State) (p : Page) (c : Nat) : (s.lastCode p c).time = s.time := by
  unfold State.lastCode; split <;> rfl
@[simp] theorem State.lastCode_stopLine (s : State) (p : Page) (c : Nat) : (s.lastCode p c).stopLine = s.stopLine := by
  unfold State.lastCode; split <;> rfl
@[simp] theorem State.lastCode_f1Int (s : State) (p : Page) (c : Nat) : (s.lastCode p c).f1Int = s.f1Int := by
  unfold State.lastCode; split <;> rfl
@[simp] theorem State.lastCode_evtMask (s : State) (p : Page) (c : Nat) : (s.lastCode p c).evtMask = s.evtMask := by
  unfold State.lastCode; split <;> rfl
@[simp] theorem State.lastCode_evtPend (s : State) (p : Page) (c : Nat) : (s.lastCode p c).evtPend = s.evtPend := by
  unfold State.lastCode; split <;> rfl
@[simp] theorem State.lastCode_dom (s : State) (p : Page) (c : Nat) : (s.lastCode p c).dom = s.dom := by
  unfold State.lastCode; split <;> rfl
@[simp] theorem State.lastCode_grade (s : State) (p : Page) (c : Nat) : (s.lastCode p c).grade = s.grade := by
  unfold State.lastCode; split <;> rfl
@[simp] theorem State.lastCode_rmap (s : State) (p : Page) (c : Nat) : (s.lastCode p c).rmap = s.rmap := by
  unfold State.lastCode; split <;> rfl
@[simp] theorem State.lastCode_sec (s : State) (p : Page) (c : Nat) : (s.lastCode p c).sec = s.sec := by
  unfold State.lastCode; split <;> rfl
@[simp] theorem State.lastCode_dram (s : State) (p : Page) (c : Nat) : (s.lastCode p c).dram = s.dram := by
  unfold State.lastCode; split <;> rfl
@[simp] theorem State.lastCode_dramBad (s : State) (p : Page) (c : Nat) : (s.lastCode p c).dramBad = s.dramBad := by
  unfold State.lastCode; split <;> rfl
@[simp] theorem State.lastCode_foldDue (s : State) (p : Page) (c : Nat) : (s.lastCode p c).foldDue = s.foldDue := by
  unfold State.lastCode; split <;> rfl
@[simp] theorem State.lastCode_gates (s : State) (p : Page) (c : Nat) : (s.lastCode p c).gates = s.gates := by
  unfold State.lastCode; split <;> rfl
@[simp] theorem State.lastCode_head (s : State) (p : Page) (c : Nat) : (s.lastCode p c).head = s.head := by
  unfold State.lastCode; split <;> rfl
@[simp] theorem State.lastCode_sram (s : State) (p : Page) (c : Nat) : (s.lastCode p c).sram = s.sram := by
  unfold State.lastCode; split <;> rfl
@[simp] theorem State.lastCode_sramBad (s : State) (p : Page) (c : Nat) : (s.lastCode p c).sramBad = s.sramBad := by
  unfold State.lastCode; split <;> rfl
@[simp] theorem State.lastCode_rowErr (s : State) (p : Page) (c : Nat) : (s.lastCode p c).rowErr = s.rowErr := by
  unfold State.lastCode; split <;> rfl
@[simp] theorem State.lastCode_rowLost (s : State) (p : Page) (c : Nat) : (s.lastCode p c).rowLost = s.rowLost := by
  unfold State.lastCode; split <;> rfl
@[simp] theorem State.lastCode_rowPardon (s : State) (p : Page) (c : Nat) : (s.lastCode p c).rowPardon = s.rowPardon := by
  unfold State.lastCode; split <;> rfl
@[simp] theorem State.lastCode_plans (s : State) (p : Page) (c : Nat) : (s.lastCode p c).plans = s.plans := by
  unfold State.lastCode; split <;> rfl
@[simp] theorem State.lastCode_copying (s : State) (p : Page) (c : Nat) : (s.lastCode p c).copying = s.copying := by
  unfold State.lastCode; split <;> rfl
@[simp] theorem State.lastCode_edge (s : State) (p : Page) (c : Nat) : (s.lastCode p c).edge = s.edge := by
  unfold State.lastCode; split <;> rfl
@[simp] theorem State.lastCode_loops (s : State) (p : Page) (c : Nat) : (s.lastCode p c).loops = s.loops := by
  unfold State.lastCode; split <;> rfl
@[simp] theorem State.lastCode_power (s : State) (p : Page) (c : Nat) : (s.lastCode p c).power = s.power := by
  unfold State.lastCode; split <;> rfl
@[simp] theorem State.lastCode_fabric (s : State) (p : Page) (c : Nat) : (s.lastCode p c).fabric = s.fabric := by
  unfold State.lastCode; split <;> rfl
@[simp] theorem State.lastCode_sdio (s : State) (p : Page) (c : Nat) : (s.lastCode p c).sdio = s.sdio := by
  unfold State.lastCode; split <;> rfl
@[simp] theorem State.lastCode_boot (s : State) (p : Page) (c : Nat) : (s.lastCode p c).boot = s.boot := by
  unfold State.lastCode; split <;> rfl
@[simp] theorem State.lastCode_testing (s : State) (p : Page) (c : Nat) : (s.lastCode p c).testing = s.testing := by
  unfold State.lastCode; split <;> rfl
@[simp] theorem State.lastCode_freeCtr (s : State) (p : Page) (c : Nat) : (s.lastCode p c).freeCtr = s.freeCtr := by
  unfold State.lastCode; split <;> rfl

end Sys2Proof.Machine
end

