-- ==== Sys2Proof/Laws/Ops.lean ====
section
/-! SUPPORT. Laws/Ops.lean: what each shared operation can do: interrupt bits, error capture, and the end of every command. -/

namespace Sys2Proof.Machine

/-! Addresses of pages. -/

theorem Page.base_page (p : Page) : p.base % 4096 = 0 := by
  cases p <;> simp only [Page.base] <;> (try split) <;> omega

/-! Interrupt bits (rules R49, R50). -/

theorem State.reg_intRaise (s : State) (p : Page) (i b : Nat) :
    (s.intRaise p i).reg b = if b = p.base + 0x14 then s.reg b ||| w32 (2 ^ i) else s.reg b := by
  unfold State.intRaise
  rw [State.reg_setReg]
  split
  · rename_i h; subst h; rfl
  · rfl

/-- A register at another offset than that of INT_RAW keeps its value. -/
theorem State.reg_intRaise_off (s : State) (p : Page) (i : Nat) {b : Nat} (h : b % 4096 ≠ 0x14) :
    (s.intRaise p i).reg b = s.reg b := by
  rw [State.reg_intRaise, if_neg]
  intro hb
  have := Page.base_page p
  omega

theorem bit_or (a b : Word) (i : Nat) : bit (a ||| b) i = (bit a i || bit b i) := by simp [bit]

theorem bit_w32_pow (i : Nat) (h : i < 32) : bit (w32 (2 ^ i)) i = true := by
  show (BitVec.ofNat 32 (2 ^ i)).getLsbD i = true
  rw [BitVec.getLsbD_ofNat, Nat.testBit_two_pow_self, decide_eq_true h]; rfl

/-- An interrupt bit that is set stays set. -/
theorem State.intRaise_mono (s : State) (p : Page) (i a j : Nat) (h : bit (s.reg a) j = true) :
    bit ((s.intRaise p i).reg a) j = true := by
  rw [State.reg_intRaise]; split
  · rw [bit_or, h]; rfl
  · exact h

/-- The bit that is raised is set. -/
theorem State.intRaise_self (s : State) (p : Page) (i : Nat) (h : i < 32) :
    bit ((s.intRaise p i).reg (p.base + 0x14)) i = true := by
  rw [State.reg_intRaise, if_pos rfl, bit_or, bit_w32_pow i h]; simp

/-- The sources of a list raised in turn. -/
def State.raiseAll (s : State) (l : List (Page × Nat)) : State := l.foldl (fun s c => s.intRaise c.1 c.2) s

theorem State.raiseAll_cons (s : State) (c : Page × Nat) (l : List (Page × Nat)) :
    s.raiseAll (c :: l) = (s.intRaise c.1 c.2).raiseAll l := rfl

/-- Raising sources changes registers alone. -/
theorem State.raiseAll_frame (s : State) (l : List (Page × Nat)) : s.raiseAll l = { s with regs := (s.raiseAll l).regs } := by
  induction l generalizing s with
  | nil => rfl
  | cons c l ih => rw [State.raiseAll_cons, ih]; rfl

theorem State.raiseAll_off (s : State) (l : List (Page × Nat)) {b : Nat} (h : b % 4096 ≠ 0x14) : (s.raiseAll l).reg b = s.reg b := by
  induction l generalizing s with
  | nil => rfl
  | cons c l ih => rw [State.raiseAll_cons, ih, State.reg_intRaise_off _ _ _ h]

theorem State.raiseAll_mono (s : State) (l : List (Page × Nat)) (a j : Nat) (h : bit (s.reg a) j = true) :
    bit ((s.raiseAll l).reg a) j = true := by
  induction l generalizing s with
  | nil => exact h
  | cons c l ih => rw [State.raiseAll_cons]; exact ih _ (s.intRaise_mono c.1 c.2 a j h)

theorem State.raiseAll_mem (s : State) (l : List (Page × Nat)) (hl : ∀ c ∈ l, c.2 < 32) :
    ∀ c ∈ l, bit ((s.raiseAll l).reg (c.1.base + 0x14)) c.2 = true := by
  induction l generalizing s with
  | nil => simp
  | cons c l ih =>
    intro d hd
    rw [State.raiseAll_cons]
    rcases List.mem_cons.mp hd with rfl | hd
    · exact State.raiseAll_mono _ _ _ _ (s.intRaise_self _ _ (hl _ (by simp)))
    · exact ih _ (fun c hc => hl c (by simp [hc])) d hd

/-! Conditions and the end of every command (rules R50, R381). -/

theorem State.conditions_lt (s : State) : ∀ c ∈ s.conditions, c.2 < 32 := by
  intro c hc
  unfold State.conditions at hc
  simp only [List.mem_append, List.mem_map] at hc
  rcases hc with (((((hc | hc) | hc) | hc) | hc) | hc) | ⟨m, -, rfl⟩
  all_goals first | (split at hc <;> simp at hc; subst hc; decide) | (show (4 : Nat) < 32; decide)

/-- Conditions depend on no INT_RAW. -/
theorem State.conditions_raiseAll (s : State) (l : List (Page × Nat)) : (s.raiseAll l).conditions = s.conditions := by
  have hr : ∀ b, b % 4096 ≠ 0x14 → (s.raiseAll l).reg b = s.reg b := fun b h => s.raiseAll_off l h
  have hf := s.raiseAll_frame l
  have ht : (s.raiseAll l).testing = s.testing := by rw [hf]
  have hp : (s.raiseAll l).power = s.power := by rw [hf]
  have hm : ∀ m, m < 4 → (s.raiseAll l).reg (0x60120 + 0x1000 * m) = s.reg (0x60120 + 0x1000 * m) := fun m h => hr _ (by omega)
  have hcan : (List.range 4).any (fun c => (s.raiseAll l).rf (0x59510 + 0x20 * c) 0 2 == 1) =
      (List.range 4).any (fun c => s.rf (0x59510 + 0x20 * c) 0 2 == 1) := by
    simp [List.range, List.range.loop, State.rf, hr 365840 (by decide), hr 365872 (by decide), hr 365904 (by decide), hr 365936 (by decide)]
  have hmc : ((List.range 4).filter fun m => fld ((s.raiseAll l).reg (0x60120 + 0x1000 * m)) 0 2 == 2 ||
        fld ((s.raiseAll l).reg (0x60120 + 0x1000 * m)) 2 2 == 2) =
      (List.range 4).filter fun m => fld (s.reg (0x60120 + 0x1000 * m)) 0 2 == 2 || fld (s.reg (0x60120 + 0x1000 * m)) 2 2 == 2 := by
    apply List.filter_congr
    intro m h
    rw [hm m (List.mem_range.mp h)]
  have hfl : (s.raiseAll l).faultLow = s.faultLow := by
    simp only [State.faultLow, ht, hp, State.rf, hr 0x5118 (by decide), hr 0x511C (by decide)]
  have hlk : (s.raiseAll l).lockdown = s.lockdown := by simp only [State.lockdown, hr 0x411C (by decide)]
  unfold State.conditions
  simp only [hmc, hcan, hfl, hlk, hr 0x12E4 (by decide), hr 0x7111C (by decide), hr 0x71120 (by decide)]

theorem State.settle_eq (s : State) :
    s.settle = { s.raiseAll s.conditions with
      evtPend := (s.raiseAll s.conditions).evtBits
      f1Int := if (s.raiseAll s.conditions).evtBits &&& ~~~ (s.raiseAll s.conditions).evtPend = 0 then (s.raiseAll s.conditions).f1Int
        else (s.raiseAll s.conditions).f1Int ||| 2 } := rfl

/-- After the end of a command each condition that holds is latched. -/
theorem State.settle_latched (s : State) :
    ∀ c ∈ s.settle.conditions, bit (s.settle.reg (c.1.base + 0x14)) c.2 = true := by
  intro c hc
  have h : s.settle.conditions = s.conditions := by
    have := s.conditions_raiseAll s.conditions
    rw [State.settle_eq]; exact this
  rw [h] at hc
  have := s.raiseAll_mem s.conditions s.conditions_lt c hc
  rw [State.settle_eq]; exact this

theorem State.settle_evt (s : State) : s.settle.evtPend = s.settle.evtBits := by rw [State.settle_eq]; rfl

/-- The end of a command leaves everything but registers, EVT_PEND and F1_INT. -/
theorem State.settle_frame (s : State) :
    s.settle = { s with regs := s.settle.regs, evtPend := s.settle.evtPend, f1Int := s.settle.f1Int } := by
  have h := s.raiseAll_frame s.conditions
  rw [State.settle_eq]
  generalize (s.raiseAll s.conditions) = r at h
  rw [h]

theorem State.settle_off (s : State) {b : Nat} (h : b % 4096 ≠ 0x14) : s.settle.reg b = s.reg b := by
  have := s.raiseAll_off s.conditions h
  rw [State.settle_eq]; exact this

end Sys2Proof.Machine
end

