-- ==== Sys2Proof/Laws/Access.lean ====
section
/-! SUPPORT. Laws/Access.lean: what the register interconnect can do with an access: one lemma for an access that is settled before a
block, one for an access that a block serves. -/

namespace Sys2Proof.Machine

@[simp] theorem wordAccess_word (a : Nat) : (wordAccess a).word = true := rfl

theorem wordAccess_addr {a : Nat} (h : a < 2 ^ 20) : (wordAccess a).addr.toNat = a := by
  show (BitVec.ofNat 20 a).toNat = a
  rw [BitVec.toNat_ofNat, Nat.mod_eq_of_lt h]

/-- A word access settles by its page, DBG_POLICY and the domain's state alone. -/
theorem State.writeAccess_settled {s : State} {r : Requester} {a : Access} {v : Word} {code : Nat} (h : s.settled r a true = some code) :
    s.writeAccess r a v = (code, s.unserved r a.addr.toNat true code) := by
  unfold State.writeAccess; rw [h]

theorem State.readAccess_settled {s : State} {r : Requester} {a : Access} {code : Nat} (h : s.settled r a false = some code) :
    s.readAccess r a = (code, 0, s.unserved r a.addr.toNat false code) := by
  unfold State.readAccess; rw [h]

/-- A write that reaches its block is served by it. -/
theorem State.writeAccess_served {s : State} {r : Requester} {a : Access} {v : Word} {p : Page} (h : s.settled r a true = none)
    (hp : pageAt a.addr.toNat = some p) : s.writeAccess r a v = s.serveWrite r p (a.addr.toNat % 4096) v := by
  unfold State.writeAccess; rw [h, hp]

theorem State.readAccess_served {s : State} {r : Requester} {a : Access} {p : Page} (h : s.settled r a false = none)
    (hp : pageAt a.addr.toNat = some p) : s.readAccess r a = s.serveRead r p (a.addr.toNat % 4096) := by
  unfold State.readAccess; rw [h, hp]

/-- The answer to an access changes `resp` alone. -/
theorem State.respond_frame (s : State) (r : Requester) (code : Nat) (data : Word) :
    s.respond r code data = { s with resp := (s.respond r code data).resp } := rfl

theorem State.regWrite_served {s : State} {r : Requester} {a : Nat} {v : Word} {p : Page} (ha : a < 2 ^ 20)
    (h : s.settled r (wordAccess a) true = none) (hp : pageAt a = some p) :
    s.regWrite r (wordAccess a) v = (s.serveWrite r p (a % 4096) v).2.respond r (s.serveWrite r p (a % 4096) v).1 0 := by
  have e := wordAccess_addr ha
  unfold State.regWrite
  rw [State.writeAccess_served h (by rw [e]; exact hp), e]

theorem State.regRead_served {s : State} {r : Requester} {a : Nat} {p : Page} (ha : a < 2 ^ 20)
    (h : s.settled r (wordAccess a) false = none) (hp : pageAt a = some p) :
    s.regRead r (wordAccess a) = (s.serveRead r p (a % 4096)).2.2.respond r (s.serveRead r p (a % 4096)).1 (s.serveRead r p (a % 4096)).2.1 := by
  have e := wordAccess_addr ha
  unfold State.regRead
  rw [State.readAccess_served h (by rw [e]; exact hp), e]

/-! Commands. -/

theorem State.act_held {s : State} (h : s.power.held = true) (f : State → State) : s.act f = .next s := by
  simp [State.act, h]

theorem State.act_up {s : State} (h : Up s) (f : State → State) : s.act f = .next (f s).done := by
  have : s.power.held = false := h
  simp [State.act, this]

theorem State.actIn_runs {s : State} {d : Nat} (h : Runs s d) (f : State → State) : s.actIn d f = .next (f s).done := by
  rw [State.actIn, State.act_up h.1]; simp [h.2]

theorem State.actIn_off {s : State} {d : Nat} (h : Up s) (hd : s.runs d = false) (f : State → State) : s.actIn d f = .next s.done := by
  rw [State.actIn, State.act_up h]; simp [hd]

/-- A command that is a register write which reaches its block. -/
theorem State.act_regWrite {s : State} {r : Requester} {a : Nat} {v : Word} {p : Page} (h : Reaches s r a true) (ha : a < 2 ^ 20)
    (hp : pageAt a = some p) : (s.act fun s => s.regWrite r (wordAccess a) v) =
      .next ((s.serveWrite r p (a % 4096) v).2.respond r (s.serveWrite r p (a % 4096) v).1 0).done := by
  rw [State.act_up h.1, State.regWrite_served ha h.2 hp]

theorem State.act_regRead {s : State} {r : Requester} {a : Nat} {p : Page} (h : Reaches s r a false) (ha : a < 2 ^ 20)
    (hp : pageAt a = some p) : (s.act fun s => s.regRead r (wordAccess a)) =
      .next ((s.serveRead r p (a % 4096)).2.2.respond r (s.serveRead r p (a % 4096)).1 (s.serveRead r p (a % 4096)).2.1).done := by
  rw [State.act_up h.1, State.regRead_served ha h.2 hp]

end Sys2Proof.Machine
end

