-- ==== Sys2Proof/Laws/Memory.lean ====
section
/-! SUPPORT. Laws/Memory.lean: what each operation over LPDDR6 and the units' memories leaves in them, and that each keeps the
canonical form. -/

namespace Sys2Proof.Machine

/-! Reports touch no memory. -/

@[simp] theorem State.errCapture_dram (s : State) (p : Page) (a b c d : Nat) : (s.errCapture p a b c d).dram = s.dram := by
  simp only [State.errCapture]; split <;> simp

@[simp] theorem State.errCapture_sram (s : State) (p : Page) (a b c d : Nat) : (s.errCapture p a b c d).sram = s.sram := by
  simp only [State.errCapture]; split <;> simp

@[simp] theorem State.faultEvent_dram (s : State) (p : Page) (a b c d e f : Nat) : (s.faultEvent p a b c d e f).dram = s.dram := by
  simp only [State.faultEvent]; split <;> simp; split <;> simp

@[simp] theorem State.faultEvent_sram (s : State) (p : Page) (a b c d e f : Nat) : (s.faultEvent p a b c d e f).sram = s.sram := by
  simp only [State.faultEvent]; split <;> simp; split <;> simp

/-! LPDDR6 (rules R206–R209). -/

@[simp] theorem State.readLine_dram (s : State) (l : Nat) (c : Option Nat) (b : Bool) : (s.readLine l c b).2.dram = s.dram := by
  simp only [State.readLine]; split
  · rfl
  · split
    · simp
    · cases c <;> (try cases b) <;> simp <;> split <;> simp

@[simp] theorem State.readLine_sram (s : State) (l : Nat) (c : Option Nat) (b : Bool) : (s.readLine l c b).2.sram = s.sram := by
  simp only [State.readLine]; split
  · rfl
  · split
    · simp
    · cases c <;> (try cases b) <;> simp <;> split <;> simp

/-- A fold whose every step keeps a part of the state keeps it. -/
theorem foldl_keeps {α β : Type} (f : Bool × State → α → Bool × State) (g : State → β) (h : ∀ r x, g (f r x).2 = g r.2) (l : List α)
    (r : Bool × State) : g (l.foldl f r).2 = g r.2 := by
  induction l generalizing r with
  | nil => rfl
  | cons x l ih => rw [List.foldl_cons, ih, h]

theorem State.dramRead_keeps (s : State) (c : Option Nat) (a n : Nat) :
    (s.dramRead c a n).2.dram = s.dram ∧ (s.dramRead c a n).2.sram = s.sram :=
  ⟨foldl_keeps (fun (r : Bool × State) l => (r.1 || (r.2.readLine l c false).1, (r.2.readLine l c false).2)) State.dram
      (fun r x => State.readLine_dram r.2 x c false) (linesOf a n) (false, s),
   foldl_keeps (fun (r : Bool × State) l => (r.1 || (r.2.readLine l c false).1, (r.2.readLine l c false).2)) State.sram
      (fun r x => State.readLine_sram r.2 x c false) (linesOf a n) (false, s)⟩

/-- A read that answers bytes answers what the memory holds. -/
theorem State.dramRead_data {s : State} {c : Option Nat} {a n : Nat} {bs : List Byte} (h : (s.dramRead c a n).1 = some bs) :
    bs = s.dram.bytes a n := by
  unfold State.dramRead at h
  dsimp only at h
  split at h
  · cases h
  · exact (Option.some.inj h).symm

theorem State.dramWrite_keeps (s : State) (c : Option Nat) (a : Nat) (bs : List Byte) :
    (s.dramWrite c a bs).2.dram = s.dram.store a bs ∧ (s.dramWrite c a bs).2.sram = s.sram := by
  constructor
  · show Mem.store (State.dram _) a bs = _
    congr 1
    refine foldl_keeps _ State.dram (fun r x => ?_) _ _
    dsimp only
    split
    · simp
    · split <;> simp
  · show State.sram _ = _
    refine foldl_keeps _ State.sram (fun r x => ?_) _ _
    dsimp only
    split
    · simp
    · split <;> simp

/-- A write of LPDDR6 stores its bytes or, refused, nothing. -/
theorem State.dramSetBy_dram (s : State) (code : Nat) (c : Option Nat) (a : Nat) (bs : List Byte) :
    (s.dramSetBy code c a bs).2.dram = if code = cOK then s.dram.store a bs else s.dram := by
  unfold State.dramSetBy
  by_cases h : code = cOK
  · simp only [h, ne_eq, not_true_eq_false, if_false, if_true, (State.dramWrite_keeps s c a bs).1]
  · simp only [h, ne_eq, not_false_eq_true, if_true, if_false]

theorem State.dramSetBy_sram (s : State) (code : Nat) (c : Option Nat) (a : Nat) (bs : List Byte) :
    (s.dramSetBy code c a bs).2.sram = s.sram := by
  unfold State.dramSetBy
  by_cases h : code = cOK
  · simp only [h, ne_eq, not_true_eq_false, if_false, (State.dramWrite_keeps s c a bs).2]
  · simp only [h, ne_eq, not_false_eq_true, if_true]

theorem State.dramSet_dram (s : State) (c : Option Nat) (a : Nat) (bs : List Byte) :
    (s.dramSet c a bs).2.dram = if s.dramReach a bs.length = cOK then s.dram.store a bs else s.dram := s.dramSetBy_dram _ c a bs

theorem State.dramSet_sram (s : State) (c : Option Nat) (a : Nat) (bs : List Byte) : (s.dramSet c a bs).2.sram = s.sram :=
  s.dramSetBy_sram _ c a bs

/-! The canonical form. -/

theorem State.reset_wf : State.reset.dram.wf ∧ State.reset.sram.wf := ⟨Mem.wf_nil, Mem.wf_nil⟩

theorem State.dramSet_wf (s : State) (c : Option Nat) (a : Nat) (bs : List Byte) (h : s.dram.wf) : (s.dramSet c a bs).2.dram.wf := by
  rw [State.dramSet_dram]; split
  · exact Mem.wf_store _ _ _ h
  · exact h

theorem State.dramLost_wf (s : State) : s.dramLost.dram.wf := Mem.wf_nil

theorem Cells.wf_paste {α : Type} (d : α) (m w : Cells α) (src dst n : Nat) (hm : Cells.wf (fun _ => d) m) (hw : Cells.wf (fun _ => d) w) :
    Cells.wf (fun _ => d) (Cells.paste m w src dst n) := by
  have key : ∀ p ∈ (w.filter fun p => src ≤ p.1 && p.1 < src + n).map (fun p => (p.1 - src + dst, p.2)),
      dst ≤ p.1 ∧ p.1 < dst + n ∧ p.2 ≠ d := by
    intro p hp
    obtain ⟨q, hq, rfl⟩ := List.mem_map.mp hp
    obtain ⟨hq, hr⟩ := List.mem_filter.mp hq
    simp at hr
    exact ⟨by simp, by simp; omega, hw.2 q hq⟩
  have mid : Cells.wf (fun _ => d) ((w.filter fun p => src ≤ p.1 && p.1 < src + n).map fun p => (p.1 - src + dst, p.2)) := by
    refine ⟨?_, fun p hp => (key p hp).2.2⟩
    rw [List.pairwise_map]
    refine List.Pairwise.imp_of_mem (R := fun p q => p.1 < q.1) ?_ (hw.1.sublist List.filter_sublist)
    intro p q hp hq h
    have := (List.mem_filter.mp hp).2
    have := (List.mem_filter.mp hq).2
    simp at *
    omega
  unfold Cells.paste
  refine Cells.wf_append _ _ _ (Cells.wf_append _ _ _ (Cells.wf_filter _ m _ hm) mid ?_) (Cells.wf_filter _ m _ hm) ?_
  · intro p hp q hq
    have := (List.mem_filter.mp hp).2
    have := (key q hq).1
    simp at *; omega
  · intro p hp q hq
    have hq := (List.mem_filter.mp hq).2
    simp at hq
    rcases List.mem_append.mp hp with hp | hp
    · have := (List.mem_filter.mp hp).2
      simp at this; omega
    · have := (key p hp).2.1
      omega

theorem State.ckToDram_wf (s : State) (m : Mem) (src a n : Nat) (h : s.dram.wf) (hm : m.wf) : (s.ckToDram m src a n).dram.wf :=
  Cells.wf_paste 0 _ _ _ _ _ h hm

theorem State.ckToLane_wf (s : State) (u ofs a n : Nat) (h : s.sram.wf) (hd : s.dram.wf) : (s.ckToLane u ofs a n).sram.wf :=
  Cells.wf_paste 0 _ _ _ _ _ h hd

theorem State.zeroRow_wf (s : State) (u r : Nat) (h : s.sram.wf) : (s.zeroRow u r).sram.wf := Cells.wf_clear _ _ _ _ h

end Sys2Proof.Machine
end

