-- ==== Sys2Proof/WellFormed.lean ====
section
/-! DEFINITION. WellFormed.lean: which operands a command may carry. The types of Syntax.lean already bound every
number; what is left are the lengths of lists. -/

namespace Sys2Proof

/-- The data bytes a CAN DLC stands for (rule R138, ISO 11898-1). -/
def canLen (fd : Bool) (dlc : Nat) : Nat :=
  if dlc ≤ 8 then dlc else if fd then ([12, 16, 20, 24, 32, 48, 64])[dlc - 9]?.getD 64 else 8

/-- A CAN frame carries the bytes its DLC stands for. -/
def CanFrame.wf (f : CanFrame) : Bool := f.data.length == canLen f.fdf f.dlc.toNat

/-- A plan has up to sixteen stages, each of some duration, with a value a stage where they are enabled (rules R277, R298). -/
def Plan.wf (p : Plan) : Bool :=
  0 < p.h && p.h ≤ 16 && p.dt != 0 && (!p.spEn || p.sp.length == p.h) && (!p.ffEn || p.ff.length == p.h)

/-- Whether the operands of a command are ones the outside can deliver. DEDUCED, assumption 5. -/
def Instr.wf (i : Instr) : Bool :=
  match i with
  | .canFrameReceive _ f => f.wf
  | .planReceive _ p => p.wf
  | .ethFrameReceive _ frame _ _ => 14 ≤ frame.length && frame.length ≤ 9216
  | .ethFrameTransmit _ frame => 14 ≤ frame.length && frame.length ≤ 9216
  | .monitorWindow counts => counts.length == 32
  | .managementTick t => t.energy.length == 36
  | .winBurst w data words => if w then data.length == 4 * words.toNat else data.isEmpty
  | _ => true

end Sys2Proof
end

