-- ==== Sys2Proof/Tests/Slice0.lean ====
section
/-! SUPPORT. Tests/Slice0.lean: the model's own tests: terms that WellFormed refuses, single steps, and for every statement of
Certificates/Slice0/Obligations.lean a state and operands that meet its hypotheses, clause by clause. -/

namespace Sys2Proof.Tests

open Sys2Proof Sys2Proof.Machine

set_option Elab.async false

/-! Ill-formed commands. -/

theorem test_wf_refuses_short_ethernet_frame : (Instr.ethFrameReceive 0 (List.replicate 13 0) true 0).wf = false := by decide
theorem test_wf_refuses_short_sent_frame : (Instr.ethFrameTransmit 0 []).wf = false := by decide
theorem test_wf_refuses_can_length : (Instr.canFrameReceive 0 ⟨0, 0, false, false, false, false, 2, [1]⟩).wf = false := by decide
theorem test_wf_takes_can_fd_length : (Instr.canFrameReceive 0 ⟨0, 0, false, true, false, false, 9, List.replicate 12 0⟩).wf = true := by decide
theorem test_wf_refuses_empty_plan : (Instr.planReceive 0 ⟨[], [], 0, 0, 1, 0, false, false, false⟩).wf = false := by decide
theorem test_wf_refuses_31_counts : (Instr.monitorWindow (List.replicate 31 0)).wf = false := by decide
theorem test_wf_refuses_35_meters : (Instr.managementTick ⟨false, 0, 0, 0, 0, 0, 0, 0, 0, List.replicate 35 0⟩).wf = false := by decide
theorem test_wf_refuses_partial_burst : (Instr.winBurst true [1, 2, 3] 1).wf = false := by decide
theorem test_wf_refuses_data_of_a_read_burst : (Instr.winBurst false [1] 1).wf = false := by decide

theorem test_no_word_spells_a_command : decodeTableWord 32 0 = none := rfl

/-! A state after boot, with every domain ON, two basins and two lanes. -/

def up : State := { State.reset with
  power := { powerReset with held := false, pen := 7, pg := 7 }
  testing := false
  dom := (List.range 35).map fun d => (d + 1, 2)
  grade := { gradeReset with code := some 0 }
  boot := { bootReset with step := 3, tested := true }
  rmap := [(4, 1), (5, 0x101), (22, 1), (23, 0x101), (31, 7)] }

/-- The same with registers. -/
def regs (l : List (Nat × Word)) : State := { up with regs := l }

/-- The same with a domain in some state. -/
def domAt (d v : Nat) : State := up.setDomain d v

/-- The same asleep in a coordinator's phase. -/
def powered (p : Power) : State := { up with power := { p with held := false, pen := 7, pg := 7 } }

def after (r : Res) : State := match r with
  | .next t => t
  | _ => State.reset

/-! Steps whose results the manual gives. -/

/-- Rule R54. -/
theorem test_no_page : Cells.get responseNone (after (exec (.registerRead .host ⟨0x07000, true⟩) up)).resp 1 = { code := 4, data := 0 } := by
  decide +kernel
/-- Rule R49: BLOCK_ID of the loop channel 16 page at 0xC0000. -/
theorem test_block_id : Cells.get responseNone (after (exec (.registerRead .host ⟨0xC0000, true⟩) up)).resp 1 = { code := 0, data := 0x00400010 } := by
  decide +kernel
/-- Rule R95: a tick of 2 ns at the nominal addend. -/
theorem test_tick_is_2_ns : (((after (step up)).tc 0).ns, ((after (step up)).tc 0).frac) = (2, 0) := by decide +kernel
/-- Rule R104. -/
theorem test_capture_counts : (after (exec (.capture .host) up)).reg 0x1204 = 1 := by decide +kernel
/-- Rule R388. -/
theorem test_stop_byte : (after (exec (.stopByte 0x5A) up)).stopLine = true ∧ (after (exec (.stopByte 0x5B) up)).stopLine = false := by
  decide +kernel
/-- Rule R342: a gate saturates. -/
theorem test_signal_saturates : ((after (exec (.gSignal .mgmt 0 2) (up.setGate 0 { gateReset with count := 0xFFFFFFFF, sys := true }))).gate 0).count =
    0xFFFFFFFF := by decide +kernel
/-- Rule R470: 4.9 µs are ignored, 5.1 µs are a reset. -/
theorem test_reset_pulse : (after (exec (.wellhouseReset 4900 true) up)).power.held = false ∧
    (after (exec (.wellhouseReset 5100 false) up)).power.held = true := by decide +kernel
/-- Rule R139: a step forward. -/
theorem test_encoder_counts : (after (exec (.encoderEdge 0 true false) (regs [(0x5A100, 3)]))).reg 0x5A104 ≠ 0 := by decide +kernel

/-! Hypotheses of the statements. -/

theorem test_hyp_StepRunsFront : ({ up with pending := [.cmd0, .cmd3] } : State).pending = [.cmd0, .cmd3] := rfl
theorem test_hyp_IdleStepTicks : Up up ∧ up.pending = [] ∧ up.head.running = [] ∧ up.foldDue = [] := by decide +kernel
theorem test_hyp_StepKeepsSettled : Settled up ∧ Safe up := ⟨.inr (by decide +kernel), _, rfl⟩
theorem test_hyp_CommandsAnswer : State.reset.power.held = true ∧ State.reset.pending = [] := by decide
theorem test_hyp_CommandEndFrame : Calm up := by decide

theorem test_hyp_UnservedAccess : Up up ∧ up.settled .host ⟨0x00002, true⟩ true = some cWIDTH ∧ up.settled .host ⟨0x00004, false⟩ false = some cWIDTH ∧
    up.settled .mgmt ⟨0xFFFFC, true⟩ true = some cNO_PAGE ∧ up.settled .debug ⟨0x00100, true⟩ true = some cARG ∧
    Up (domAt 2 0) ∧ (domAt 2 0).settled .mgmt ⟨0x10100, true⟩ false = some cOFF_DOMAIN := by decide +kernel

theorem test_hyp_UnimplementedPage : Up up ∧ (0x07000#20).toNat % 4 = 0 ∧ pageAt (0x07000#20).toNat = none ∧ pageAt (0xFFFFC#20).toNat = none ∧
    (0xFFFFC#20).toNat % 4 = 0 := by decide +kernel

theorem test_hyp_AccessOrder : pageAt 0x10100 = some .headgate ∧ pageAt 0x07000 = none ∧ up.debugForbids 0x10100 true = true ∧
    (regs [(0x76100, 0xFFF)]).debugForbids 0x10100 true = false ∧ up.pwrState .headgate = 2 ∧ (domAt 2 3).pwrState .headgate = 3 ∧
    (domAt 2 1).pwrState .headgate < 2 ∧ (domAt 2 4).pwrState .headgate = 4 := by decide +kernel

theorem test_hyp_HeaderRegisters : Up up ∧ bit ((regs [(0x76100, 1)]).reg 0x76100) 0 = true ∧ pageAt (Page.base .ident) = some .ident ∧
    pageAt (Page.base (.loop 31)) = some (.loop 31) ∧ Reaches up .host (Page.base (.loop 31) + 0x18) true ∧
    Reaches up .slot (Page.base .f2 + 0x1C) true ∧ Reaches up .mgmt (Page.base .ident + 0x24) true ∧ bit (0x80000000 : Word) 31 = true ∧
    Reaches up .host (Page.base .gmap + 0x20) false := by decide +kernel

theorem test_hyp_ErrorsAndFaults : bit (up.reg 0x1024) 31 = false ∧ bit ((regs [(0x1024, 0x80000000)]).reg 0x1024) 31 = true ∧
    up.reg (0x5800 + 32 * ((up.rf 0x510C 0 6 + 63) % 64) + 28) = 0 ∧
    (let s := regs [(0x510C, 1), (0x5800, 0x01FF0024), (0x5804, 0x00010000), (0x581C, 1)]
     let newest := 0x5800 + 32 * ((s.rf 0x510C 0 6 + 63) % 64)
     s.reg (newest + 28) ≠ 0 ∧ s.rf newest 0 16 = fld (w32 (0x24 + 0 * 256 + 0xFF * 65536 + 1 * 16777216)) 0 16 ∧
       s.reg (newest + 4) = w32 (Page.blockId .ident) ∧ s.reg (newest + 12) = w32 0) := by decide +kernel

theorem test_hyp_PlaneRegisters : Reaches up .host 0x71134 true ∧ Reaches (regs [(0x5128, 0x20)]) .mgmt 0x5128 true ∧
    2 ≤ (regs [(0x5128, 0x20)]).rf 0x5128 4 8 ∧ (regs [(0x5128, 0x20)]).reg 0x5128 = (regs [(0x5128, 0x20)]).reg 0x5128 &&& 0xFF0 ∧
    Reaches up .host 0x512C true ∧ Reaches up .host 0x610C true ∧ Reaches up .host 0x5104 false ∧ Reaches up .host 0x72100 true ∧
    Calm up := by decide +kernel

theorem test_hyp_ManagementPlane : Up up ∧ up.mgmtRuns = true ∧ Calm up ∧ ({ up with power := { up.power with fed := 1 } } : State).power.fed.getLsbD 0 = true ∧
    up.power.fed.getLsbD 35 = false ∧
    (let s : State := { regs [(0x5128, 0x20)] with fabric := { fabricReset with wd := 2 } }
     Up s ∧ s.boot.step = 3 ∧ s.rf 0x5128 4 8 ≤ s.fabric.wd ∧ Calm s) := by decide +kernel

theorem test_hyp_ReferencesAndPps : Up up ∧ bit ((regs [(0x12A0, 0)]).reg 0x12A0) 3 = false ∧
    (let s : State := { regs [(0x12A0, 8)] with time := { up.time with ns := 99999, ppsAt := some 0 } }
     bit (s.reg 0x12A0) 3 = true ∧ s.time.ppsAt = some 0 ∧ s.time.ns - 0 < 100000) ∧
    (let s : State := { regs [(0x12A0, 8)] with time := { up.time with ns := 100000, ppsAt := some 0 } }
     bit (s.reg 0x12A0) 3 = true ∧ s.time.ppsAt = some 0 ∧ 100000 ≤ s.time.ns - 0) ∧
    up.mgmtRuns = true ∧ Calm up ∧ up.fabric.refLost = false ∧
    ({ up with fabric := { fabricReset with refLost := true } } : State).fabric.refLost = true := by decide +kernel

theorem test_hyp_MonitorWindows : (let s : State := { up with fabric := { fabricReset with on := 1 } }
    Runs s 1 ∧ Calm s ∧ bit s.fabric.on 0 = true ∧ s.monPowered 0 = true ∧
      0 < floorThreshold (s.monFloor 0 s.fabric.low) ∧ (∀ i ∈ List.range 32, warnThreshold (s.monFloor i s.fabric.low) ≤ 0xFFFF)) := by
  decide +kernel

theorem test_hyp_CounterCorrections : (∀ off ∈ [4, 8, 0xC, 0x10], Reaches up .host (tcGroup 7 + off) true) ∧
    (∀ off ∈ [4, 8, 0xC, 0x10], Reaches up .mgmt (tcGroup 0 + off) true) ∧
    (0x100000000 ≤ fld (1 : Word) 0 8 * 2 ^ 32 ∧ fld (1 : Word) 0 8 * 2 ^ 32 ≤ 0x300000000) ∧ ¬ (fld (4 : Word) 0 8 * 2 ^ 32 ≤ 0x300000000) ∧
    (up.tc 6).spent = false ∧ 0 ≤ (up.tc 6).total ∧ (up.tc 6).total < 2 ^ 48 * 1000000000 := by decide +kernel

theorem test_hyp_CounterCapture : Reaches up .host 0x1200 true ∧ Calm up := by decide +kernel

/-- Slot 0 armed for a free-running target of 0, action `a`. -/
def armed (a : Nat) (more : Nat) : State :=
  { up with time := { up.time with slots := [(0, w32 (1 + 2 * a + more)), (4, 64)] } }

theorem test_hyp_SlotArming : Reaches up .host 0x2104 true ∧ (armed 0 0).slotArmed 0 = true ∧ up.slotArmed 0 = false ∧
    6 ≤ fld (w32 (1 + 2 * 6)) 1 3 ∧ (bit (w32 (1 + 2 * 64)) 7 = true ∧ (up.slotW 0 4).toNat < 64) ∧
    ¬ (6 ≤ fld (w32 1) 1 3 ∨ (bit (w32 1) 7 = true ∧ (up.slotW 0 4).toNat < 64)) ∧
    (let s : State := { armed 0 0 with time := { (armed 0 0).time with firing := [0] } }
     Reaches s .mgmt 0x2104 true ∧ s.slotArmed 0 = true ∧ s.time.firing.contains 0 = true) := by decide +kernel

theorem test_hyp_SlotFires : Up up ∧ up.time.firing.contains 0 = false ∧ up.slotDue 0 = false ∧ (armed 0 0).slotDue 0 = true ∧
    fld ((armed 0 0).slotW 0 0) 1 3 = 0 ∧ fld ((armed 1 0).slotW 0 0) 1 3 = 1 ∧ (armed 1 0).slotDue 0 = true ∧
    (armed 2 0).slotDue 0 = true ∧ fld ((armed 2 0).slotW 0 0) 1 3 = 2 ∧ (armed 2 0).domain 2 = 2 ∧
    ((armed 2 0).setDomain 2 3).domain 2 ≠ 2 ∧ ((armed 2 0).setDomain 2 3).slotDue 0 = true ∧ bit ((armed 0 0).slotW 0 0) 7 = false ∧
    (let s : State := { up with time := { up.time with firing := [255] } }
     s.time.firing.contains 255 = true) ∧
    (let s : State := { armed 0 0 with time := { (armed 0 0).time with slots := (armed 0 0).time.slots ++ [(11, 1)], disarm := [(0, some 0)] } }
     bit ((s.slotAction 0).2.slotW 0 11) 0 = true ∧ Cells.get none (s.slotAction 0).2.time.disarm 0 = some 0) ∧
    (let u := ((armed 0 0x80).slotAction 0).2
     (armed 0 0x80).slotDue 0 = true ∧ bit (u.slotW 0 0) 7 = true ∧ 0 < (u.slotW 0 4).toNat ∧ u.slotTarget 0 ≤ u.now (fld (u.slotW 0 0) 4 3) ∧
       u.now (fld (u.slotW 0 0) 4 3) < 2 ^ 47 * 1000000000) := by
  decide +kernel

/-- Ring 0 enabled with one slot of 128 bytes; its mode bits and its counts. -/
def ring0 (mode wc rc : Word) : State :=
  regs [(0x5B108, 1), (0x5B10C, 2), (0x5B110, mode), (0x5B118, wc), (0x5B11C, rc), (0x60104, 0x10000)]

/-- Ring 0 in the map region, while the map is enabled. -/
def ringInMap : State := regs [(0x5B108, 1), (0x5B10C, 2), (0x5B110, 1), (0x60104, 0x10000), (0x64108, 1)]

theorem test_hyp_Rings_unit : up.ringTakes 0 = false ∧ (ringInMap.ringTakes 0 = true ∧ ringInMap.ringBarred 0 = true) ∧
    (ring0 1 0 0).ringBarred 0 = false ∧ (ring0 3 1 0).ringBarred 0 = false ∧ (ring0 3 1 0).dramBad = [] ∧
    ((ring0 1 1 0).ringTakes 0 = true ∧ ((ring0 1 1 0).reg 0x5B118 - (ring0 1 1 0).reg 0x5B11C).toNat = (ring0 1 1 0).ringSlots 0 ∧
      bit ((ring0 1 1 0).reg 0x5B110) 1 = false) ∧
    ((ring0 1 0 0).ringTakes 0 = true ∧ ((ring0 1 0 0).reg 0x5B118 - (ring0 1 0 0).reg 0x5B11C).toNat ≠ (ring0 1 0 0).ringSlots 0 ∧
      (ring0 1 0 0).dramBad = [] ∧ bit ((ring0 1 0 0).reg 0x5B110) 2 = false ∧ 128 ≤ (ring0 1 0 0).ringSlotBytes 0) ∧
    ((ring0 3 1 0).ringTakes 0 = true ∧ ((ring0 3 1 0).reg 0x5B118 - (ring0 3 1 0).reg 0x5B11C).toNat = (ring0 3 1 0).ringSlots 0 ∧
      bit ((ring0 3 1 0).reg 0x5B110) 1 = true) := by decide +kernel

theorem test_hyp_Rings_control : (ring0 0 0 0).ringDis 0 = false ∧ ({ up with grade := { up.grade with csi := 7 } } : State).ringDis 12 = true ∧ Reaches up .host (ringGroup 51 + 0x10) true ∧ bit (up.reg (ringGroup 51 + 0x10)) 0 = false ∧
    ((regs [(0x5B108, 1), (0x5B10C, 1)]).memTop < (regs [(0x5B108, 1), (0x5B10C, 1)]).ringBase 0 +
      (regs [(0x5B108, 1), (0x5B10C, 1)]).ringSlots 0 * (regs [(0x5B108, 1), (0x5B10C, 1)]).ringSlotBytes 0) ∧
    ((ring0 0 0 0).ringBase 0 + (ring0 0 0 0).ringSlots 0 * (ring0 0 0 0).ringSlotBytes 0 ≤ (ring0 0 0 0).memTop) ∧
    (Reaches (ring0 1 0 0) .mgmt (ringGroup 0 + 0x10) true ∧ bit ((ring0 1 0 0).reg (ringGroup 0 + 0x10)) 0 = true) ∧
    (Reaches (ring0 1 1 0) .mgmt (ringGroup 0 + 0x1C) true ∧ ((ring0 1 1 0).reg 0x5B118 - 0).toNat < ((2 : Word) - 0).toNat ∧
      ((1 : Word) - 0).toNat ≤ ((ring0 1 1 0).reg 0x5B118 - 0).toNat) := by decide +kernel

def camFrame : CsiFrame := { start := 0, num := 0, lines := 0, longest := 0, dt := none, errs := 0, crcErr := false, bytes := [] }
def cam : State := { regs [(0x50100, 0x10001), (0x50108, 0xFF), (0x5B110, 1)] with edge := { edgeReset with csi := [(0, some camFrame)] } }

theorem test_hyp_CameraFrames : up.csiOn 0 = false ∧ cam.csiOn 0 = true ∧ up.csiRouted 0 0 = false ∧ up.gradeDis (.csi 5) = false ∧
    ({ up with grade := { up.grade with csi := 7 } } : State).gradeDis (.csi 5) = true ∧ Runs up 31 ∧ up.csiFrame 0 0 = none ∧ bit (up.reg 0x50100) 0 = false ∧ Runs cam 31 ∧ bit (cam.reg 0x50100) 0 = true ∧
    cam.csiFrame 0 0 = some camFrame ∧ cam.csiRouted 0 0 = true ∧ (csiType 0x2A).isSome = true ∧
    (csiType 0x2A).all (fun j => bit (cam.reg 0x50108) j) = true ∧ (csiType 0x3F).isNone = true ∧
    (let u := cam.csiClose 0 0 4
     bit (u.reg 0x50100) 0 = true ∧ bit (u.reg 0x50100) 16 = true ∧ u.ringOn 0 = true) := by decide +kernel

/-- An Ethernet frame of a type with a payload. -/
def ethOf (ty rest : List Byte) : List Byte := List.replicate 12 0xFF ++ ty ++ rest
def pause : List Byte := ethOf [0x88, 0x08] (List.replicate 46 0)
def ptp : List Byte := ethOf [0x88, 0xF7] (List.replicate 46 0)
def udp : List Byte := ethOf [0x08, 0x00] ([0x45, 0, 0, 46, 0, 0, 0, 0, 64, 17, 0, 0, 10, 0, 0, 1, 10, 0, 0, 2] ++
  [0, 5, 0, 6, 0, 26, 0, 0] ++ List.replicate 18 0)
def ethUp : State := regs [(0x56118, 1), (0x5BE00, 3), (0x5BE04, 0x0A000002), (0x5BE0C, 6)]

theorem test_hyp_EthernetPorts : Runs ethUp 31 ∧ bit (ethUp.reg 0x56118) 0 = true ∧ be16 pause (ethTypeAt pause) = 0x8808 ∧
    be16 ptp (ethTypeAt ptp) ≠ 0x8808 ∧ ethManaged (ethUp.reg 0x56114).toNat ptp = true ∧
    ethManaged (ethUp.reg 0x56114).toNat udp = false ∧ ethManaged (ethUp.reg 0x56114).toNat (ethOf [0, 9] []) = false ∧
    ((ipOf (ethOf [0, 9] [])).bind udpOf).isNone = true ∧ ((ipOf udp).bind udpOf).isSome = true ∧
    (((ipOf udp).bind udpOf).all fun u => ethUp.filterMatches 0 0 (ethVid udp) u) = true ∧
    (((ipOf udp).bind udpOf).all fun u => (List.range 16).all fun f => !up.filterMatches f 0 (ethVid udp) u) = true ∧
    ethUp.mgmtRuns = true ∧ Reaches up .host (ethBase 1 + 0x128) true ∧ bit (up.reg 0x56128) 14 = false ∧
    bit (w32 0x400) 10 = true ∧ ¬ (bit (w32 0) 10 = true ∨ (fld (w32 0) 11 2 ≠ 0 ∧ fld (w32 0) 11 2 ≠ 3)) ∧ fld (w32 0x800) 11 2 = 1 ∧ bit ((regs [(0x56128, 0x4000)]).reg 0x56128) 14 = true := by decide +kernel

def spi (c : Word) : State := regs [(0x58100, c)]
def uart (c f : Word) : State := regs [(0x58180, c), (0x58188, f)]
def uartMid (c f : Word) : State := { uart c f with edge := { edgeReset with uart := [(0, some { start := 0, bytes := [1], errs := 0 })] } }

theorem test_hyp_SerialStreams : Runs (spi 0x41) 31 ∧ bit ((spi 0x41).reg 0x58100) 0 = true ∧ fld ((spi 0x41).reg 0x58100) 6 2 = 1 ∧
    bit ((spi 0x41).reg 0x58100) 8 = false ∧ fld ((spi 0x81).reg 0x58100) 6 2 = 2 ∧
    ({ spi 1 with edge := { edgeReset with spi := [(0, some ⟨0, 1, 4, 0⟩)] } } : State).spiBusy 0 = some ⟨0, 1, 4, 0⟩ ∧
    (bit ((uart 0x21 0x0A00).reg 0x58180) 0 = true ∧ fld ((uart 0x21 0x0A00).reg 0x58180) 5 2 = 1 ∧ fld ((uart 0x21 0x0A00).reg 0x58188) 8 8 = 10) ∧
    (fld ((uart 0x41 0x10000).reg 0x58180) 5 2 = 2 ∧ fld ((uart 0x41 0x10000).reg 0x58188) 16 13 ≤ 1) ∧
    (Runs (uartMid 1 1) 31 ∧ fld ((uartMid 1 1).reg 0x58180) 5 2 = 0 ∧ ((uartMid 1 1).uartMsg 0).isSome = true) := by decide +kernel

def canUp : State := regs [(0x59500, 1), (0x59680, 1)]
def canHear : State := regs [(0x59100, 0x80000000), (0x59500, 1)]

theorem test_hyp_CanPorts : Runs canUp 31 ∧ bit (canUp.reg 0x59500) 0 = true ∧ canUp.rf 0x59510 0 2 ≠ 2 ∧
    ((List.range 32).all fun i => !canUp.canFilter 0 i false 5) = true ∧
    Reaches canUp .mgmt 0x59680 true ∧ Reaches canUp .host 0x59690 true ∧ bit (canUp.reg 0x59680) 0 = true ∧ Calm canUp ∧
    bit (Cells.get 0 ({ canUp with edge := { edgeReset with canWon := [(0, 1)] } } : State).edge.canWon 0) 0 = true ∧
    ({ canHear with edge := { edgeReset with canBuf := [] } } : State).canFilter 0 0 false 0 = true ∧
    (let s := regs [(0x59500, 5), (0x59510, 2)]
     Runs s 31 ∧ bit (s.reg (canBase 0)) 2 = true ∧ s.rf 0x59510 0 2 = 2) ∧ bit (canUp.reg (canBase 0)) 2 = false := by decide +kernel

theorem test_hyp_FieldInputs : Runs up 31 ∧ fld (up.reg 0x5A100) 0 2 = 0 ∧ fld ((regs [(0x5A100, 3)]).reg 0x5A100) 0 2 = 3 ∧
    bit ((regs [(0x5A100, 3)]).reg 0x5A100) 2 = false ∧ quadStep 3 false false false true false ≠ 0 ∧ quadStep 1 false false false false true = 0 ∧
    (0#9).toNat < fld (up.reg 0x5A100) 3 8 + 1 ∧ fld (up.reg 0x5A100) 3 8 + 1 ≤ (1#9).toNat ∧ Calm up ∧ bit (up.reg 0x5A100) 11 = false ∧ bit ((regs [(0x5A100, 0x803)]).reg 0x5A100) 11 = true ∧
    bit ((regs [(0x5A200, 1)]).reg 0x5A200) 0 = true ∧ bit (up.reg 0x5A200) 0 = false := by decide +kernel

theorem test_hyp_Actuators : Runs up 31 ∧ ({ up with edge := { edgeReset with pwm := [(0, { pwmReset with sync := true })] } } : State).pwm 0 =
      { pwmReset with sync := true } ∧
    ((up.pwm 23).sync = false ∧ (up.reg (pwmBase 23 + 4)).toNat ≤ (up.pwm 23).ctr.toNat + 1 ∨ (up.pwm 23).ctr.toNat + 1 < (up.reg (pwmBase 23 + 4)).toNat) ∧
    Reaches up .host (pwmBase 23 + 8) true ∧ bit ((regs [(0x5A300, 0x20)]).reg 0x5A300) 5 = true ∧ bit (up.reg 0x5A300) 5 = false ∧
    (fld ((regs [(0x5A300, 0x11)]).reg 0x5A300) 0 2 = 1 ∧ bit ((regs [(0x5A300, 0x11)]).reg 0x5A300) 4 = true) ∧
    ({ up with boot := { up.boot with tap := 1 } } : State).boot.tap ≠ 0 ∧ up.boot.tap = 0 ∧
    Reaches up .host 0x5A608 true ∧ Calm up ∧ bit (up.reg 0x5A600) 23 = false ∧ up.rf (pwmBase 0) 0 2 = 0 ∧
    Reaches up .mgmt 0x5A600 true ∧ Reaches up .host 0x5A600 true := by decide +kernel

theorem test_hyp_MemoryWrites : up.sramBad = [] ∧ ∀ bs ∈ [[1, 2], [(3 : Byte)]], bs.length ≤ 2 := by decide
theorem test_hyp_RoundingOfMagnitudes : (0 < 1) ∧ (8 % 2 ^ 1 = 0) ∧ (65535 < 65536) := by decide

/-! Engine heads. -/

/-- One running context with one list of one descriptor on an engine whose slot is open. -/
def headOn (e : Nat) (d : List Word) : State := { up with
  regs := [(0x60104, 0x10000), (0x64108, 1)]
  head := { headgateReset with
    ctxs := [(0, { ctxReset with state := .running, members := 1, windows := 2, lists := [{ code := e, descs := [d] }], issued := [0],
                                 places := [[0, 1]], bound := [(0, some { basin := some 0, base := 0, size := 4096 })] })]
    images := [{ digest := [1], level := 0, ctxs := [0], slots := [[0, 0xFFFFFFFF, 0x40, 0xFFFFFFFF, 0xFFFFFFFF, 0xFFFFFFFF, 0, 0]] }]
    slotAt := [(e, 1)] } }

/-- ADD of two 1 × 1 tiles of FP32; an 8-byte ZERO; a PLAN_RESET; MAP_AGEOUT. -/
def addDesc : List Word := [0x00005510, 5, 0x1000, 0x2000, 0, 0x4000, 0x00010001, 0, 0x00010001, 0x00010001, 0x007C0000, 0, 0, 0, 0, 0]
def zeroDesc : List Word := [0x00000803, 0, 0, 0, 0, 0, 0, 7]
def resetDesc : List Word := [5, 0, 0, 0x40, 0, 0, 0, 0, 0, 0, 0, 0, 0, 0, 0, 0]
def ageDesc : List Word := [0x63, 5, 0x1000, 0, 0, 0, 0x00010001, 0, 0, 0, 0, 0, 0, 0, 0, 0]

/-- The same with the engine running the head that it takes, of some duration. -/
def runsOn (e : Nat) (d : List Word) (dur : BitVec 32) : State :=
  match (headOn e d).pickHead e with
  | some h => (headOn e d).engineStart e h ⟨dur, false, [], []⟩ []
  | none => up

theorem test_hyp_TileCommands : (let s := headOn 0x10 addDesc
    Runs s 2 ∧ s.pickHead 0 = none ∧ (s.pickHead 0x10).any (fun h => fld (dw h.desc 0) 0 8 == 0x10) = true ∧
      (s.pickHead 0x10).any (fun h => fld (dw h.desc 0) 0 8 != 0x11) = true) ∧
    (let s := runsOn 0x10 addDesc 5
     (s.running 0x10).any (fun q =>
      let d := q.head.desc
      let s1 := s.setRunning 0x10 none
      let x := s1.ctx q.head.c
      let pl := placeFn x
      let u := (s1.unitOf false 0).2
      let w := runOp 0x10 x q.head.c u 0 pl d q { code := cOK, rd := 0, flits := 0, s := s1 }
      fld (dw d 1) 24 4 == (((x.lists[q.head.list]?).map (·.code)).getD 0) % 16 && !s1.waitsFree .vector d &&
      tileCheck .vector (gateInRange x) pl s1.logicalBasins d == cOK && (s1.unitOf false 0).1 == cOK && s1.tileLinked pl u 0x10 d &&
      !w.refused && w.code == cOK && w.f.s.sramBad == [] && !q.residue && !s.waitsFence 0x10 q &&
      (w.f.s.refReach pl (tRef d 3) (spanOf w.rows.length (tPitch d 3) (w.rows.headD []).length)).1 == cOK) = true) := by decide +kernel

theorem test_hyp_MapCommands : (let s := headOn 0x48 ageDesc
    Runs s 2 ∧ (s.pickHead 0x48).any (fun h => fld (dw h.desc 0) 0 8 == 0x63) = true) ∧ up.pickHead 0x48 = none ∧
    (let s := runsOn 0x48 ageDesc 5
     (s.running 0x48).any (fun q =>
      let d := q.head.desc
      let s1 := s.setRunning 0x48 none
      !s1.head.mapLost && !s1.waitsFree .map d && s1.mapLinked (placeFn (s1.ctx q.head.c)) d &&
      mapCheck (gateInRange (s1.ctx q.head.c)) (placeFn (s1.ctx q.head.c)) s1.logicalBasins d == cOK && bit (s1.reg 0x64108) 0) = true ∧
     ({ s with head := { s.head with mapLost := true } } : State).head.mapLost = true ∧
     bit ((({ s with regs := [] } : State).setRunning 0x48 none).reg 0x64108) 0 = false) := by
  decide +kernel

theorem test_hyp_PumpCommands : (let s := headOn 0x20 zeroDesc
    Runs s 2 ∧ s.pickHead 0x21 = none ∧ (s.pickHead 0x20).any (fun h => fld (dw h.desc 0) 0 4 == 3) = true) ∧
    (let s := runsOn 0x20 zeroDesc 5
     (s.running 0x20).any (fun q =>
      let s1 := s.setRunning 0x20 none
      let x := s1.ctx q.head.c
      let d := q.head.desc
      pKind d == 3 && s1.head.pumpsLost == [] && !pumpArg x d && !s1.waitsFree .pump d && (loadOf x d q.head.member).isNone &&
      ((Cells.get none x.bound (pDstWin d + q.head.member * x.wpm)).any fun w => decide (pExtent d (pDstOfs d) (pDstPitch d) ≤ w.size) &&
        (s1.windowReach w (pDstOfs d) (pExtent d 0 (pDstPitch d))).1 == cOK &&
        s1.linked (pumpNode 0) (windowNode 0 w (s1.windowReach w (pDstOfs d) (pExtent d 0 (pDstPitch d))).2))) = true) := by
  decide +kernel

theorem test_hyp_LaneCommands : (let s := headOn 0x40 resetDesc
    Runs s 2 ∧ s.pickHead 0x41 = none ∧ (s.pickHead 0x40).any (fun h => fld (dw h.desc 0) 0 4 == 5) = true) ∧
    (let s := runsOn 0x40 resetDesc 5
     (s.running 0x40).any (fun q =>
      let s1 := s.setRunning 0x40 none
      let d := q.head.desc
      eKind d == 5 && fld (dw d 1) 24 3 == 0 && !s1.waitsFree .solver d && (s1.unitOf true 0).1 == cOK && !q.residue &&
      laneCheck (gateInRange (s1.ctx q.head.c)) s1.logicalLanes d == cOK && (s1.ctx q.head.c).tearing.isNone) = true) := by decide +kernel

theorem test_hyp_UnitService : Up up ∧ (regs [(0x2000C, 1)]).domain (unitPage 0).domain = 2 ∧ bit ((regs [(0x2000C, 1)]).reg 0x2000C) 0 = true ∧
    ((regs [(0x2000C, 1)]).sramBad = []) ∧ 2 ^ 21 * 0 ≤ 3 ∧ 3 < 2 ^ 21 * 0 + unitSize 0 / 8 ∧ Calm (regs [(0x2000C, 1)]) ∧
    bit ((regs [(0x2000C, 0)]).reg 0x2000C) 0 = false ∧
    (let s : State := { up with copying := [(0, 2)] }
     s.runs (unitDomain 0) = true ∧ s.copying = [(0, 2)] ∧ (s.freeSpare 0 2).isSome = true) ∧
    (let s := runsOn 0x40 resetDesc 5
     s.runs 2 = true ∧ fld (s.rm (unitWord 18)) 0 2 = 1 ∧ s.running (s.logicalOf 0) = none ∧
       (s.running (0x40 + s.logicalOf 18)).any (fun q => (16512 : Word).toNat ≤ 4 * ((EngClass.solver.waves q.head.desc).1 +
         (EngClass.solver.waves q.head.desc).2) && 4 * ((EngClass.solver.waves q.head.desc).1 + (EngClass.solver.waves q.head.desc).2) <
         (16513 : Word).toNat) = true) ∧
    (let s := runsOn 0x10 addDesc 5
     s.runs 2 = true ∧ fld (s.rm (unitWord 0)) 0 2 = 1 ∧ (s.running (0x10 + s.logicalOf 0)).isSome = true) ∧
    (let s : State := { up with head := { headgateReset with subst := [{ lane := false, logical := 0, retired := 0, reserve := 2 }] } }
     s.domain (unitDomain (unitNo false 2)) = 2) := by decide +kernel

theorem test_hyp_UnitRetirement : fld (up.rm (unitWord 26)) 0 2 = 0 ∧ fld (up.rm (unitWord 0)) 0 2 = 1 ∧ up.live = [] ∧
    (({ up with rmap := [(4, 1), (5, 0xF02)] } : State).nextReserve false).isSome = true ∧
    (let s := runsOn 0x10 addDesc 5
     unitEngine false 0 0x10 = true ∧ (s.running 0x10).isSome = true) := by decide +kernel

theorem test_hyp_LinkFailures : Up up ∧ bit (up.rm (nodeWord 29)) 0 = false ∧ bit (({ up with rmap := [(nodeWord 29, 7)] } : State).rm (nodeWord 29)) 0 = true ∧
    (nodeUnit 1).isSome = true ∧ fld (up.rm (unitWord 18)) 0 2 = 1 ∧ fld (up.rm (unitWord 26)) 0 2 ≠ 1 ∧ up.runs 2 = true ∧
    up.running 0x20 = none ∧
    (let s := runsOn 0x20 zeroDesc 5
     (s.running 0x20).any (fun q => 1000 * 0 ≤ 4 * (s.ctx q.head.c).compiled.pumpTerm q.head.desc &&
       4 * (s.ctx q.head.c).compiled.pumpTerm q.head.desc < 1000 * 1) = true) := by
  decide +kernel

def mcUp : State := { up with regs := [(0x60104, 0x100000), (0x6011C, 1)] }

theorem test_hyp_MemoryInService : Up mcUp ∧ bit (mcUp.reg 0x6011C) 0 = true ∧ mcUp.runs 32 = true ∧ mcUp.dramBad = [] ∧
    (let s : State := { mcUp with dramBad := [(0, 1)] }
     64 * 0 < s.memTop ∧ s.lineChan 0 / 2 = 0 ∧ Calm s) ∧
    bit ((domAt 32 0).reg 0x6011C) 0 = true ∧ (domAt 32 0).runs 32 = false ∧ mcUp.chanRetired 1 = false ∧
    ((regs [(0x60100, 0x200)]).chanRetired 1 = true ∨ (regs [(0x60100, 0x100)]).chanRetired 0 = true) ∧
    Reaches up .host 0x64108 true ∧ bit ((regs [(0x64108, 1)]).reg 0x64108) 0 = true ∧ bit (up.reg 0x64108) 0 = false ∧
    (up.memTop < up.mapBase + 2 ^ 27 ∧ mcUp.mapBase + 2 ^ 27 ≤ mcUp.memTop ∧ Reaches mcUp .host 0x64108 true ∧ Calm mcUp) ∧
    bit (up.reg 0x64108) 3 = false ∧ bit ((regs [(0x64108, 8)]).reg 0x64108) 3 = true ∧ Runs up 2 := by decide +kernel

/-- Loop channel 0 in a state, in RUN mode or OFF. -/
def loopIn (cfg : Word) (o : LoopSt) : State := { regs [(0x4000C, cfg)] with loops := [(0, o)] }
def busyLoop : LoopSt := { loopReset with st := 2, busy := some { y := 0, t6 := 0, stop := false, j := 0 }, trigAt := some 0 }

theorem test_hyp_LoopSamples : Runs up 30 ∧ (up.loop 31).busy = none ∧ ((loopIn 2 busyLoop).loop 0).busy.isSome = true ∧ (loopIn 2 busyLoop).replicas 0 = 7 ∧
    (let s := loopIn 2 busyLoop
     let l := s.sampleLaw 0 { y := 0, t6 := 0, stop := false, j := 0 }
     let f (u : Word) : Flips := ⟨u, 0, 0, 0, 0, 0, 0, 0, 0, 0⟩
     s.pastDeadline 0 = false ∧ (l.flip (f 1)).words ≠ l.words ∧ (l.flip (f 1)).words ≠ (l.flip (f 2)).words ∧
       (l.flip (f 2)).words ≠ (l.flip (f 3)).words ∧ (l.flip (f 1)).words ≠ (l.flip (f 3)).words) ∧
    ({ loopIn 2 busyLoop with time := { up.time with ns := 10000 } } : State).pastDeadline 0 = true ∧
    (({ loopIn 2 busyLoop with time := { up.time with ns := 2 * 4096 } } : State).lfld 0 0x150 0 12 * 2 ≤ 2 * 4096) ∧
    (loopIn 2 busyLoop).loopLost 0 = false ∧ (loopIn 2 busyLoop).lmode 0 ≠ 0 ∧ (loopIn 2 busyLoop).loopState 0 ≠ 5 ∧
    (loopIn 2 { loopReset with st := 5 }).loopState 0 = 5 ∧ up.lmode 0 = 0 ∧
    ({ up with rmap := [(31, 15)] } : State).loopLost 0 = true := by decide +kernel

theorem test_hyp_LoopOutputBounds : (regs [(0x40124, 0), (0x40128, 1)]).lint 0 0x124 ≤ (regs [(0x40124, 0), (0x40128, 1)]).lint 0 0x128 := by
  decide +kernel

theorem test_hyp_GatedChannel : (let s : State := { regs [(0x4000C, 2), (0x5A300, 0x20)] with loops := [(0, { loopReset with st := 2 })] }
    s.lmode 0 = 2 ∧ s.loopLost 0 = false ∧ (s.loop 0).waiting = [] ∧ s.stopLine = false ∧ (s.loop 0).stop = false ∧ (s.loop 0).held = false ∧
    bit (s.reg (pwmBase 0)) 5 = true ∧ s.rf (pwmBase 0) 6 5 = 0 ∧ bit (s.reg 0x5A600) 0 = false) := by decide +kernel

theorem test_hyp_LoopCommands : Reaches up .host (loopBase 31 + 0x170) true ∧ Reaches up .mgmt (loopBase 0 + 0x170) true ∧ up.lmode 0 = 0 ∧
    up.loopLost 0 = false ∧ (loopIn 2 busyLoop).lmode 0 ≠ 0 ∧
    (let s : State := { regs [(0x4000C, 2), (0x40600, 1)] with loops := [(0, { loopReset with st := 2 })] }
     Reaches s .mgmt (loopBase 0 + 0x170) true ∧ fld (s.lstored 0 0x600) 0 2 ≠ 0 ∧ s.loopState 0 = 2 ∧ s.lmode 0 ≠ 0) ∧
    fld (up.lstored 0 0x600) 0 2 = 0 ∧ Reaches up .host 0x38264 true ∧ Reaches up .mgmt (0x30000 + 0x204) true ∧
    0x7FF0000000000000 < (0x7FF00001 * 2 ^ 32) % 2 ^ 63 ∧ (0x7FF00000 * 2 ^ 32) % 2 ^ 63 ≤ 0x7FF0000000000000 := by decide +kernel

theorem test_hyp_TraceData : Reaches up .host (loopBase 31 + 0x714) false ∧ (up.loop 31).trace.armed = false ∧
    ((loopIn 2 { loopReset with trace := { traceReset with armed := true } }).loop 0).trace.armed = true := by decide +kernel

/-! The headgate. -/

/-- Context 0 in a state, with gates 1024 and 1025. -/
def ctxIn (st : CtxState) (f : Ctx → Ctx) : State := { up with
  head := { headgateReset with ctxs := [(0, f { ctxReset with state := st, members := 1, gateBase := 1024, gateCnt := 2, lists := [], issued := [] })] } }

def waiting : State :=
  let s := headOn 0x10 (addDesc.take 12 ++ [0x00060400, 0, 0, 0])
  { s with gates := [(1024, { gateReset with timeout := 3 })],
           head := { s.head with ctxs := s.head.ctxs.map fun p => (p.1, { p.2 with
             gateBase := 1024, gateCnt := 1, waits := [(0, some ⟨0, false, false⟩)] }) } }

theorem test_hyp_Invocations : Reaches up .host 0x10118 true ∧ Reaches (domAt 2 3) .host 0x10118 true ∧ (domAt 2 3).domain 2 ≠ 2 ∧
    (up.ctx (up.ctxSel .host)).state = .free ∧
    (let x := (ctxIn .admitted id).ctx 0
     x.state = .admitted ∧ x.tearing = none ∧ x.pend = none ∧ (ctxIn .admitted id).ckBusy = false ∧ (ctxIn .admitted id).rpMode 0 ≠ 2) ∧
    (let x := (ctxIn .running fun c => { c with pend := some 3 }).ctx 0
     x.state = .running ∧ x.pend = some 3) ∧ Runs up 2 ∧
    ((ctxIn .admitted fun c => { c with pend := some 3 }).ctx 0).pend = some 3 ∧
    (let x := (ctxIn .running id).ctx 0
     x.state = .running ∧ x.missed = false ∧ x.deadline ≤ (ctxIn .running id).now 7) ∧
    ((ctxIn .running fun c => { c with deadline := 1 }).ctx 0).deadline = 1 ∧ (ctxIn .running id).now 7 < 1 ∧
    (let s := { headOn 0 addDesc with regs := [(0x10100, 1)] }
     (s.slotEntries[0]?).isSome = true ∧ s.frameOrigin + 0 ≤ s.now 7 ∧ (s.reg 0x10100).toNat ≠ 0 ∧ Calm s) ∧
    (let late : State := { waiting with time := { waiting.time with tc := (List.range 8).map fun n => (n, { tcReset with ns := 5000 }) } }
     late.listOn 0 0x10 = some 0 ∧
     (late.timedWait 0 0 false).any (fun p => decide ((late.gate p.1.1).timeout ≠ 0 ∧ p.2.since + 1000 * (late.gate p.1.1).timeout.toNat ≤ late.now 7) &&
       late.waitHolds p.1) = true ∧
     (waiting.timedWait 0 0 false).any (fun p => decide (waiting.now 7 < p.2.since + 1000 * (waiting.gate p.1.1).timeout.toNat)) = true) := by decide +kernel

theorem test_hyp_ContextTeardown : Reaches up .mgmt 0x10118 true ∧ Reaches up .host 0x10118 true ∧ (up.ctx 0).state = .free ∧
    (let x := (ctxIn .admitted id).ctx 0
     x.state = .admitted ∧ x.tearing = none) ∧ (let x := (ctxIn .running id).ctx 0
     x.state = .running ∧ x.tearing = none) ∧
    ((ctxIn .running fun c => { c with tearing := some ⟨0x35, 0, 0⟩ }).ctx 0).tearing ≠ none ∧
    ((ctxIn .faulted id).ctx 0).state = .faulted ∧ 1024 ≤ 1025 ∧ 1025 < ((ctxIn .faulted id).ctx 0).gateBase + ((ctxIn .faulted id).ctx 0).gateCnt ∧
    Runs up 2 ∧ up.dramBad = [] ∧ Calm up ∧ (runsOn 0x10 addDesc 5).ctxRuns 0 = true ∧
    (ctxIn .running fun c => { c with tearing := some ⟨0x35, 0, 0⟩ }).ctxRuns 0 = false ∧
    ((ctxIn .running fun c => { c with tearing := some ⟨0x35, 0, 0⟩, revoke := true }).ctx 0).revoke = true := by decide +kernel

def sysGate (n : Word) : State := up.setGate 0 { gateReset with count := n, sys := true }

theorem test_hyp_SluiceGates : Reaches up .mgmt 0x12114 true ∧ Reaches up .host 0x1311C true ∧ up.gateOwner 1023 = 0x7E ∧ up.gateOwner 0 = 0x7E ∧
    (sysGate 0).gateOwner 0 = 0x7F ∧ (sysGate 0xFFFFFFFE).gate 0 = { gateReset with count := 0xFFFFFFFE, sys := true } ∧
    ((sysGate 0xFFFFFFFE).gate 0).count.toNat + 1 ≤ 0xFFFFFFFF ∧ 0xFFFFFFFF < ((sysGate 0xFFFFFFFE).gate 0).count.toNat + 2 ∧
    (ctxIn .admitted id).gateOwner 1024 ≠ 0x7F ∧ (ctxIn .admitted id).gateOwner 1024 ≠ 0x7E ∧ up.gateSel .mgmt 0 ≤ 1023 ∧
    ((sysGate 0).gate 0).sys = true ∧ (up.gate 0).sys = false := by decide +kernel

theorem test_hyp_AccountsAndCheckpoints : Reaches up .host 0x10160 true ∧ Calm up ∧ Reaches up .mgmt 0x10354 true ∧
    (ctxIn .running id).ckRefused = true ∧
    (let s := regs [(0x10344, 0x40), (0x10348, 0x40), (0x60104, 0x10000)]
     s.ckRefused = false ∧ s.rf 0x10340 0 4 < 8 ∧ (s.unitOf true 0).1 = cOK ∧ s.chans ≠ [] ∧ s.mcOff = false ∧ s.domain 2 = 2 ∧ s.sramBad = [] ∧ s.dramBad = [] ∧ Calm s) ∧
    Runs up 2 ∧ up.head.ck = none ∧ ({ up with head := { headgateReset with ck := some 0 } } : State).head.ck = some 0 := by decide +kernel

/-! The command link. -/

def card (x : Sdio) : State := { up with sdio := x }
def fn12 : Sdio := { sdioReset with f0 := [(2, 6)] }

theorem test_hyp_BusCommands : Up up ∧ up.cardOn = true ∧ (domAt 1 0).cardOn = false ∧ Up (domAt 1 0) ∧ up.sdio.ready = false ∧
    (card { sdioReset with ready := true }).sdio.ready = true ∧ fld (0xFF8000 : Word) 0 24 &&& 0xFF8000 ≠ 0 ∧
    (fld (0x001000 : Word) 0 24 ≠ 0 ∧ fld (0x001000 : Word) 0 24 &&& 0xFF8000 = 0) ∧ (card { sdioReset with rca := 1 }).sdio.rca = 1 ∧
    nfld ((card { sdioReset with f0 := [(0x13, 4)] }).f0 0x13) 1 3 = 2 ∧ nfld (up.f0 0x13) 1 3 = 0 := by decide +kernel

theorem test_hyp_ByteCommands : Up up ∧ (domAt 1 0).cardOn = false ∧ up.cardOn = true ∧ up.fnReady 1 = false ∧ (card fn12).fnReady 1 = true ∧
    (card { fn12 with busy := true }).sdio.busy = true ∧ (card fn12).sdio.busy = false ∧ (card fn12).sdio.resp = false ∧
    (card { fn12 with openXfer := some 2 }).sdio.openXfer = some (2#3).toNat ∧
    (card { fn12 with load := some ⟨0, 4, 0, [1], true⟩ }).sdio.load = some ⟨0, 4, 0, [1], true⟩ ∧
    ({ up with boot := { bootReset with step := 4 } } : State).boot.step = 4 := by decide +kernel

theorem test_hyp_RegisterWindow : Up (card fn12) ∧ (card fn12).cardOn = true ∧ (card fn12).fnReady 1 = true ∧ (card fn12).sdio.winAddr.toNat < 2 ^ 20 ∧
    2 ^ 20 ≤ (card { fn12 with winAddr := 0x100000 }).sdio.winAddr.toNat := by decide +kernel

theorem test_hyp_ExtendedTransfers : Up (card fn12) ∧ (card fn12).cardOn = true ∧ (card fn12).fnReady 2 = true ∧ (domAt 1 0).cardOn = false ∧
    up.fnError 3 = some 2 ∧ up.fnError 2 = some 1 ∧ (card fn12).fnError 2 = none ∧ (card fn12).fnError 1 = none ∧
    ((⟨[7], [0], none⟩ : Cmd53Data).badBlocks = [0] ∧ (⟨[7], [], none⟩ : Cmd53Data).bytes.length = (1#9).toNat) ∧
    (let s := { card { fn12 with load := some ⟨0, 4, 0, [1], true⟩ } with regs := [(0x60104, 0x10000)] }
     s.sdio.load = some ⟨0, 4, 0, [1], true⟩ ∧ s.dramReach (0 + [(1 : Byte)].length) [(2 : Byte), 3, 4].length = cOK) ∧
    [(1 : Byte)].length + 3 ≤ 4 ∧ up.sdio.load = none := by
  decide +kernel

/-- A frame of a command with a counter and a payload. -/
def frame (cmd flags : Byte) (ctr : Nat) (p : List Byte) : List Byte :=
  leBytes 2 (32 + p.length) ++ [cmd, flags, 1, 0, 0, 0] ++ leBytes 8 ctr ++ List.replicate 16 0 ++ p
def vcp (f : List Byte) : State := card { fn12 with busy := true, frame := f, ver := some 1 }
def keyed (f : List Byte) : State := { vcp f with sec := { securityReset with cmdKey := some [1], lastCtr := 5 } }

theorem test_hyp_PlainFrames : Runs (vcp (frame 2 0 0 [])) 1 ∧ (vcp (frame 2 0 0 [])).sdio.busy = true ∧ frameBad (frame 2 0 0 []) = false ∧
    frameCmd (frame 2 0 0 []) = 2 ∧ field (frame 2 0 0 []) 4 1 = 1 ∧ field (frame 2 0 0 []) 5 1 = 0 ∧
    (frameBad (frame 2 1 0 []) = true ∧ frameCmd (frame 2 1 0 []) = 2) ∧ up.sdio.ver ≠ some (field (frame 2 0 0 []) 4 1) ∧
    (frameBad (frame 1 0 0 [1, 1]) = false ∧ frameCmd (frame 1 0 0 [1, 1]) = 1) ∧ (frameBad (frame 3 0 0 []) = false ∧ frameCmd (frame 3 0 0 []) = 3) ∧
    (frameBad (frame 0x20 0 0 [1]) = false ∧ field (frame 0x20 0 0 [1]) 32 1 ≠ 2) ∧
    (frameBad (frame 0x20 0 0 [2]) = false ∧ field (frame 0x20 0 0 [2]) 32 1 = 2) ∧ up.sdio.busy = false ∧
    (frameBad (frame 9 0 0 []) = true ∧ vcpCodes.contains (frameCmd (frame 9 0 0 [])) = false) := by decide +kernel

theorem test_hyp_CriticalFrames : (let f := frame 0x14 1 6 (List.replicate 8 0)
    Runs (keyed f) 1 ∧ (keyed f).sdio.busy = true ∧ frameBad f = false ∧ (keyed f).sdio.ver = some (field f 4 1) ∧ field f 5 1 = 0 ∧ frameCmd f = 0x14 ∧
    (keyed f).lockdown = false ∧ ((keyed f).setReg 0x411C 1).lockdown = true ∧ (vcp f).sec.cmdKey = none ∧
    (frameTag [1] f ≠ slice f 16 16) ∧ (keyed f).sec.lastCtr.toNat < field f 8 8 ∧ field (frame 0x14 1 5 []) 8 8 ≤ (keyed f).sec.lastCtr.toNat) := by
  decide +kernel

/-- A frame whose tag checks under the key. -/
def tagged (ctr : Nat) : List Byte :=
  let f := frame 0x14 1 ctr (List.replicate 8 0)
  f.take 16 ++ frameTag [1] f ++ f.drop 32

theorem test_hyp_CriticalFrames_tag : frameTag [1] (tagged 6) = slice (tagged 6) 16 16 := by decide +kernel

/-! Trust and power. -/

theorem test_hyp_BootVerification : (let s : State := { up with boot := { bootReset with step := 2, tested := true, stream := List.replicate 2048 0 } }
    Runs s 1 ∧ s.boot.step = 2 ∧ s.boot.tested = true ∧ s.domain 1 = 2 ∧ up.boot.step ≠ 2 ∧ bootCheck s.boot.stream = some cARG ∧
      headerOk (s.boot.stream.take 128) = false) := by decide +kernel

def blank : SelfTest := ⟨[], [], [], [], [], [], [], false, 3, 3⟩

theorem test_hyp_SelfTestRuns : (let s : State := { up with testing := true }
    Up s ∧ s.testing = true ∧ s.power.pg = 7 ∧ s.power.stuck = false ∧ blank.speed.toNat ≤ 3 ∧ blank.dens.toNat ≤ 3 ∧ up.testing = false ∧
    ({ s with rmap := [(0, 0x524D0860)] } : State).rm 0 ≠ 0 ∧ s.rm 1 = 0) := by decide +kernel

theorem test_hyp_ResetsAndSupplies : (4900#32).toNat ≤ 4900 ∧ (5099#32).toNat < 5100 ∧ 5100 ≤ (5100#32).toNat ∧ 4900 < (4901#32).toNat ∧
    up.power.held = false ∧ State.reset.power.held = true ∧ Up up ∧
    (let s : State := { up with power := { up.power with pen := 1, pg := 0 } }
     s.power.pen.getLsbD 0 = true ∧ s.power.pg.getLsbD 0 = false ∧ s.power.stuck = false ∧ s.power.pen.getLsbD 2 = false) ∧
    up.power.pen.getLsbD 2 = true ∧ up.power.pg.getLsbD 2 = true := by decide +kernel

theorem test_hyp_Glitches : Up up ∧ up.power.pen.getLsbD 2 = true ∧ ({ up with power := { up.power with pen := 1 } } : State).power.pen.getLsbD 1 = false ∧
    up.rf 0x4114 0 2 ≤ 3 ∧ (regs [(0x4100, 2)]).rf 0x4100 0 2 = 2 ∧ (regs [(0x4100, 0)]).rf 0x4100 0 2 = 0 := by decide +kernel

theorem test_hyp_DebugPort : Up up ∧ bit (up.reg 0x76104) 1 = false ∧ bit ((regs [(0x76104, 3)]).reg 0x76104) 1 = true ∧ up.reg 0x5A600 = 0 ∧
    (regs [(0x5A600, 1), (0x76104, 3)]).reg 0x5A600 ≠ 0 := by decide +kernel

theorem test_hyp_SleepEntry : Reaches up .mgmt 0x3100 true ∧ Reaches up .host 0x3100 true ∧ up.moving = false ∧ up.rf 0x3104 0 2 = 0 ∧
    (powered { powerReset with phase := 1 }).moving = true ∧ (regs [(0x3104, 2)]).rf 0x3104 0 2 = 2 ∧ (regs [(0x3104, 2)]).moving = false ∧
    (let s : State := { powered { powerReset with idleNs := [(5, 1000)] } with regs := [(0x3214, 0x100001)], rmap := [(6, 1)] }
     s.idleDue 5 = true ∧ s.moving = false) ∧
    (let s : State := { powered { powerReset with idleNs := [(5, 1000)], phase := 1 } with regs := [(0x3214, 0x100001)], rmap := [(6, 1)] }
     s.idleDue 5 = true ∧ s.moving = true) ∧ up.idleDue 35 = false ∧
    (let s := powered { powerReset with phase := 1, ask := [3] }
     s.power.phase = 1 ∧ s.power.ask = [3] ∧ (domainUnit 3).any s.isFailed = false ∧ s.domainBusy 3 = false ∧ (domainUnit 3).isSome = true) ∧
    (let s : State := { powered { powerReset with phase := 1, ask := [3] } with rmap := [(4, 3)] }
     (domainUnit 3).any s.isFailed = true) ∧
    (let s : State := { runsOn 0x10 addDesc 5 with
       power := { up.power with phase := 1, ask := [3] }, time := { up.time with ns := 65535000 }, regs := [(0x3108, 0)] }
     s.domainBusy 3 = true ∧ (domainUnit 3).any s.isFailed = false ∧ s.rf 0x3108 0 16 * 1000 ≤ s.time.ns - s.power.askNs) ∧
    (let s := powered { powerReset with phase := 2, target := 1, seq := some ⟨1, 2, 1, false⟩ }
     s.power.phase = 2 ∧ (s.power.target = 1 ∨ s.power.target = 2) ∧ s.power.seq.isSome = true) ∧
    (sleepState 3 3 = 0 ∧ sleepState 1 3 = 3) ∧
    (let s := powered { powerReset with phase := 2, target := 3 }
     s.power.phase = 2 ∧ s.reg 0x311C = 0 ∧ s.power.reqs = [] ∧ s.power.next = none ∧ 1 ≤ s.power.target ∧ s.power.target ≤ 3) := by decide +kernel

theorem test_hyp_WakeEvents : Up up ∧ (999#32).toNat < 1000 ∧ 1000 ≤ (1000#32).toNat ∧ (domAt 1 0).domain 1 = 0 ∧ up.domain 1 ≠ 0 ∧
    bit ((regs [(0x3118, 0)]).reg 0x3118) 2 = false ∧ bit (up.reg 0x3118) 0 = true ∧ (powered { powerReset with phase := 1 }).power.phase ≠ 0 ∧
    bit ((regs [(0x3104, 8)]).reg 0x3104) 3 = true ∧ (regs [(0x3104, 1)]).rf 0x3104 0 2 ≠ 0 ∧ bit ((regs [(0x3104, 1)]).reg 0x3104) 3 = false ∧
    (let s := (powered { powerReset with slept := [3] }).setDomain 3 3
     s.domain 3 = 3 ∧ s.standsBy 3 = false ∧ s.power.slept.contains 3 = true) ∧
    Reaches up .host 0x3128 true ∧ Reaches up .host 0x312C true := by decide +kernel

/-- Domain 3 wakes at a step. -/
def waking (n : Nat) : State := (powered { powerReset with steps := [(3, n), (67, 1)] }).setDomain 3 1

theorem test_hyp_DomainExit : Up (waking 1) ∧ (waking 1).wakeStep 3 = 1 ∧ (waking 1).power.pg.getLsbD (domainRail 3) = true ∧ (waking 2).wakeStep 3 = 2 ∧
    (waking 3).wakeStep 3 = 3 ∧ (waking 4).wakeStep 3 = 4 ∧ (domainUnit 3).any (waking 4).isFailed = false ∧
    (let s : State := { waking 4 with rmap := [(4, 3)] }
     s.wakeStep 3 = 4 ∧ (domainUnit 3).any s.isFailed = true) ∧ up.wakeStep 35 = 0 := by decide +kernel

def changing (old new wait : Nat) (again : Bool) : State := powered { powerReset with seq := some ⟨old, new, wait, again⟩ }

theorem test_hyp_LevelChanges : Reaches up .mgmt 0x73120 true ∧ Reaches up .host 0x73120 true ∧ (4 ≤ 4 ∧ (4#3).toNat ≤ up.rf 0x73128 0 3 ∨ (3#3).toNat ≤ up.rf 0x73128 0 3) ∧
    up.power.seq = none ∧ (changing 1 2 1 false).power.seq = some ⟨1, 2, 1, false⟩ ∧ (changing 1 2 1 true).power.next = none ∧
    (changing 1 2 2 false).power.seq = some ⟨1, 2, 2, false⟩ ∧ (changing 2 1 3 false).power.seq = some ⟨2, 1, 3, false⟩ ∧ Runs up 1 := by decide +kernel

end Sys2Proof.Tests
end

section

namespace Sys2Proof.Machine

/-! Accesses that no block serves (rule R481): the command as a whole, and the step for an unimplemented page (rule R54). -/

theorem exec_registerWrite_settled {s : State} {r : Requester} {a : Access} {v : Word} {code : Nat} (hup : Up s)
    (h : s.settled r a true = some code) :
    exec (.registerWrite r a v) s = .next ((s.unserved r a.addr.toNat true code).respond r code 0).done := by
  show (s.act fun s => s.regWrite r a v) = _
  rw [State.act_up hup, State.regWrite, State.writeAccess_settled h]

theorem exec_registerRead_settled {s : State} {r : Requester} {a : Access} {code : Nat} (hup : Up s)
    (h : s.settled r a false = some code) :
    exec (.registerRead r a) s = .next ((s.unserved r a.addr.toNat false code).respond r code 0).done := by
  show (s.act fun s => s.regRead r a) = _
  rw [State.act_up hup, State.regRead, State.readAccess_settled h]

/-- The page is looked up before DBG_POLICY, the header shadow and the domain's state, so none of these matters. -/
theorem State.settled_noPage (s : State) (r : Requester) {a : Access} (write : Bool) (hw : a.word = true)
    (ha : a.addr.toNat % 4 = 0) (hp : pageAt a.addr.toNat = none) : s.settled r a write = some cNO_PAGE := by
  simp [State.settled, hw, ha, hp]

theorem State.unserved_noPage (s : State) (r : Requester) (a : Nat) (write : Bool) :
    s.unserved r a write cNO_PAGE = s.logAccess r a write cNO_PAGE := by
  rw [State.unserved, if_pos (Or.inr rfl)]

/-- Settles O8: the page lookup settles both accesses with NO_PAGE, and an access so settled is logged and answered with 0. -/
theorem unimplementedPage : Obligations.UnimplementedPage := by
  intro s r n v hup ha hp
  have hsettled (write : Bool) : s.settled r { addr := n, word := true } write = some cNO_PAGE :=
    s.settled_noPage r write rfl ha hp
  constructor
  · rw [exec_registerWrite_settled hup (hsettled true), State.unserved_noPage]
  · rw [exec_registerRead_settled hup (hsettled false), State.unserved_noPage]

end Sys2Proof.Machine
end

section

namespace Sys2Proof

open Sys2Proof.Machine

/-! Frames of a step taken in parts. -/

theorem SameBut.trans {rs : Nat → Prop} {u v t : State} (huv : SameBut rs u v) (hvt : SameBut rs v t) : SameBut rs u t := by
  obtain ⟨frameV, regV⟩ := huv
  obtain ⟨frameT, regT⟩ := hvt
  refine ⟨?_, fun a ha hend => (regT a ha hend).trans (regV a ha hend)⟩
  rw [frameT, frameV]

theorem SameBut.mono {rs rs' : Nat → Prop} {u t : State} (h : SameBut rs u t) (hrs : ∀ a, rs a → rs' a) : SameBut rs' u t :=
  ⟨h.1, fun a ha => h.2 a fun hr => ha (hrs a hr)⟩

end Sys2Proof

namespace Sys2Proof.Machine

/-! The end of a command where nothing else waits for it: it changes the registers of `endRegs`, EVT_PEND and F1_INT alone. -/

theorem State.raiseAll_ne (s : State) (l : List (Page × Nat)) {b : Nat} (h : ∀ c ∈ l, b ≠ c.1.base + 0x14) :
    (s.raiseAll l).reg b = s.reg b := by
  induction l generalizing s with
  | nil => rfl
  | cons c l ih =>
    obtain ⟨hc, hl⟩ := List.forall_mem_cons.mp h
    rw [State.raiseAll_cons, ih _ hl, State.reg_intRaise, if_neg hc]

/-- INT_RAW of every page that has a condition is among the registers that the end of a command may change. -/
theorem State.conditions_endRegs (s : State) : ∀ c ∈ s.conditions, c.1.base + 0x14 ∈ endRegs := by
  intro c hc
  simp only [State.conditions, List.mem_append, List.mem_ite_nil_right, List.mem_singleton, List.mem_map, List.mem_filter,
    List.mem_range] at hc
  rcases hc with (((((⟨-, rfl⟩ | ⟨-, rfl⟩) | ⟨-, rfl⟩) | ⟨-, rfl⟩) | ⟨-, rfl⟩) | ⟨-, rfl⟩) | ⟨m, ⟨hm, -⟩, rfl⟩
  case inr =>
    show 0x60000 + 0x1000 * m + 0x14 ∈ endRegs
    simp only [endRegs, List.mem_cons, List.not_mem_nil, or_false]
    omega
  all_goals decide

theorem State.settle_sameBut (s : State) : SameBut (fun _ => False) s s.settle := by
  refine ⟨s.settle_frame, fun a _ ha => ?_⟩
  rw [State.settle_eq]
  exact s.raiseAll_ne _ fun c hc h => ha (h ▸ s.conditions_endRegs c hc)

theorem State.noteBelow_sameBut (s : State) : SameBut (fun _ => False) s s.noteBelow := by
  have hreg {a : Nat} (v : Word) (ha : a ∉ endRegs) : (s.setReg 0x73124 v).reg a = s.reg a :=
    s.reg_setReg_ne v fun h => ha (h ▸ by decide)
  simp only [State.noteBelow]
  split
  · refine ⟨rfl, fun a _ ha => ?_⟩
    have hraw : a ≠ Page.base .perf + 0x14 := fun h => ha (h ▸ by decide)
    rw [State.reg_intRaise, if_neg hraw, hreg _ ha]
  · exact ⟨rfl, fun a _ ha => hreg _ ha⟩

theorem State.done_calm {s : State} (h : Calm s) : s.done = s.noteBelow.settle := by
  obtain ⟨hfold, hcut⟩ := h
  have hcuts : s.endCuts = s := by simp only [State.endCuts, hcut, Bool.false_eq_true, if_false]
  have hfolds : s.foldAll = s := by simp only [State.foldAll, hfold, List.foldl_nil]; rw [← hfold]
  rw [State.done, hcuts, hfolds]

theorem State.done_sameBut {s : State} (h : Calm s) : SameBut (fun _ => False) s s.done := by
  rw [State.done_calm h]
  exact s.noteBelow_sameBut.trans s.noteBelow.settle_sameBut

/-! The snapshot of the time counters (rule R104). -/

/-- The capture of counter `n` into its four words of the snapshot. -/
def State.captureTc (s : State) (n : Nat) : State :=
  let c := s.tc n
  let a := 0x1210 + 0x10 * n
  (((s.setReg a (w32 c.ns.toNat)).setReg (a + 4) (w32 c.sec.toNat)).setReg (a + 8)
    (w32 (c.sec.toNat / 2 ^ 32))).setReg (a + 12) c.frac

/-- The captures of the counters below `m`, in turn. -/
def State.captureTcs (s : State) (m : Nat) : State := (List.range m).foldl State.captureTc s

/-- The four words that the snapshot has for counter `n` show `c`. -/
def State.Shows (s : State) (n : Nat) (c : Tc) : Prop :=
  s.reg (0x1210 + 0x10 * n) = w32 c.ns.toNat ∧ s.reg (0x1214 + 0x10 * n) = w32 c.sec.toNat ∧
  s.reg (0x1218 + 0x10 * n) = w32 (c.sec.toNat / 2 ^ 32) ∧ s.reg (0x121C + 0x10 * n) = c.frac

theorem State.capture_eq (s : State) : s.capture = (s.captureTcs 8).bumpWrap 0x1204 1 := rfl

theorem State.captureTcs_succ (s : State) (m : Nat) : s.captureTcs (m + 1) = (s.captureTcs m).captureTc m := by
  rw [State.captureTcs, List.range_succ, List.foldl_append]; rfl

theorem State.captureTc_off (s : State) {n a : Nat} (h : a < 0x1210 + 0x10 * n ∨ 0x1220 + 0x10 * n ≤ a) :
    (s.captureTc n).reg a = s.reg a := by
  unfold State.captureTc
  iterate 4 rw [State.reg_setReg_ne _ _ (by omega)]

theorem State.captureTc_shows (s : State) (n : Nat) : (s.captureTc n).Shows n (s.tc n) := by
  simp (disch := omega) only [State.Shows, State.captureTc, State.reg_setReg, if_true, if_pos, if_neg, and_self]

theorem State.captureTcs_frame (s : State) (m : Nat) : s.captureTcs m = { s with regs := (s.captureTcs m).regs } := by
  induction m with
  | zero => rfl
  | succ m ih => rw [State.captureTcs_succ, ih]; rfl

theorem State.captureTcs_tc (s : State) (m n : Nat) : (s.captureTcs m).tc n = s.tc n := by
  rw [State.captureTcs_frame]; rfl

theorem State.captureTcs_off (s : State) {m a : Nat} (h : a < 0x1210 ∨ 0x1210 + 0x10 * m ≤ a) :
    (s.captureTcs m).reg a = s.reg a := by
  induction m with
  | zero => rfl
  | succ m ih => rw [State.captureTcs_succ, State.captureTc_off _ (by omega), ih (by omega)]

/-- What another state shows of a counter depends on the counter's four words alone. -/
theorem State.Shows.congr {s t : State} {n : Nat} {c : Tc} (h : s.Shows n c)
    (heq : ∀ a, 0x1210 + 0x10 * n ≤ a → a < 0x1220 + 0x10 * n → t.reg a = s.reg a) : t.Shows n c := by
  obtain ⟨hns, hlo, hhi, hfrac⟩ := h
  refine ⟨?_, ?_, ?_, ?_⟩ <;> rw [heq _ (by omega) (by omega)] <;> assumption

/-- A later capture leaves the words of the counters before it. -/
theorem State.captureTcs_shows (s : State) {m n : Nat} (h : n < m) : (s.captureTcs m).Shows n (s.tc n) := by
  induction m with
  | zero => omega
  | succ m ih =>
    rw [State.captureTcs_succ]
    rcases Nat.lt_succ_iff_lt_or_eq.mp h with hlt | rfl
    · exact (ih hlt).congr fun a _ ha => State.captureTc_off _ (by omega)
    · simpa only [State.captureTcs_tc] using (s.captureTcs n).captureTc_shows n

theorem State.capture_frame (s : State) : s.capture = { s with regs := s.capture.regs } := by
  rw [State.capture_eq, State.captureTcs_frame]; rfl

theorem State.capture_off (s : State) {a : Nat} (h : ¬ (0x1204 ≤ a ∧ a < 0x1290)) : s.capture.reg a = s.reg a := by
  rw [State.capture_eq, State.bumpWrap, State.reg_setReg_ne _ _ (by omega), State.captureTcs_off _ (by omega)]

theorem State.capture_seq (s : State) : s.capture.reg 0x1204 = s.reg 0x1204 + 1 := by
  rw [State.capture_eq, State.bumpWrap, State.reg_setReg_self, State.captureTcs_off _ (by omega)]; rfl

theorem State.capture_shows (s : State) {n : Nat} (h : n < 8) : s.capture.Shows n (s.tc n) := by
  rw [State.capture_eq]
  exact (s.captureTcs_shows h).congr fun a _ _ => State.reg_setReg_ne _ _ (by omega)

theorem State.serveWrite_capture (s : State) (r : Requester) : s.serveWrite r .time 0x200 1 = (cOK, s.capture) := rfl

/-- No register of the snapshot is one that the end of a command may change. -/
theorem snapshot_not_endRegs {a : Nat} (hlo : 0x1204 ≤ a) (hhi : a < 0x1290) : a ∉ endRegs := by
  intro h
  simp only [endRegs, List.mem_cons, List.not_mem_nil, or_false] at h
  omega

theorem exec_capture {s : State} {r : Requester} (h : Reaches s r 0x1200 true) :
    exec (.capture r) s = .next (s.capture.respond r cOK 0).done := by
  show (s.act fun s => s.regWrite r (wordAccess 0x1200) 1) = _
  rw [State.act_regWrite h (by decide) (p := .time) (by decide), show 0x1200 % 4096 = 0x200 from rfl, State.serveWrite_capture]

/-- Up to the end of the command, the write changes the snapshot and the answer alone. -/
theorem State.respond_capture_sameBut (s : State) (r : Requester) :
    SameBut (fun a => 0x1204 ≤ a ∧ a < 0x1290) (s.respond r cOK 0) (s.capture.respond r cOK 0) := by
  refine ⟨by rw [State.capture_frame]; rfl, fun a ha _ => ?_⟩
  rw [State.respond_reg, State.respond_reg, s.capture_off ha]

theorem State.respond_capture_calm {s : State} (r : Requester) (h : Calm s) : Calm (s.capture.respond r cOK 0) := by
  have hfold : s.capture.foldDue = s.foldDue := by rw [State.capture_frame]
  have hhead : s.capture.head = s.head := by rw [State.capture_frame]
  rwa [Calm, State.respond_foldDue, State.respond_head, hfold, hhead]

/-- Settles O16: the write's capture changes the snapshot alone, and the end of the command leaves the snapshot as captured. -/
theorem counterCapture : Obligations.CounterCapture := by
  intro s r hreach hcalm
  have hdone := State.done_sameBut (State.respond_capture_calm r hcalm)
  have hsnap {a : Nat} (hlo : 0x1204 ≤ a) (hhi : a < 0x1290) : (s.capture.respond r cOK 0).done.reg a = s.capture.reg a :=
    (hdone.2 a id (snapshot_not_endRegs hlo hhi)).trans (s.capture.respond_reg r cOK 0 a)
  refine ⟨_, exec_capture hreach, (s.respond_capture_sameBut r).trans (hdone.mono fun _ => False.elim), ?_, fun n hn => ?_⟩
  · rw [hsnap (by omega) (by omega), State.capture_seq]
  · exact (s.capture_shows hn).congr fun a _ _ => hsnap (by omega) (by omega)

end Sys2Proof.Machine
end

section

namespace Sys2Proof.Machine

/-! The sample boundary of a channel in RUN (rules R303, R306). -/

@[simp] theorem State.loop_setLoop_self (s : State) (c : Nat) (x : LoopSt) : (s.setLoop c x).loop c = x := Cells.get_put_self ..

@[simp] theorem State.setLoop_lmode (s : State) (c d : Nat) (x : LoopSt) : (s.setLoop c x).lmode d = s.lmode d := rfl

@[simp] theorem State.setLoop_loopLost (s : State) (c d : Nat) (x : LoopSt) : (s.setLoop c x).loopLost d = s.loopLost d := rfl

@[simp] theorem State.setLoop_loopGated (s : State) (c d : Nat) (x : LoopSt) : (s.setLoop c x).loopGated d = s.loopGated d := rfl

/-- Output `k` takes its duty from channel `c` (rule R297). -/
def State.OutputNames (s : State) (c k : Nat) : Prop :=
  k < 24 ∧ bit (s.reg (pwmBase k)) 5 = true ∧ s.rf (pwmBase k) 6 5 = c

theorem State.mem_namedOutputs (s : State) (c k : Nat) :
    (k ∈ (List.range 24).filter fun k => bit (s.reg (pwmBase k)) 5 && s.rf (pwmBase k) 6 5 == c) ↔ s.OutputNames c k := by
  simp only [List.mem_filter, List.mem_range, Bool.and_eq_true, beq_iff_eq, State.OutputNames]

theorem State.loopGated_iff (s : State) (c : Nat) :
    s.loopGated c = true ↔ (∃ k, s.OutputNames c k) ∧ ∀ k, s.OutputNames c k → bit (s.reg 0x5A600) k = false := by
  simp only [State.loopGated, ← State.mem_namedOutputs, Bool.and_eq_true, Bool.not_eq_true', List.isEmpty_eq_false_iff_exists_mem,
    List.all_eq_true]

theorem State.loopWaiting_nil {s : State} {c : Nat} (h : (s.loop c).waiting = []) :
    s.loopWaiting c = s.setLoop c { s.loop c with waiting := [] } := by
  rw [State.loopWaiting, h]; rfl

/-- Where nothing waits and nothing asks for STOP or HELD, the outputs alone decide the state of a channel in RUN. -/
theorem State.loopBoundary_run {s : State} {c : Nat} (hmode : s.lmode c = 2) (hlost : s.loopLost c = false)
    (hwait : (s.loop c).waiting = []) (hline : s.stopLine = false) (hstop : (s.loop c).stop = false)
    (hheld : (s.loop c).held = false) : (s.loopBoundary c).2.loopState c = if s.loopGated c then 4 else 2 := by
  simp [State.loopBoundary, State.loopWaiting_nil hwait, State.loopState, hmode, hlost, hline, hstop, hheld]

/-! What a sample of the control law writes: in every state that runs it, and in GATED (rules R297, R301, R303, R306). -/

theorem LoopSt.fresh_mem (x : LoopSt) (y : Int) : (x.fresh y).mem = x.mem := by
  unfold LoopSt.fresh; split <;> rfl

theorem LoopSt.fresh_j (x : LoopSt) (y : Int) : (x.fresh y).j = x.j := by
  unfold LoopSt.fresh; split <;> rfl

theorem State.lawRun_yPrev (s : State) (c k : Nat) (x : LoopSt) (y : Int) (t6 : Word) : (s.lawRun c k x y t6).x.yPrev = y := rfl

theorem State.lawRun_j (s : State) (c k : Nat) (x : LoopSt) (y : Int) (t6 : Word) :
    (s.lawRun c k x y t6).x.j = s.nextPhase c x.j := congrArg (s.nextPhase c) (x.fresh_j y)

theorem State.lawRun_duty (s : State) (c k : Nat) (x : LoopSt) (y : Int) (t6 : Word) :
    (s.lawRun c k x y t6).duty = some (s.dutyOf c (s.lawRun c k x y t6).u) := rfl

/-- GATED (state 4) freezes the integrator, whatever the limits of the output say. -/
theorem State.lawRun_gated_i (s : State) (c : Nat) (x : LoopSt) (y : Int) (t6 : Word) :
    (s.lawRun c 4 x y t6).x.i = (x.fresh y).i := rfl

/-- Learning is for RUN (state 2) alone, so GATED leaves the repetitive memory. -/
theorem State.lawRun_gated_mem (s : State) (c : Nat) (x : LoopSt) (y : Int) (t6 : Word) :
    (s.lawRun c 4 x y t6).x.mem = x.mem := x.fresh_mem y

/-- Settles O39: at the boundary of a channel in RUN the outputs alone decide between GATED and RUN, and the law run in GATED keeps
the integrator and the repetitive memory. -/
theorem gatedChannel : Obligations.GatedChannel := by
  refine ⟨fun s c hmode hlost hwait hline hstop hheld => ?_, fun s c x y t6 => ?_⟩
  · have hstate := State.loopBoundary_run hmode hlost hwait hline hstop hheld
    have hgated : (s.loopBoundary c.val).2.loopState c.val = 4 ↔ s.loopGated c.val = true := by
      by_cases hg : s.loopGated c.val = true <;> simp [hstate, hg]
    exact hgated.trans (s.loopGated_iff c.val)
  · exact ⟨s.lawRun_gated_i c x y t6, s.lawRun_gated_mem c x y t6, s.lawRun_duty c 4 x y t6, s.lawRun_yPrev c 4 x y t6,
      s.lawRun_j c 4 x y t6⟩

end Sys2Proof.Machine
end

section

namespace Sys2Proof.Machine

/-! The page of a channel on the register interconnect (rule R43). -/

theorem loopBase_eq (c : Nat) : loopBase c = if c < 16 then 0x40000 + 0x1000 * c else 0xC0000 + 0x1000 * (c - 16) := rfl

theorem loopBase_add_lt {c off : Nat} (hc : c < 32) (hoff : off < 0x1000) : loopBase c + off < 2 ^ 20 := by
  rw [loopBase_eq]; split <;> omega

theorem loopBase_add_mod {c off : Nat} (hoff : off < 0x1000) : (loopBase c + off) % 4096 = off := by
  have hpage : loopBase c % 4096 = 0 := Page.base_page (.loop c)
  omega

theorem pageAt_loopBase_add {c off : Nat} (hc : c < 32) (hoff : off < 0x1000) : pageAt (loopBase c + off) = some (.loop c) := by
  by_cases h : c < 16
  · have hdiv : (loopBase c + off) / 4096 = 0x40 + c := by rw [loopBase_eq, if_pos h]; omega
    unfold pageAt
    simp (disch := omega) only [hdiv, if_neg, if_pos, Nat.add_sub_cancel_left]
  · have hdiv : (loopBase c + off) / 4096 = 0xC0 + (c - 16) := by rw [loopBase_eq, if_neg h]; omega
    unfold pageAt
    simp (disch := omega) only [hdiv, if_neg, if_pos, Nat.add_sub_cancel_left, Nat.sub_add_cancel]

/-! Reading the trace (rule R317). -/

theorem fld_w32 {n : Nat} (hn : n < 2 ^ 32) (lo k : Nat) : fld (w32 n) lo k = n / 2 ^ lo % 2 ^ k := by
  rw [fld, w32, BitVec.toNat_ofNat, Nat.mod_eq_of_lt hn, Nat.shiftRight_eq_div_pow]

theorem fld_lt (w : Word) (lo n : Nat) : fld w lo n < 2 ^ n := Nat.mod_lt _ (Nat.two_pow_pos n)

/-- TR_PTR after a read: its record and word, as one number of 15 bits, move on by one. -/
def tracePtrNext (p : Word) : Word :=
  let n := (fld p 0 12 * 8 + fld p 12 3 + 1) % 32768
  w32 (n / 8 + n % 8 * 4096)

theorem fld_tracePtr_word {i w : Nat} (hi : i < 4096) (hw : w < 8) : fld (w32 (i + w * 4096)) 12 3 = w := by
  rw [fld_w32 (by omega)]
  show (i + w * 4096) / 4096 % 8 = w
  omega

theorem fld_tracePtr_record {i w : Nat} (hi : i < 4096) (hw : w < 8) : fld (w32 (i + w * 4096)) 0 12 = i := by
  rw [fld_w32 (by omega)]
  show (i + w * 4096) / 1 % 4096 = i
  omega

theorem tracePtrNext_word (p : Word) : fld (tracePtrNext p) 12 3 = (fld p 12 3 + 1) % 8 := by
  rw [tracePtrNext, fld_tracePtr_word (by omega) (by omega)]
  omega

theorem tracePtrNext_record (p : Word) :
    fld (tracePtrNext p) 0 12 = if fld p 12 3 = 7 then (fld p 0 12 + 1) % 4096 else fld p 0 12 := by
  have hrec : fld p 0 12 < 4096 := fld_lt p 0 12
  have hword : fld p 12 3 < 8 := fld_lt p 12 3
  rw [tracePtrNext, fld_tracePtr_record (by omega) (by omega)]
  split <;> omega

theorem State.traceRead_recording {s : State} {c : Nat} (r : Requester) (harmed : (s.loop c).trace.armed = true)
    (hdone : (s.loop c).trace.done = false) : s.traceRead r c = (cARG, 0, s) := by
  simp only [State.traceRead, harmed, hdone, Bool.not_false, Bool.and_self, if_true]

theorem State.traceRead_readable {s : State} {c : Nat} (r : Requester)
    (h : ¬ ((s.loop c).trace.armed = true ∧ (s.loop c).trace.done = false)) :
    let p := s.own r (loopBase c + 0x710)
    s.traceRead r c =
      (cOK, Cells.get 0 (s.loop c).trace.recs (8 * fld p 0 12 + fld p 12 3), s.setOwn r (loopBase c + 0x710) (tracePtrNext p)) := by
  simp only [State.traceRead, Bool.and_eq_true, Bool.not_eq_true', if_neg h, tracePtrNext]

theorem exec_trData {s : State} {r : Requester} {c : Fin 32} (h : Reaches s r (loopBase c.val + 0x714) false) :
    exec (.trData r c) s =
      .next ((s.traceRead r c.val).2.2.respond r (s.traceRead r c.val).1 (s.traceRead r c.val).2.1).done := by
  have hserve : s.serveRead r (.loop c.val) 0x714 = s.traceRead r c.val := rfl
  show (s.act fun s => s.regRead r (wordAccess (loopBase c.val + 0x714))) = _
  rw [State.act_regRead h (loopBase_add_lt c.isLt (by decide)) (pageAt_loopBase_add c.isLt (by decide)),
    loopBase_add_mod (by decide), hserve]

/-- Settles O41: a read of TR_DATA that the trace allows answers the word at TR_PTR and moves TR_PTR on as one number of 15 bits. -/
theorem traceData : Obligations.TraceData := by
  refine fun s r c hreach => ⟨fun harmed hdone => ?_, fun hread => ?_⟩
  · rw [exec_trData hreach, State.traceRead_recording r harmed hdone]
  · refine ⟨tracePtrNext (s.own r (loopBase c.val + 0x710)), ?_, tracePtrNext_word _, tracePtrNext_record _⟩
    rw [exec_trData hreach, State.traceRead_readable r hread]

end Sys2Proof.Machine
end

section

namespace Sys2Proof.Machine

/-! One shape of every command: but for the reset pins each acts through `State.act`, and every command ends held in reset or done. -/

/-- Rule R474: the three commands that act while AON_RST_N holds the block in reset. -/
def resetPinCommand (c : Instr) : Prop := (∃ ns k, c = .wellhouseReset ns k) ∨ (∃ b, c = .aonRstNRise b) ∨ c = .powerOnReset

theorem exec_eq_act (c : Instr) (s : State) (h : ¬ resetPinCommand c) : ∃ f, exec c s = s.act f := by
  cases c
  case wellhouseReset ns k => exact absurd (Or.inl ⟨ns, k, rfl⟩) h
  case aonRstNRise b => exact absurd (Or.inr (Or.inl ⟨b, rfl⟩)) h
  case powerOnReset => exact absurd (Or.inr (Or.inr rfl)) h
  all_goals
    unfold exec
    exact ⟨_, rfl⟩

/-- The block is held in reset, or the end of a command has just brought what it derives up to date. -/
def State.Ended (t : State) : Prop := t.power.held = true ∨ ∃ u : State, t = u.done

theorem State.act_ended (s : State) (f : State → State) : ∃ t, s.act f = .next t ∧ t.Ended := by
  by_cases h : s.power.held = true
  · exact ⟨s, State.act_held h f, Or.inl h⟩
  · exact ⟨(f s).done, State.act_up (by simpa using h) f, Or.inr ⟨_, rfl⟩⟩

theorem State.fin_ended (s : State) : ∃ t, s.fin = .next t ∧ t.Ended := by
  by_cases h : s.power.held = true
  · exact ⟨s, by rw [State.fin, if_pos h], Or.inl h⟩
  · exact ⟨s.done, by rw [State.fin, if_neg h], Or.inr ⟨s, rfl⟩⟩

theorem exec_ended (c : Instr) (s : State) : ∃ t, exec c s = .next t ∧ t.Ended := by
  by_cases h : resetPinCommand c
  · rcases h with ⟨ns, k, rfl⟩ | ⟨b, rfl⟩ | rfl
    · exact State.fin_ended _
    · exact State.fin_ended _
    · exact ⟨s.wellhouse, rfl, Or.inl rfl⟩
  · obtain ⟨f, hf⟩ := exec_eq_act c s h
    rw [hf]
    exact s.act_ended f

theorem State.tick_ended (s : State) : ∃ t, s.tick = .next t ∧ t.Ended := by
  by_cases h : s.power.held = true
  · exact ⟨s, by rw [State.tick, if_pos h], Or.inl h⟩
  · exact ⟨_, by rw [State.tick, if_neg h], Or.inr ⟨_, rfl⟩⟩

theorem step_cons {c : Instr} {rest : List Instr} {s : State} (h : s.pending = c :: rest) :
    step s = exec c { s with pending := rest } := by
  rw [step, h]

theorem step_nil {s : State} (h : s.pending = []) : step s = s.tick := by
  rw [step, h]

theorem step_ended (s : State) : ∃ t, step s = .next t ∧ t.Ended := by
  cases h : s.pending with
  | nil => rw [step_nil h]; exact s.tick_ended
  | cons c rest => rw [step_cons h]; exact exec_ended c _

theorem State.Ended.settled {t : State} (h : t.Ended) : Settled t := by
  rcases h with held | ⟨u, rfl⟩
  · exact Or.inl held
  · exact Or.inr ⟨State.settle_latched _, State.settle_evt _⟩

/-- Settles O4: whatever a step does, it ends held in reset or with the settling of rule R50. -/
theorem stepKeepsSettled : Obligations.StepKeepsSettled := by
  intro s t _ hstep
  obtain ⟨u, hu, hended⟩ := step_ended s
  obtain rfl : u = t := Host.Outcome.next.inj (hu.symm.trans hstep)
  exact hended.settled

/-- Settles O1. -/
theorem stepRunsFront : Obligations.StepRunsFront := fun _ _ _ h => step_cons h

/-- Settles O3: every map of the reset state is empty, so every register reads as its row says, and no row holds a condition. -/
theorem resetState : Obligations.ResetState :=
  ⟨⟨rfl, rfl, rfl, fun _ => rfl, rfl, rfl, fun _ => rfl, fun _ => rfl⟩, Or.inl rfl⟩

/-- Settles O5: a command other than the reset pins acts through `State.act`, which leaves a held block alone. -/
theorem commandsAnswer : Obligations.CommandsAnswer := by
  refine ⟨fun c s => ?_, fun s held => ⟨fun hpending => ?_, fun c hlow hrise hpor => ?_⟩⟩
  · obtain ⟨t, ht, -⟩ := exec_ended c s
    exact ⟨t, ht⟩
  · rw [step_nil hpending, State.tick, if_pos held]
  · have hpin : ¬ resetPinCommand c := by
      rintro (⟨ns, k, h⟩ | ⟨b, h⟩ | h)
      · exact hlow ns k h
      · exact hrise b h
      · exact hpor h
    obtain ⟨f, hf⟩ := exec_eq_act c s hpin
    rw [hf, State.act_held held]

end Sys2Proof.Machine
end

section

namespace Sys2Proof.Machine

/-- A fold whose every step keeps a part of what it folds keeps it. -/
theorem foldl_fixes {σ α β : Type} (g : σ → β) {f : σ → α → σ} (h : ∀ s x, g (f s x) = g s) (l : List α) (s : σ) :
    g (l.foldl f s) = g s := by
  induction l generalizing s with
  | nil => rfl
  | cons x l ih => rw [List.foldl_cons, ih, h]

/-! The end of a command in a calm state (rules R50, R381, R420). -/

theorem word_sub_of_bits {n : Nat} {a b : BitVec n} (h : ∀ i, b.getLsbD i = true → a.getLsbD i = true) : a &&& b = b := by
  refine BitVec.eq_of_getLsbD_eq fun i _ => ?_
  rw [BitVec.getLsbD_and]
  cases hb : b.getLsbD i
  · exact Bool.and_false _
  · rw [h i hb]; rfl

theorem State.settle_mono (s : State) (a i : Nat) (h : bit (s.reg a) i = true) : bit (s.settle.reg a) i = true := by
  rw [State.settle_eq]
  exact s.raiseAll_mono s.conditions a i h

theorem State.noteBelow_mono (s : State) {a : Nat} (ha : a ≠ 0x73124) (i : Nat) (h : bit (s.reg a) i = true) :
    bit (s.noteBelow.reg a) i = true := by
  have hset (v : Word) : bit ((s.setReg 0x73124 v).reg a) i = true := by rwa [State.reg_setReg_ne _ _ ha]
  simp only [State.noteBelow]
  split
  · exact State.intRaise_mono _ _ _ _ _ (hset _)
  · exact hset _

theorem State.done_mono {s : State} (h : Calm s) {a : Nat} (ha : a ≠ 0x73124) (i : Nat) (hi : bit (s.reg a) i = true) :
    bit (s.done.reg a) i = true := by
  rw [State.done_calm h]
  exact State.settle_mono _ _ _ (s.noteBelow_mono ha i hi)

theorem State.noteBelow_perfStat (s : State) : s.noteBelow.reg 0x73124 = setBit (s.reg 0x73124) 8 s.belowImage := by
  simp only [State.noteBelow]
  split
  · rw [State.reg_intRaise_off _ _ _ (by decide), State.reg_setReg_self]
  · rw [State.reg_setReg_self]

theorem State.done_perfStat {s : State} (h : Calm s) : s.done.reg 0x73124 = setBit (s.reg 0x73124) 8 s.belowImage := by
  rw [State.done_calm h, State.settle_off _ (by decide), State.noteBelow_perfStat]

theorem State.noteBelow_f1Int (s : State) : s.noteBelow.f1Int = s.f1Int := by
  simp only [State.noteBelow]
  split <;> rfl

theorem State.settle_f1Int (s : State) : s.settle.f1Int = s.f1Int ∨ s.settle.f1Int = s.f1Int ||| 2 := by
  have hraise : (s.raiseAll s.conditions).f1Int = s.f1Int := by rw [State.raiseAll_frame]
  simp only [State.settle_eq, hraise]
  split
  · exact Or.inl rfl
  · exact Or.inr rfl

theorem State.done_f1Int {s : State} (h : Calm s) : s.done.f1Int &&& s.f1Int = s.f1Int := by
  rw [State.done_calm h, ← s.noteBelow_f1Int]
  refine word_sub_of_bits fun i hi => ?_
  rcases s.noteBelow.settle_f1Int with heq | heq
  · rwa [heq]
  · rw [heq, BitVec.getLsbD_or, hi]; rfl

/-- Settles O6: the end of a calm command notes BELOW_IMAGE and settles, which only sets bits of INT_RAW and F1_INT. -/
theorem commandEndFrame : Obligations.CommandEndFrame := fun _ hcalm =>
  ⟨State.done_sameBut hcalm, fun _ _ ha => word_sub_of_bits fun i => State.done_mono hcalm ha i, State.done_perfStat hcalm,
    State.done_f1Int hcalm⟩

/-! What the end of a calm command leaves, field by field. -/

section
variable {s : State} (h : Calm s)
include h

theorem State.done_frame : s.done = { s with regs := s.done.regs, evtPend := s.done.evtPend, f1Int := s.done.f1Int } :=
  (State.done_sameBut h).1

theorem State.done_reg {a : Nat} (ha : a ∉ endRegs) : s.done.reg a = s.reg a := (State.done_sameBut h).2 a id ha

theorem State.done_pending : s.done.pending = s.pending := by rw [State.done_frame h]
theorem State.done_resp : s.done.resp = s.resp := by rw [State.done_frame h]
theorem State.done_time : s.done.time = s.time := by rw [State.done_frame h]
theorem State.done_stopLine : s.done.stopLine = s.stopLine := by rw [State.done_frame h]
theorem State.done_dram : s.done.dram = s.dram := by rw [State.done_frame h]
theorem State.done_dramBad : s.done.dramBad = s.dramBad := by rw [State.done_frame h]
theorem State.done_gates : s.done.gates = s.gates := by rw [State.done_frame h]
theorem State.done_head : s.done.head = s.head := by rw [State.done_frame h]
theorem State.done_sram : s.done.sram = s.sram := by rw [State.done_frame h]
theorem State.done_sramBad : s.done.sramBad = s.sramBad := by rw [State.done_frame h]
theorem State.done_rowErr : s.done.rowErr = s.rowErr := by rw [State.done_frame h]
theorem State.done_edge : s.done.edge = s.edge := by rw [State.done_frame h]
theorem State.done_loops : s.done.loops = s.loops := by rw [State.done_frame h]
theorem State.done_fabric : s.done.fabric = s.fabric := by rw [State.done_frame h]
theorem State.done_sdio : s.done.sdio = s.sdio := by rw [State.done_frame h]
theorem State.done_boot : s.done.boot = s.boot := by rw [State.done_frame h]

end

/-! The tick of an empty queue (rules R95, R100, R114). -/

/-- What of a state decides when its slots fall due and whether the end of a command has more to do. -/
def State.clockPart (s : State) : TimeBase × List Instr × Cells (Option Running) × List Nat :=
  (s.time, s.pending, s.head.running, s.foldDue)

theorem State.noteWaits_fixes {β : Type} (s : State) (g : State → β) (h : ∀ (t : State) c x, g (t.setCtx c x) = g t) :
    g s.noteWaits = g s := by
  refine foldl_fixes g (fun t p => foldl_fixes g (fun u i => ?_) _ t) _ s
  dsimp only
  split
  · rfl
  · exact h _ _ _

theorem State.tickIdle_fixes {β : Type} (s : State) (g : State → β)
    (h : ∀ (t : State) m, g { t with power := { t.power with idleNs := m } } = g t) : g s.tickIdle = g s :=
  foldl_fixes g (fun t _ => h t _) _ s

theorem State.tickSleep_clockPart (s : State) : s.tickSleep.clockPart = s.clockPart := by
  simp only [State.tickSleep]
  split <;> rfl

theorem State.pwmTick_clockPart (s : State) (k : Nat) : (s.pwmTick k).clockPart = s.clockPart := by
  simp only [State.pwmTick]
  split
  · rfl
  · split <;> rfl

theorem foldl_eq_of_fixed {α β : Type} {f : β → α → β} {b : β} (h : ∀ a, f b a = b) (l : List α) : l.foldl f b = b := by
  induction l with
  | nil => rfl
  | cons a l ih => rw [List.foldl_cons, h a, ih]

/-- Where no engine runs a command, none ends. -/
theorem State.endDue_idle {s : State} (h : s.head.running = []) : s.endDue = s := by
  refine foldl_eq_of_fixed (fun e => ?_) _
  have hend : s.endsNow e = false := by simp only [State.endsNow, State.running, h, Cells.get]
  rw [hend]; rfl

/-- The advance of the counters below `m` by one tick, in turn. -/
def State.tickTcs (s : State) (k : Nat) (stamp : Word) (m : Nat) : State :=
  (List.range m).foldl (fun s n => s.setTc n ((s.tc n).tick k stamp)) s

theorem State.tc_setTc (s : State) (n i : Nat) (c : Tc) : (s.setTc n c).tc i = if i = n then c else s.tc i := by
  simp only [State.tc, State.setTc, Cells.get_put]
  split
  · split
    · rename_i h; exact h.symm
    · rfl
  · rfl

theorem State.tickTcs_tc (s : State) (k : Nat) (stamp : Word) (m n : Nat) :
    (s.tickTcs k stamp m).tc n = if n < m then (s.tc n).tick k stamp else s.tc n := by
  induction m with
  | zero => rfl
  | succ m ih =>
    have hsucc : s.tickTcs k stamp (m + 1) = (s.tickTcs k stamp m).setTc m (((s.tickTcs k stamp m).tc m).tick k stamp) := by
      rw [State.tickTcs, List.range_succ, List.foldl_append]; rfl
    rw [hsucc, State.tc_setTc]
    by_cases hn : n = m
    · subst hn
      simp [ih]
    · rw [if_neg hn, ih]
      exact ite_congr (propext (by omega)) (fun _ => rfl) fun _ => rfl

/-- The slots of a list marked for a late firing (rule R112). -/
def State.markLate (s : State) (l : List Nat) : State := l.foldl (fun s i => s.setSlotW i 11 1) s

/-- The time that one tick of the timing clock takes, passed. -/
def State.passTick (s : State) : State := { s with time := { s.time with ns := s.time.ns + s.tickNs } }

theorem State.tickCounters_eq (s : State) : ∃ l, s.tickCounters =
    ((s.tickTcs (s.tickNs / 2) (w32 ((s.tc 0).tick (s.tickNs / 2) 0).total) 8).markLate l).passTick := ⟨_, rfl⟩

theorem State.tickTcs_fixes {β : Type} (g : State → β) (h : ∀ (t : State) n c, g (t.setTc n c) = g t) (s : State) (k : Nat)
    (stamp : Word) (m : Nat) : g (s.tickTcs k stamp m) = g s := foldl_fixes g (by intro t n; exact h t n _) _ s

theorem State.markLate_fixes {β : Type} (g : State → β) (h : ∀ (t : State) k w v, g (t.setSlotW k w v) = g t) (s : State)
    (l : List Nat) : g (s.markLate l) = g s := foldl_fixes g (by intro t k; exact h t k 11 1) l s

theorem State.tickCounters_tc (s : State) {n : Nat} (hn : n < 8) :
    s.tickCounters.tc n = (s.tc n).tick (s.tickNs / 2) (w32 ((s.tc 0).tick (s.tickNs / 2) 0).total) := by
  obtain ⟨l, hl⟩ := s.tickCounters_eq
  have hpass (t : State) : t.passTick.tc n = t.tc n := rfl
  rw [hl, hpass, State.markLate_fixes (fun t => t.tc n) (fun _ _ _ _ => rfl), State.tickTcs_tc, if_pos hn]

theorem State.tickCounters_ns (s : State) : s.tickCounters.time.ns = s.time.ns + s.tickNs := by
  obtain ⟨l, hl⟩ := s.tickCounters_eq
  have hpass (t : State) : t.passTick.time.ns = t.time.ns + t.tickNs := rfl
  rw [hl, hpass, State.markLate_fixes (fun t => t.time.ns) (fun _ _ _ _ => rfl),
    State.markLate_fixes State.tickNs (fun _ _ _ _ => rfl), State.tickTcs_fixes (fun t => t.time.ns) (fun _ _ _ => rfl),
    State.tickTcs_fixes State.tickNs (fun _ _ _ => rfl)]

theorem State.tickCounters_fixes {β : Type} (g : State → β) (h : ∀ (t : State) x, g { t with time := x } = g t) (s : State) :
    g s.tickCounters = g s := by
  obtain ⟨l, hl⟩ := s.tickCounters_eq
  rw [hl, State.passTick, h, State.markLate_fixes g (fun t k w v => h t _), State.tickTcs_fixes g (fun t n c => h t _)]

theorem State.pwmTicks_clockPart (s : State) :
    (if s.runs 31 then (List.range 24).foldl State.pwmTick s else s).clockPart = s.clockPart := by
  split
  · exact foldl_fixes State.clockPart State.pwmTick_clockPart _ s
  · rfl

theorem State.waitsNoted_fixes (s : State) {β : Type} (g : State → β) (h : ∀ (t : State) c x, g (t.setCtx c x) = g t) :
    g (if s.runs 2 then s.noteWaits else s) = g s := by
  split
  · exact s.noteWaits_fixes g h
  · rfl

/-- All that counts with the counters in a tick, up to the end of the commands that are due. -/
def State.tickCounting (s : State) : State :=
  let s := (if s.runs 2 then s.noteWaits else s).tickCounters.tickIdle.tickSleep
  if s.runs 31 then (List.range 24).foldl State.pwmTick s else s

/-- The end of a tick: the commands that are due end, the watchdog's reset of domain 1 is over, and the firings are fixed. -/
def State.tickEnding (s : State) : State :=
  State.fixFirings { (if s.runs 2 then s.endDue else s) with boot := { s.boot with resetting := false } }

theorem State.tickClocks_eq (s : State) : s.tickClocks = s.tickCounting.tickEnding := by
  unfold State.tickClocks State.tickCounting State.tickEnding
  rfl

theorem State.tickEnding_idle {s : State} (h : s.head.running = []) :
    s.tickEnding.time.ns = s.time.ns ∧ (∀ n, s.tickEnding.tc n = s.tc n) ∧ s.tickEnding.pending = s.pending ∧
      s.tickEnding.head.running = s.head.running ∧ s.tickEnding.foldDue = s.foldDue := by
  rw [State.tickEnding, State.endDue_idle h, ite_self]
  exact ⟨rfl, fun _ => rfl, rfl, rfl, rfl⟩

theorem State.tc_congr {s t : State} (h : s.time = t.time) (n : Nat) : s.tc n = t.tc n := by
  rw [State.tc, h]; rfl

theorem State.tickCounting_clockPart (s : State) :
    s.tickCounting.clockPart = (if s.runs 2 then s.noteWaits else s).tickCounters.clockPart := by
  rw [State.tickCounting, State.pwmTicks_clockPart, State.tickSleep_clockPart,
    State.tickIdle_fixes _ State.clockPart (fun _ _ => rfl)]

/-- A tick of a state whose engines are idle: the counters advance as of the state before it, and the rest of the clock part stays. -/
theorem State.tickClocks_idle {s : State} (h : s.head.running = []) :
    s.tickClocks.time.ns = s.time.ns + s.tickNs ∧
    (∀ n, n < 8 → s.tickClocks.tc n = (s.tc n).tick (s.tickNs / 2) (w32 ((s.tc 0).tick (s.tickNs / 2) 0).total)) ∧
    s.tickClocks.pending = s.pending ∧ s.tickClocks.head.running = [] ∧ s.tickClocks.foldDue = s.foldDue := by
  have hnoted {β : Type} (g : State → β) (hg : ∀ (t : State) c x, g (t.setCtx c x) = g t) := s.waitsNoted_fixes g hg
  have hpart := s.tickCounting_clockPart
  simp only [State.clockPart, Prod.mk.injEq] at hpart
  obtain ⟨htime, hpending, hrunning, hfold⟩ := hpart
  rw [State.tickCounters_fixes State.pending (fun _ _ => rfl), hnoted State.pending (fun _ _ _ => rfl)] at hpending
  rw [State.tickCounters_fixes (fun t => t.head.running) (fun _ _ => rfl), hnoted (fun t => t.head.running) (fun _ _ _ => rfl)]
    at hrunning
  rw [State.tickCounters_fixes State.foldDue (fun _ _ => rfl), hnoted State.foldDue (fun _ _ _ => rfl)] at hfold
  obtain ⟨ens, etc, epending, erunning, efold⟩ := State.tickEnding_idle (hrunning.trans h)
  rw [State.tickClocks_eq]
  refine ⟨?_, fun n hn => ?_, epending.trans hpending, (erunning.trans hrunning).trans h, efold.trans hfold⟩
  · rw [ens, htime, State.tickCounters_ns, hnoted (fun t => t.time.ns) (fun _ _ _ => rfl), hnoted State.tickNs (fun _ _ _ => rfl)]
  · rw [etc, State.tc_congr htime, State.tickCounters_tc _ hn, hnoted State.tickNs (fun _ _ _ => rfl),
      hnoted (fun t => t.tc n) (fun _ _ _ => rfl), hnoted (fun t => t.tc 0) (fun _ _ _ => rfl)]

theorem State.slotFire_not_timeout (t : State) (c : Fin 64) (k : Fin 256) : Instr.slotFire k ∉ t.timeouts c := by
  intro h
  simp only [State.timeouts, List.mem_flatMap, List.mem_filterMap] at h
  obtain ⟨i, -, second, -, h⟩ := h
  split at h
  · split at h <;> cases h
  · cases h

theorem State.slotFire_not_ctxEvent (t : State) (c : Fin 64) (k : Fin 256) : Instr.slotFire k ∉ t.ctxEvents c := by
  simp only [State.ctxEvents, List.mem_append, List.mem_ite_nil_right, List.mem_singleton, reduceCtorEq, and_false,
    or_false, t.slotFire_not_timeout, not_false_eq_true]

/-- Of the commands that fall due with a tick, the firings are those of the slots that are due. -/
theorem State.slotFire_mem_tickCommands (s t : State) (k : Fin 256) :
    Instr.slotFire k ∈ State.tickCommands s t ↔ t.slotDue k.val = true := by
  simp only [State.tickCommands, State.dueSlots, List.mem_append, List.mem_ite_nil_right, List.mem_map, List.mem_flatMap,
    List.mem_filter, t.slotFire_not_ctxEvent, reduceCtorEq, and_false, exists_false, false_or, or_false, Instr.slotFire.injEq,
    exists_eq_right, List.mem_finRange, true_and]

/-- Settles O2: the tick keeps what decides the due slots once the counters have advanced, and its commands are those of the due slots. -/
theorem idleStepTicks : Obligations.IdleStepTicks := by
  intro s hup hpending hrunning hfold
  obtain ⟨hns, htc, hpend, hrun, hdue⟩ := s.tickClocks_idle hrunning
  let u : State := { s.tickClocks with pending := s.tickClocks.pending ++ State.tickCommands s s.tickClocks }
  have hcalm : Calm u := by
    refine ⟨hdue.trans hfold, ?_⟩
    show (s.tickClocks.head.running.any fun p => p.2.any (·.cut)) = false
    rw [hrun]; rfl
  have htime : u.done.time = s.tickClocks.time := State.done_time hcalm
  refine ⟨u.done, ?_, ?_, fun n hn => ?_, fun k => ?_⟩
  · rw [step_nil hpending, State.tick, if_neg (by rw [hup]; decide)]
  · rw [htime, hns]
  · rw [← htc n hn, State.tc, htime]; rfl
  · have hslot : u.done.slotDue k.val = s.tickClocks.slotDue k.val := by
      simp only [State.slotDue, State.slotArmed, State.slotTarget, State.slotW, State.now, State.tc, htime]
      rfl
    rw [State.done_pending hcalm, hslot, ← s.slotFire_mem_tickCommands, show u.pending = _ ++ _ from rfl, hpend, hpending,
      List.nil_append]

end Sys2Proof.Machine
end

section

namespace Sys2Proof.Machine

/-! Pages of the register interconnect (rules R40–R43). -/

theorem pageAt_lt {a : Nat} {p : Page} (h : pageAt a = some p) : a < 2 ^ 20 := by
  refine Classical.byContradiction fun hge => ?_
  have hdiv : 0x100 ≤ a / 4096 := by omega
  unfold pageAt at h
  simp (disch := omega) only [if_neg] at h
  cases h

theorem pageAt_base_add {p : Page} {off : Nat} (hoff : off < 4096) : pageAt (p.base + off) = pageAt p.base := by
  have hpage := p.base_page
  have hdiv : (p.base + off) / 4096 = p.base / 4096 := by omega
  unfold pageAt
  rw [hdiv]

theorem Page.base_add_mod (p : Page) {off : Nat} (hoff : off < 4096) : (p.base + off) % 4096 = off := by
  have hpage := p.base_page
  omega

theorem Page.base_add_lt {p : Page} (h : pageAt p.base = some p) {off : Nat} (hoff : off < 4096) : p.base + off < 2 ^ 20 :=
  pageAt_lt ((pageAt_base_add hoff).trans h)

/-- A command that writes an offset of a page, where the write reaches its block. -/
theorem act_pageWrite {s : State} {r : Requester} {p : Page} {off : Nat} (v : Word) (hoff : off < 4096) (hp : pageAt p.base = some p)
    (h : Reaches s r (p.base + off) true) : (s.act fun s => s.regWrite r (wordAccess (p.base + off)) v) =
      .next ((s.serveWrite r p off v).2.respond r (s.serveWrite r p off v).1 0).done := by
  rw [State.act_regWrite h (Page.base_add_lt hp hoff) ((pageAt_base_add hoff).trans hp), p.base_add_mod hoff]

/-- A command that reads an offset of a page, where the read reaches its block. -/
theorem act_pageRead {s : State} {r : Requester} {p : Page} {off : Nat} (hoff : off < 4096) (hp : pageAt p.base = some p)
    (h : Reaches s r (p.base + off) false) : (s.act fun s => s.regRead r (wordAccess (p.base + off))) =
      .next ((s.serveRead r p off).2.2.respond r (s.serveRead r p off).1 (s.serveRead r p off).2.1).done := by
  rw [State.act_regRead h (Page.base_add_lt hp hoff) ((pageAt_base_add hoff).trans hp), p.base_add_mod hoff]

/-! Accesses that no block serves (rules R54, R56, R414, R481). -/

/-- Of `s`, registers of `rs` alone have changed in `t`. -/
def RegsBut (rs : Nat → Prop) (s t : State) : Prop := t = { s with regs := t.regs } ∧ ∀ a, ¬ rs a → t.reg a = s.reg a

namespace RegsBut

variable {rs rs' : Nat → Prop} {s t u : State}

theorem refl : RegsBut rs s s := ⟨rfl, fun _ _ => rfl⟩

theorem trans (h : RegsBut rs s t) (h' : RegsBut rs t u) : RegsBut rs s u :=
  ⟨by rw [h'.1, h.1], fun a ha => (h'.2 a ha).trans (h.2 a ha)⟩

theorem mono (h : RegsBut rs s t) (hrs : ∀ a, rs a → rs' a) : RegsBut rs' s t := ⟨h.1, fun a ha => h.2 a fun hr => ha (hrs a hr)⟩

theorem setReg (h : RegsBut rs s t) {a : Nat} (ha : rs a) (v : Word) : RegsBut rs s (t.setReg a v) :=
  h.trans ⟨rfl, fun _ hb => State.reg_setReg_ne _ _ fun hab => hb (hab ▸ ha)⟩

theorem setRf (h : RegsBut rs s t) {a : Nat} (ha : rs a) (lo n v : Nat) : RegsBut rs s (t.setRf a lo n v) := h.setReg ha _

theorem bump (h : RegsBut rs s t) {a : Nat} (ha : rs a) (n : Nat) : RegsBut rs s (t.bump a n) := h.setReg ha _

theorem bumpWrap (h : RegsBut rs s t) {a : Nat} (ha : rs a) (n : Nat) : RegsBut rs s (t.bumpWrap a n) := h.setReg ha _

theorem bumpFld (h : RegsBut rs s t) {a : Nat} (ha : rs a) (lo n : Nat) : RegsBut rs s (t.bumpFld a lo n) := h.setReg ha _

theorem intRaise (h : RegsBut rs s t) {p : Page} (ha : rs (p.base + 0x14)) (i : Nat) : RegsBut rs s (t.intRaise p i) := h.setReg ha _

theorem lastCode (h : RegsBut rs s t) {p : Page} (ha : rs (p.base + 0x10)) (c : Nat) : RegsBut rs s (t.lastCode p c) := by
  unfold State.lastCode
  split
  · exact h
  · exact h.setReg ha _

theorem ite {c : Prop} [Decidable c] (ht : RegsBut rs s t) (hu : RegsBut rs s u) : RegsBut rs s (if c then t else u) := by
  split
  · exact ht
  · exact hu

theorem foldl {α : Type} {f : State → α → State} (l : List α) (h : RegsBut rs s t) (hf : ∀ x ∈ l, ∀ u, RegsBut rs u (f u x)) :
    RegsBut rs s (l.foldl f t) := by
  induction l generalizing t with
  | nil => exact h
  | cons x l ih =>
    obtain ⟨hx, hl⟩ := List.forall_mem_cons.mp hf
    exact ih (h.trans (hx t)) hl

end RegsBut

/-- The access log touches its own page alone. -/
theorem State.logAccess_regsBut (s : State) (r : Requester) (a : Nat) (write : Bool) (code : Nat) :
    RegsBut (fun b => 0x6000 ≤ b ∧ b < 0x7000) s (s.logAccess r a write code) := by
  have hhead : s.rf 0x6100 0 6 < 64 := Nat.mod_lt _ (by decide)
  have hraw : 0x6000 ≤ Page.base .acl + 0x14 ∧ Page.base .acl + 0x14 < 0x7000 := by decide
  simp only [State.logAccess]
  refine .ite (.setRf (.setReg (.bump .refl ?_ _) ?_ _) ?_ _ _ _)
    (.intRaise (.setReg (.setReg (.setReg (.setReg (.ite (.intRaise (.bump (.bump .refl ?_ _) ?_ _) hraw _) (.bump .refl ?_ _))
      ?_ _) ?_ _) ?_ _) ?_ _) hraw _)
  all_goals omega

theorem State.unserved_regsBut (s : State) (r : Requester) (a : Nat) (write : Bool) (code : Nat) :
    RegsBut (fun b => (0x6000 ≤ b ∧ b < 0x7000) ∨ b = 0x7610C) s (s.unserved r a write code) :=
  .ite ((s.logAccess_regsBut r a write code).mono fun _ => Or.inl) (.ite (.bump .refl (Or.inr rfl) _) .refl)

/-- Settles O7: an access settled before a block is logged or counted, which changes registers alone, and answered. -/
theorem unservedAccess : Obligations.UnservedAccess := by
  intro s r a v write code hup hsettled u
  obtain ⟨hframe, hregs⟩ := s.unserved_regsBut r a.addr.toNat write code
  refine ⟨?_, ?_, ?_, fun b hacl hdbg => hregs b (by omega)⟩
  · cases write
    · exact exec_registerRead_settled hup hsettled
    · exact exec_registerWrite_settled hup hsettled
  · rw [show u = (s.unserved r a.addr.toNat write code).respond r code 0 from rfl, hframe]
    rfl
  · rw [show u = (s.unserved r a.addr.toNat write code).respond r code 0 from rfl, hframe]
    rfl

/-! The order of the interconnect (rule R481). -/

theorem State.settled_width {s : State} {r : Requester} {a : Access} {write : Bool} (h : a.word = false ∨ a.addr.toNat % 4 ≠ 0) :
    s.settled r a write = some cWIDTH := by
  have hw : (!a.word) = true ∨ a.addr.toNat % 4 ≠ 0 := by simpa using h
  simp only [State.settled, if_pos hw]

/-- Past the width check and the page lookup. -/
theorem State.settled_page {s : State} {r : Requester} {a : Access} {write : Bool} {p : Page} (hw : a.word = true)
    (ha : a.addr.toNat % 4 = 0) (hp : pageAt a.addr.toNat = some p) : s.settled r a write =
      if r = .debug ∧ s.debugForbids a.addr.toNat write = true then some cARG
      else if write = false ∧ (a.addr.toNat % 4096 = 0 ∨ a.addr.toNat % 4096 = 4 ∨ a.addr.toNat % 4096 = 8 ∨
        a.addr.toNat % 4096 = 0x2C) then none
      else if s.pwrState p < 2 ∨ (s.pwrState p = 4 ∧ s.power.agreed.contains p.domain = true) then some cOFF_DOMAIN else none := by
  have hno : ¬ (a.word = false ∨ a.addr.toNat % 4 ≠ 0) := by simp [hw, ha]
  simp only [State.settled, Bool.not_eq_true', if_neg hno, hp]

/-- Settles O9: each step of the interconnect answers before the next is asked. -/
theorem accessOrder : Obligations.AccessOrder := by
  intro s r a write n off
  refine ⟨State.settled_width, fun hw ha => ⟨State.settled_noPage s r write hw ha, fun p hp => ?_⟩⟩
  have hpage : s.settled r a write = _ := State.settled_page hw ha hp
  refine ⟨fun hr hf => ?_, fun hdebug => ?_⟩
  · rw [hpage, if_pos ⟨hr, hf⟩]
  have hallowed : ¬ (r = .debug ∧ s.debugForbids n write = true) := fun ⟨hr, hf⟩ => by
    rw [hdebug hr] at hf
    cases hf
  rw [if_neg hallowed] at hpage
  refine ⟨fun hread hoff => ?_, fun hown => ?_⟩
  · rw [hpage, if_pos ⟨hread, hoff⟩]
  have hshadow : ¬ (write = false ∧ (off = 0 ∨ off = 4 ∨ off = 8 ∨ off = 0x2C)) := fun ⟨hread, hoff⟩ => by
    obtain ⟨h0, h4, h8, hpwr⟩ := hown hread
    omega
  rw [if_neg hshadow] at hpage
  refine ⟨fun hon => ?_, fun hoff => ?_, fun hentering => ?_⟩
  · rw [hpage, if_neg (by omega)]
  · rw [hpage, if_pos (Or.inl hoff)]
  · rw [hpage, hentering]
    exact ite_congr (propext (by simp)) (fun _ => rfl) fun _ => rfl

/-! The header shadow and the common header (rules R48–R51). -/

/-- A read of the header shadow reaches it whatever the state of the page's domain. -/
theorem State.settled_shadow {s : State} {r : Requester} {p : Page} {off : Nat} (hp : pageAt p.base = some p)
    (hdebug : r = .debug → bit (s.reg 0x76100) 0 = true) (hoff : off = 0 ∨ off = 4 ∨ off = 8 ∨ off = 0x2C) :
    s.settled r (wordAccess (p.base + off)) false = none := by
  have hlt : p.base + off < 2 ^ 20 := Page.base_add_lt hp (by omega)
  have hmod : (p.base + off) % 4096 = off := p.base_add_mod (by omega)
  have haddr := wordAccess_addr hlt
  rw [State.settled_page rfl (by rw [haddr]; omega) (by rw [haddr, pageAt_base_add (by omega)]; exact hp), haddr, hmod]
  have hallowed : ¬ (r = .debug ∧ s.debugForbids (p.base + off) false = true) := fun ⟨hr, hf⟩ => by
    simp [State.debugForbids, hdebug hr] at hf
  rw [if_neg hallowed, if_pos ⟨rfl, hoff⟩]

theorem exec_readShadow {s : State} {r : Requester} {p : Page} {off : Nat} (hup : Up s) (hp : pageAt p.base = some p)
    (hdebug : r = .debug → bit (s.reg 0x76100) 0 = true) (hoff : off = 0 ∨ off = 4 ∨ off = 8 ∨ off = 0x2C) :
    exec (.registerRead r (wordAccess (p.base + off))) s = .next (s.respond r cOK (s.readHeader p off)).done := by
  have hserve : s.serveRead r p off = (cOK, s.readHeader p off, s) := by
    unfold State.serveRead
    exact if_pos (by omega)
  show (s.act fun s => s.regRead r (wordAccess (p.base + off))) = _
  rw [act_pageRead (by omega) hp ⟨hup, State.settled_shadow hp hdebug hoff⟩, hserve]

/-- A write of a header register other than CTRL, which loop channels keep for themselves. -/
theorem State.serveWrite_header (s : State) (r : Requester) (p : Page) {off : Nat} (v : Word) (hlt : off < 0x100) (hctrl : off ≠ 0xC) :
    s.serveWrite r p off v = s.writeHeader p off v := by
  unfold State.serveWrite
  split
  · rw [if_neg hctrl, if_pos hlt]
  · rw [if_pos hlt]

theorem exec_writeHeader {s : State} {r : Requester} {p : Page} {off : Nat} (v : Word) (hp : pageAt p.base = some p)
    (hlt : off < 0x100) (hctrl : off ≠ 0xC) (h : Reaches s r (p.base + off) true) :
    exec (.registerWrite r (wordAccess (p.base + off)) v) s =
      .next ((s.writeHeader p off v).2.respond r (s.writeHeader p off v).1 0).done := by
  show (s.act fun s => s.regWrite r (wordAccess (p.base + off)) v) = _
  rw [act_pageWrite v (by omega) hp h, s.serveWrite_header r p v hlt hctrl]

/-- A page's own rows leave INT_EN to the common header. -/
theorem findReg_intEn (p : Page) : findReg p 0x18 = some { name := "INT_EN", off := 0x018, rw := allOnes } := by
  cases p <;> rfl

theorem State.storeReg_allOnes {s : State} {p : Page} {off : Nat} {name : String} {rOff reset n stride : Nat} (v : Word)
    (h : findReg p off = some { name := name, off := rOff, rw := allOnes, reset := reset, n := n, stride := stride }) :
    s.storeReg p off v = s.setReg (p.base + off) v := by
  have hones : w32 allOnes = BitVec.allOnes 32 := by decide
  have hzero : w32 0 = 0#32 := rfl
  simp only [State.storeReg, h, hones, hzero, BitVec.not_allOnes, BitVec.not_zero, BitVec.and_zero, BitVec.zero_or, BitVec.or_zero, BitVec.and_allOnes]

/-- Settles O10: the shadow answers before the domain's state is asked, and a header write that reaches its block acts as rule R49 says. -/
theorem headerRegisters : Obligations.HeaderRegisters := by
  refine ⟨fun s r p hup hdebug hp => ⟨?_, ?_, ?_, ?_⟩, fun s r p v hp => ⟨fun h => ?_, fun h => ?_, fun h hv => ?_, fun h => ?_⟩⟩
  · exact exec_readShadow (off := 0) hup hp hdebug (by omega)
  · exact exec_readShadow (off := 4) hup hp hdebug (by omega)
  · exact exec_readShadow (off := 8) hup hp hdebug (by omega)
  · exact exec_readShadow (off := 0x2C) hup hp hdebug (by omega)
  · have hwrite : s.writeHeader p 0x18 v = (cOK, s.setReg (p.base + 0x18) v) :=
      congrArg (cOK, ·) (State.storeReg_allOnes v (findReg_intEn p))
    rw [exec_writeHeader v hp (by decide) (by decide) h, hwrite]
  · exact exec_writeHeader v hp (by decide) (by decide) h
  · have hwrite : s.writeHeader p 0x24 v = (cOK, (s.setReg (p.base + 0x24) 0x00FF0000).setReg (p.base + 0x28) 0) := by
      show (cOK, if bit v 31 = true then _ else s) = _
      rw [if_pos hv]
    rw [exec_writeHeader v hp (by decide) (by decide) h, hwrite]
  · have hserve : s.serveRead r p 0x20 = (cOK, s.readHeader p 0x20, s) := rfl
    show (s.act fun s => s.regRead r (wordAccess (p.base + 0x20))) = _
    rw [act_pageRead (by decide) hp h, hserve]
    rfl

end Sys2Proof.Machine
end

section

namespace Sys2Proof.Machine

/-! Corrections of the time counters (rules R99–R103). -/

theorem State.serveWrite_time (s : State) (r : Requester) {off : Nat} (v : Word) (h : 0x100 ≤ off) :
    s.serveWrite r .time off v = s.writeTime r off v := by
  show (if off < 0x100 then _ else s.writeTime r off v) = _
  rw [if_neg (by omega)]

/-- The four writes of counter `n`'s group (rule R109). -/
theorem State.writeTime_group (s : State) (r : Requester) (n : Fin 8) (v : Word) :
    s.writeTime r (0x100 + 0x20 * n.val + 4) v = s.writeAddFrac r n.val v ∧
    s.writeTime r (0x100 + 0x20 * n.val + 8) v = s.writeAddInt r n.val v ∧
    s.writeTime r (0x100 + 0x20 * n.val + 0xC) v = s.writeStepLo r n.val v ∧
    s.writeTime r (0x100 + 0x20 * n.val + 0x10) v = s.writeStepHi r n.val v := by
  have hn {off : Nat} (h : off < 0x20) : (0x100 + 0x20 * n.val + off - 0x100) / 0x20 = n.val := by omega
  have hoff {off : Nat} (h : off < 0x20) : (0x100 + 0x20 * n.val + off) % 0x20 = off := by omega
  have hlt {off : Nat} (h : off < 0x20) : 0x100 + 0x20 * n.val + off < 0x200 := by omega
  simp (disch := decide) only [State.writeTime, hn, hoff, hlt, if_pos, and_self]

theorem act_tcWrite {s : State} {r : Requester} {n : Fin 8} {off : Nat} (v : Word) (hoff : off < 0x20)
    (h : Reaches s r (tcGroup n.val + off) true) : (s.act fun s => s.regWrite r (wordAccess (tcGroup n.val + off)) v) =
      .next ((s.writeTime r (0x100 + 0x20 * n.val + off) v).2.respond r (s.writeTime r (0x100 + 0x20 * n.val + off) v).1 0).done := by
  have haddr : tcGroup n.val + off = Page.base .time + (0x100 + 0x20 * n.val + off) := by
    simp only [tcGroup, Page.base]; omega
  rw [haddr] at h ⊢
  rw [act_pageWrite v (by omega) rfl h, s.serveWrite_time r v (by omega)]

theorem mayCorrect_iff (r : Requester) (n : Nat) : mayCorrect r n = true ↔ n < 6 ∨ r = .mgmt := by
  simp [mayCorrect]

section
variable {s u : State} {r : Requester} {n : Fin 8} {code : Nat} (v : Word)

theorem exec_addFrac (h : Reaches s r (tcGroup n.val + 4) true) (hq : s.writeAddFrac r n.val v = (code, u)) :
    exec (.addFrac r n v) s = .next (u.respond r code 0).done := by
  obtain ⟨efrac, eint, elo, ehi⟩ := s.writeTime_group r n v
  show (s.act fun s => s.regWrite r (wordAccess (tcGroup n.val + 4)) v) = _
  rw [act_tcWrite v (by decide) h, efrac, hq]

theorem exec_addInt (h : Reaches s r (tcGroup n.val + 8) true) (hq : s.writeAddInt r n.val v = (code, u)) :
    exec (.addInt r n v) s = .next (u.respond r code 0).done := by
  obtain ⟨efrac, eint, elo, ehi⟩ := s.writeTime_group r n v
  show (s.act fun s => s.regWrite r (wordAccess (tcGroup n.val + 8)) v) = _
  rw [act_tcWrite v (by decide) h, eint, hq]

theorem exec_stepLo (h : Reaches s r (tcGroup n.val + 0xC) true) (hq : s.writeStepLo r n.val v = (code, u)) :
    exec (.stepLo r n v) s = .next (u.respond r code 0).done := by
  obtain ⟨efrac, eint, elo, ehi⟩ := s.writeTime_group r n v
  show (s.act fun s => s.regWrite r (wordAccess (tcGroup n.val + 0xC)) v) = _
  rw [act_tcWrite v (by decide) h, elo, hq]

theorem exec_stepHi (h : Reaches s r (tcGroup n.val + 0x10) true) (hq : s.writeStepHi r n.val v = (code, u)) :
    exec (.stepHi r n v) s = .next (u.respond r code 0).done := by
  obtain ⟨efrac, eint, elo, ehi⟩ := s.writeTime_group r n v
  show (s.act fun s => s.regWrite r (wordAccess (tcGroup n.val + 0x10)) v) = _
  rw [act_tcWrite v (by decide) h, ehi, hq]

end

theorem satAdd_eq_min (top a b : Nat) : satAdd top a b = min top (a + b) := by
  unfold satAdd; split <;> omega

theorem addendOk_iff (n addend : Nat) : addendOk n addend = true ↔
    if n < 6 then 0x100000000 ≤ addend ∧ addend ≤ 0x300000000 else 0x1FFBE76C9 ≤ addend ∧ addend ≤ 0x200418937 := by
  unfold addendOk
  split <;> simp only [Bool.and_eq_true, decide_eq_true_eq]

/-- A write of ADD_INT that may correct the counter. -/
theorem State.writeAddInt_eq (s : State) {r : Requester} {n : Nat} (v : Word) (h : mayCorrect r n = true) :
    s.writeAddInt r n v =
      let addend := fld v 0 8 * 2 ^ 32 + ((s.half r (tcGroup n + 4)).map BitVec.toNat).getD ((s.tc n).addend.toNat % 2 ^ 32)
      let t := s.setHalf r (tcGroup n + 4) none
      if addendOk n addend then (cOK, t.setTc n { s.tc n with addend := BitVec.ofNat 64 addend }) else (cARG, t.intRaise .time 3) := by
  simp only [State.writeAddInt, h, Bool.not_true, Bool.false_eq_true, if_false]
  cases s.half r (tcGroup n + 4) <;> rfl

theorem stepRefused_iff (n : Nat) (spent : Bool) (t : Int) :
    ((6 ≤ n ∧ spent = true) ∨ t < 0 ∨ (2 ^ 48 * 1000000000 : Int) ≤ t) ↔
      ¬ ((n < 6 ∨ spent = false) ∧ 0 ≤ t ∧ t < 2 ^ 48 * 1000000000) := by
  cases spent <;> simp only [Bool.true_eq_false, Bool.false_eq_true, and_true, and_false, or_false, or_true, true_and, false_or] <;>
    omega

/-- A write of STEP_HI that may correct the counter. -/
theorem State.writeStepHi_eq (s : State) {r : Requester} {n : Nat} (v : Word) (h : mayCorrect r n = true) :
    s.writeStepHi r n v =
      let c := s.tc n
      let w := v.toNat * 2 ^ 32 + ((s.half r (tcGroup n + 0xC)).map BitVec.toNat).getD 0
      let t := s.setHalf r (tcGroup n + 0xC) none
      let after : Int := (c.total : Int) + c.step.getD 0 + sext 64 w
      if (6 ≤ n ∧ c.spent = true) ∨ after < 0 ∨ (2 ^ 48 * 1000000000 : Int) ≤ after then (cARG, t.intRaise .time 3)
      else (cOK, (t.setTc n { c with
        step := some (c.step.getD 0 + sext 64 w), last := BitVec.ofNat 64 w,
        steps := BitVec.ofNat 8 (satAdd 255 c.steps.toNat 1), spent := decide (6 ≤ n) }).intRaise .time 2) := by
  simp only [State.writeStepHi, h, Bool.not_true, Bool.false_eq_true, if_false]
  cases s.half r (tcGroup n + 0xC) <;> rfl

/-- A counter that the requester may not correct refuses each of the four writes alike. -/
theorem State.writeTc_refused (s : State) {r : Requester} {n : Nat} (v : Word) (h : mayCorrect r n = false) :
    s.writeAddFrac r n v = (cARG, s.intRaise .time 3) ∧ s.writeStepLo r n v = (cARG, s.intRaise .time 3) ∧
    s.writeAddInt r n v = (cARG, s.intRaise .time 3) ∧ s.writeStepHi r n v = (cARG, s.intRaise .time 3) := by
  simp only [State.writeAddFrac, State.writeStepLo, State.writeAddInt, State.writeStepHi, h, Bool.false_eq_true, if_false,
    Bool.not_false, if_true, and_self]

/-- Settles O15: each write reaches its counter's correction, which splits on who may correct it and on the range. -/
theorem counterCorrections : Obligations.CounterCorrections := by
  intro s r n v hreach g c refused
  simp only [List.forall_mem_cons, List.not_mem_nil, false_imp_iff, implies_true, and_true] at hreach
  obtain ⟨hfrac, hint, hlo, hhi⟩ := hreach
  refine ⟨fun hmay => ?_, fun hmay => ?_⟩
  · have may := (mayCorrect_iff r n.val).mpr hmay
    refine ⟨exec_addFrac v hfrac (if_pos may), exec_stepLo v hlo (if_pos may), ⟨fun hok => ?_, fun hok => ?_⟩, fun hok => ?_, fun hok => ?_⟩
    · exact exec_addInt v hint ((s.writeAddInt_eq v may).trans (if_pos ((addendOk_iff _ _).mpr hok)))
    · exact exec_addInt v hint ((s.writeAddInt_eq v may).trans (if_neg (mt (addendOk_iff _ _).mp hok)))
    · rw [exec_stepHi v hhi ((s.writeStepHi_eq v may).trans (if_neg (mt (stepRefused_iff _ _ _).mp (Classical.not_not.mpr hok)))),
        satAdd_eq_min]
    · exact exec_stepHi v hhi ((s.writeStepHi_eq v may).trans (if_pos ((stepRefused_iff _ _ _).mpr hok)))
  · have may : mayCorrect r n.val = false := by simpa using mt (mayCorrect_iff r n.val).mp hmay
    obtain ⟨efrac, elo, eint, ehi⟩ := s.writeTc_refused v may
    exact ⟨exec_addFrac v hfrac efrac, exec_stepLo v hlo elo, exec_addInt v hint eint, exec_stepHi v hhi ehi⟩

end Sys2Proof.Machine
end

section

namespace Sys2Proof.Machine

/-! Bits and fields of a word that was written (rules R12, R14). -/

theorem testBit_maskN (lo n i : Nat) : (maskN lo n).testBit i = decide (lo ≤ i ∧ i < lo + n) := by
  simp only [maskN, Nat.testBit_shiftLeft, Nat.testBit_two_pow_sub_one, ge_iff_le]
  by_cases h : lo ≤ i
  · simp only [h, decide_true, Bool.true_and, true_and]
    exact decide_eq_decide.mpr (by omega)
  · simp [h]

theorem bit_setFld (w : Word) (lo n v i : Nat) (hi : i < 32) :
    bit (setFld w lo n v) i = if lo ≤ i ∧ i < lo + n then v.testBit (i - lo) else bit w i := by
  simp only [bit, setFld, BitVec.getLsbD_or, BitVec.getLsbD_and, BitVec.getLsbD_not, BitVec.getLsbD_ofNat, hi, decide_true,
    Bool.true_and, testBit_maskN, Nat.testBit_shiftLeft, Nat.testBit_mod_two_pow, ge_iff_le]
  split
  · rename_i h
    simp [h.1, h.2, show i - lo < n by omega]
  · rename_i h
    by_cases hlo : lo ≤ i
    · simp [hlo, show ¬ i - lo < n by omega, show ¬ i < lo + n by omega]
    · simp [hlo]

theorem bit_of_ge (w : Word) {i : Nat} (h : 32 ≤ i) : bit w i = false := BitVec.getLsbD_of_ge w i h

theorem testBit_fld (w : Word) (lo n i : Nat) : (fld w lo n).testBit i = (decide (i < n) && bit w (lo + i)) := by
  simp only [fld, Nat.testBit_mod_two_pow, Nat.testBit_shiftRight, bit, BitVec.getLsbD]

theorem fld_setFld_self (w : Word) {lo n : Nat} (v : Nat) (h : lo + n ≤ 32) : fld (setFld w lo n v) lo n = v % 2 ^ n := by
  refine Nat.eq_of_testBit_eq fun i => ?_
  rw [testBit_fld, Nat.testBit_mod_two_pow]
  by_cases hi : i < n
  · rw [bit_setFld _ _ _ _ _ (by omega), if_pos (by omega), Nat.add_sub_cancel_left]
  · simp [hi]

theorem fld_setFld_of_lt (w : Word) {lo n v : Nat} (h : lo + n ≤ 32) (hv : v < 2 ^ n) : fld (setFld w lo n v) lo n = v := by
  rw [fld_setFld_self w v h, Nat.mod_eq_of_lt hv]

/-- A field apart from the one written keeps its value. -/
theorem fld_setFld_apart (w : Word) {lo n lo' n' : Nat} (v : Nat) (h : lo' + n' ≤ lo ∨ lo + n ≤ lo') :
    fld (setFld w lo n v) lo' n' = fld w lo' n' := by
  refine Nat.eq_of_testBit_eq fun i => ?_
  simp only [testBit_fld]
  by_cases hi : i < n'
  · by_cases hbit : lo' + i < 32
    · rw [bit_setFld _ _ _ _ _ hbit, if_neg (by omega)]
    · rw [bit_of_ge _ (by omega), bit_of_ge _ (by omega)]
  · simp [hi]

theorem State.reg_setRf_self (s : State) (a lo n v : Nat) : (s.setRf a lo n v).reg a = setFld (s.reg a) lo n v := s.reg_setReg_self a _

theorem State.rf_setRf_self (s : State) (a : Nat) {lo n v : Nat} (h : lo + n ≤ 32) (hv : v < 2 ^ n) :
    (s.setRf a lo n v).rf a lo n = v := by
  rw [State.rf, State.reg_setRf_self, fld_setFld_of_lt _ h hv]

theorem State.rf_setRf_apart (s : State) (a : Nat) {lo n lo' n' : Nat} (v : Nat) (h : lo' + n' ≤ lo ∨ lo + n ≤ lo') :
    (s.setRf a lo n v).rf a lo' n' = s.rf a lo' n' := by
  rw [State.rf, State.reg_setRf_self, fld_setFld_apart _ _ h, State.rf]

theorem State.bumpFld_eq (s : State) (a lo n : Nat) : s.bumpFld a lo n = s.setRf a lo n (min (2 ^ n - 1) (s.rf a lo n + 1)) := by
  rw [State.bumpFld, satAdd_eq_min]

/-! PPS, the servo's master and the reference (rules R38, R105, R108). -/

theorem State.ppsEdge_disabled {s : State} (h : bit (s.reg 0x12A0) 3 = false) : s.ppsEdge = s := by
  simp only [State.ppsEdge, h, Bool.not_false, if_true]

theorem State.ppsEdge_glitch {s : State} {t : Nat} (h : bit (s.reg 0x12A0) 3 = true) (hlast : s.time.ppsAt = some t)
    (hearly : s.time.ns - t < 100000) : s.ppsEdge = s.setRf 0x12B0 24 8 (min 255 (s.rf 0x12B0 24 8 + 1)) := by
  simp only [State.ppsEdge, h, hlast, hearly, Bool.not_true, Bool.false_eq_true, if_false, decide_true, if_true]
  exact s.bumpFld_eq _ _ _

theorem State.ppsEdge_captured {s : State} (h : bit (s.reg 0x12A0) 3 = true)
    (hlast : ∀ t, s.time.ppsAt = some t → 100000 ≤ s.time.ns - t) :
    let c := s.tc (s.rf 0x12A0 0 3)
    let u := ((s.setReg 0x12A4 (w32 c.ns.toNat)).setReg 0x12A8 (w32 c.sec.toNat)).setReg 0x12AC (w32 (c.sec.toNat / 2 ^ 32))
    s.ppsEdge = ({ u.setRf 0x12B0 0 24 (s.rf 0x12B0 0 24 + 1) with
      time := { s.time with ppsAt := some s.time.ns } } : State).intRaise .time 0 := by
  have hkeep (u : State) (a : Nat) (v : Word) (ha : (0x12B0 : Nat) ≠ a) : (u.setReg a v).rf 0x12B0 0 24 = u.rf 0x12B0 0 24 := by
    rw [State.rf, State.reg_setReg_ne _ _ ha, State.rf]
  intro c u
  have hu : u.rf 0x12B0 0 24 = s.rf 0x12B0 0 24 := by
    simp (disch := decide) only [u, hkeep]
  rw [← hu]
  cases hat : s.time.ppsAt with
  | none =>
    simp only [State.ppsEdge, h, hat, Bool.not_true, Bool.false_eq_true, if_false]
    rfl
  | some t =>
    have hearly : ¬ s.time.ns - t < 100000 := Nat.not_lt.mpr (hlast t hat)
    simp only [State.ppsEdge, h, hat, hearly, decide_false, Bool.not_true, Bool.false_eq_true, if_false]
    rfl

/-- What the servo's corrections leave: the servo's own register, and whether the end of the command has more to do. -/
def State.servoPart (s : State) : Word × List Nat × Headgate := (s.reg 0x12E4, s.foldDue, s.head)

theorem State.writeTc_servoPart (s : State) (r : Requester) (n : Nat) (v : Word) :
    (s.writeAddFrac r n v).2.servoPart = s.servoPart ∧ (s.writeStepLo r n v).2.servoPart = s.servoPart ∧
    (s.writeAddInt r n v).2.servoPart = s.servoPart ∧ (s.writeStepHi r n v).2.servoPart = s.servoPart := by
  have hraise (t : State) (i : Nat) : (t.intRaise .time i).servoPart = t.servoPart := by
    simp only [State.servoPart, State.reg_intRaise_off t .time i (b := 0x12E4) (by decide), State.intRaise_foldDue,
      State.intRaise_head]
  have hhalf (t : State) (a : Nat) (w : Option Word) : (t.setHalf r a w).servoPart = t.servoPart := by cases w <;> rfl
  have htc (t : State) (c : Tc) : (t.setTc n c).servoPart = t.servoPart := rfl
  cases may : mayCorrect r n
  · obtain ⟨efrac, elo, eint, ehi⟩ := s.writeTc_refused v may
    simp only [efrac, elo, eint, ehi, and_self]
    exact hraise s 3
  · refine ⟨?_, ?_, ?_, ?_⟩
    · rw [State.writeAddFrac, if_pos may]
      exact hhalf _ _ _
    · rw [State.writeStepLo, if_pos may]
      exact hhalf _ _ _
    · rw [s.writeAddInt_eq v may]
      dsimp only
      split
      · exact (htc _ _).trans (hhalf _ _ _)
      · exact (hraise _ _).trans (hhalf _ _ _)
    · rw [s.writeStepHi_eq v may]
      dsimp only
      split
      · exact (hraise _ _).trans (hhalf _ _ _)
      · exact (hraise _ _).trans ((htc _ _).trans (hhalf _ _ _))

theorem State.servoCorrect_servoPart (s : State) (n : Nat) (off : Int) (addend : BitVec 64) :
    (s.servoCorrect n off addend).servoPart = s.servoPart := by
  simp only [State.servoCorrect]
  split
  · rw [(State.writeTc_servoPart _ _ _ _).2.2.2, (State.writeTc_servoPart _ _ _ _).2.1]
  · rw [(State.writeTc_servoPart _ _ _ _).2.2.1, (State.writeTc_servoPart _ _ _ _).1]

theorem State.masterEvent_acquired_servoPart (s : State) (l : List (Int × BitVec 64)) :
    (s.masterEvent (.acquired l)).servoPart = (s.setRf 0x12E4 0 2 1).servoPart :=
  foldl_fixes State.servoPart (by intro t p; exact t.servoCorrect_servoPart p.2 p.1.1 p.1.2) _ _

theorem exec_masterLoss {s : State} (e : MasterEvent) (hup : Up s) (hmgmt : s.mgmtRuns = true) :
    exec (.masterLoss e) s = .next (s.masterEvent e).done := by
  show (s.act fun s => if s.mgmtRuns then s.masterEvent e else s) = _
  rw [State.act_up hup, if_pos hmgmt]

/-- Settles O17. -/
theorem referencesAndPps : Obligations.ReferencesAndPps := by
  refine ⟨fun s hup => ⟨fun hoff => ?_, fun t hon hlast hearly => ?_, fun hon hlast => ?_, fun hmgmt => ⟨?_, ?_, fun l hcalm => ?_⟩⟩,
    fun s hup => ⟨fun hlost => ?_, fun hlost => ?_, ?_⟩⟩
  · show s.act State.ppsEdge = _
    rw [State.act_up hup, State.ppsEdge_disabled hoff]
  · show s.act State.ppsEdge = _
    rw [State.act_up hup, State.ppsEdge_glitch hon hlast hearly]
  · show s.act State.ppsEdge = _
    rw [State.act_up hup, State.ppsEdge_captured hon hlast]
  · exact exec_masterLoss .lost hup hmgmt
  · rw [exec_masterLoss .changed hup hmgmt, State.masterEvent, State.bumpFld_eq] <;> rfl
  · have hpart := s.masterEvent_acquired_servoPart l
    simp only [State.servoPart, Prod.mk.injEq] at hpart
    obtain ⟨hreg, hfold, hhead⟩ := hpart
    have hcalm' : Calm (s.masterEvent (.acquired l)) := by rwa [Calm, hfold, hhead]
    refine ⟨_, exec_masterLoss (.acquired l) hup hmgmt, ?_⟩
    rw [State.rf, State.done_reg hcalm' (by decide), hreg]
    exact s.rf_setRf_self 0x12E4 (by decide) (by decide)
  · show s.act State.refLoss = _
    rw [State.act_up hup]
    simp only [State.refLoss, hlost]
    rfl
  · show s.act State.refLoss = _
    rw [State.act_up hup]
    simp only [State.refLoss, hlost, if_true]
  · exact State.act_up hup _

end Sys2Proof.Machine
end

section

namespace Sys2Proof.Machine

/-! The words of the slot table (rules R110, R116). -/

theorem State.slotW_setSlotW (s : State) (k j : Nat) {w x : Nat} (v : Word) (hw : w < 16) (hx : x < 16) :
    (s.setSlotW k w v).slotW j x = if j = k ∧ x = w then v else s.slotW j x := by
  have hkey : 16 * j + x = 16 * k + w ↔ j = k ∧ x = w := by omega
  simp only [State.slotW, State.setSlotW, Cells.get_put, hkey]
  split
  · rename_i h
    rw [h.2]
    split
    · rename_i hv; exact hv.symm
    · rfl
  · rfl

theorem bit_w32 (n i : Nat) : bit (w32 n) i = (decide (i < 32) && n.testBit i) := BitVec.getLsbD_ofNat ..

theorem w32_decide (c : Prop) [Decidable c] : w32 (decide c).toNat = if c then 1 else 0 := by
  by_cases h : c <;> simp only [h, decide_true, decide_false, if_true, if_false] <;> rfl

theorem bit_setBit_self (w : Word) {i : Nat} (b : Bool) (hi : i < 32) : bit (setBit w i b) i = b := by
  rw [setBit, bit_setFld _ _ _ _ _ hi, if_pos (by omega), Nat.sub_self]
  cases b <;> rfl

theorem bit_setBit_ne (w : Word) {i j : Nat} (b : Bool) (hj : j < 32) (h : j ≠ i) : bit (setBit w i b) j = bit w j := by
  rw [setBit, bit_setFld _ _ _ _ _ hj, if_neg (by omega)]

/-! Arming and disarming (rules R111–R116). -/

theorem State.serveWrite_slotCfg (s : State) (r : Requester) (v : Word) :
    s.serveWrite r .slots 0x104 v = s.writeSlotCfg (fld (s.own r 0x2100) 0 8) v := rfl

theorem act_slotCfg {s t : State} {r : Requester} {v : Word} {code : Nat} (h : Reaches s r 0x2104 true)
    (hq : s.writeSlotCfg (fld (s.own r 0x2100) 0 8) v = (code, t)) :
    (s.act fun s => s.regWrite r (wordAccess 0x2104) v) = .next (t.respond r code 0).done := by
  rw [State.act_regWrite h (by decide) (p := .slots) (by decide), show 0x2104 % 4096 = 0x104 from rfl, State.serveWrite_slotCfg, hq]

theorem State.disarmWrite_eq (s : State) (r : Requester) : s.disarmWrite r =
    s.regWrite r (wordAccess 0x2104) (setBit (s.slotW (fld (s.own r 0x2100) 0 8) 0) 0 false) := rfl

theorem exec_disarm {s t : State} {r : Requester} {code : Nat} (h : Reaches s r 0x2104 true)
    (hq : s.writeSlotCfg (fld (s.own r 0x2100) 0 8) (setBit (s.slotW (fld (s.own r 0x2100) 0 8) 0) 0 false) = (code, t)) :
    exec (.disarm r) s = .next (t.respond r code 0).done := by
  have hact := act_slotCfg h hq
  rw [State.act_up h.1] at hact
  show (s.act fun s => s.disarmWrite r) = _
  rw [State.act_up h.1, State.disarmWrite_eq, hact]

/-- The nine bits of an arming CFG and ARM itself fill the ten writable bits. -/
theorem armCfg_writable (v : BitVec 9) : w32 (1 + 2 * v.toNat) &&& 0x3FF = w32 (1 + 2 * v.toNat) := by
  refine BitVec.eq_of_toNat_eq ?_
  have hv : v.toNat < 512 := v.isLt
  have hmask : (0x3FF : Word).toNat = 2 ^ 10 - 1 := rfl
  rw [BitVec.toNat_and, hmask, Nat.and_two_pow_sub_one_eq_mod, w32, BitVec.toNat_ofNat]
  omega

/-- Settles O18. -/
theorem slotArming : Obligations.SlotArming := by
  intro s r v hreach k cfg
  have hcfg : cfg &&& 0x3FF = cfg := armCfg_writable v
  have hbit : bit cfg 0 = true := by
    rw [bit_w32, Nat.testBit_zero]
    simp
  have hclear : bit (setBit (s.slotW k 0) 0 false) 0 = false := bit_setBit_self _ _ (by decide)
  have hbad : slotBad cfg (s.slotW k 4) = true ↔ 6 ≤ fld cfg 1 3 ∨ (bit cfg 7 = true ∧ (s.slotW k 4).toNat < 64) := by
    simp only [slotBad, Bool.or_eq_true, Bool.and_eq_true, decide_eq_true_eq]
  refine ⟨fun harmed => ?_, fun hfree hrefuse => ?_, fun hfree htake => ?_, fun hnow => ?_, fun harmed hfiring => ?_⟩
  · refine act_slotCfg hreach ?_
    rw [State.writeSlotCfg, if_pos harmed, if_pos hbit]
  · refine act_slotCfg hreach ?_
    rw [State.writeSlotCfg, if_neg (by rw [hfree]; decide), if_pos hbit, hcfg, if_pos (hbad.mpr hrefuse)]
  · refine act_slotCfg hreach ?_
    show s.writeSlotCfg k cfg = _
    rw [State.writeSlotCfg, if_neg (by rw [hfree]; decide), if_pos hbit, hcfg, if_neg (mt hbad.mp htake)]
    rw [← w32_decide (s.slotTarget k ≤ s.now (fld cfg 4 3))]
  · refine exec_disarm hreach ?_
    show s.writeSlotCfg k (setBit (s.slotW k 0) 0 false) = _
    rw [State.writeSlotCfg, hclear]
    by_cases harmed : s.slotArmed k = true
    · rw [if_pos harmed, if_neg Bool.false_ne_true, if_neg fun hf => hnow ⟨harmed, hf⟩]
    · rw [if_neg harmed, if_neg Bool.false_ne_true]
  · refine exec_disarm hreach ?_
    show s.writeSlotCfg k (setBit (s.slotW k 0) 0 false) = _
    rw [State.writeSlotCfg, hclear, if_pos harmed, if_neg Bool.false_ne_true, if_pos hfiring]

end Sys2Proof.Machine
end

section

namespace Sys2Proof.Machine

/-! The firing of a slot and its record (rules R110–R115). -/

theorem natMin_eq (a b : Nat) : Nat.min a b = min a b := rfl

theorem exec_slotFire {s : State} (k : Fin 256) (hup : Up s) : exec (.slotFire k) s = .next (s.fireSlot k.val).done := by
  show (s.act fun s => s.fireSlot k.val) = _
  rw [State.act_up hup]

theorem State.fireSlot_idle {s : State} {k : Nat} (hfiring : s.time.firing.contains k = false) (hdue : s.slotDue k = false) :
    s.fireSlot k = s := by
  simp only [State.fireSlot, hfiring, hdue, Bool.or_self, Bool.not_false, if_true]

theorem State.fireSlot_fires {s : State} {k : Nat} (h : s.time.firing.contains k = true ∨ s.slotDue k = true) :
    s.fireSlot k = let x := (((s.slotAction k).2).slotRecord k (s.slotAction k).1).firingOver k
      if bit (s.slotW k 0) 9 then x.wakeEvent 2 0 else x := by
  have hfire : (!(s.time.firing.contains k || s.slotDue k)) = false := by
    rcases h with h | h <;> simp only [h, Bool.true_or, Bool.or_true, Bool.not_true]
  simp only [State.fireSlot, hfire, Bool.false_eq_true, if_false]

/-- A firing that is late: LATENESS, its bit of LATE_MAP and the event. -/
def State.slotLate (s : State) (k : Nat) (behind : Word) : State :=
  let s := s.setSlotW k 8 behind
  let a := 0x2240 + 4 * (k / 32)
  (s.setReg a (s.reg a ||| w32 (2 ^ (k % 32)))).intRaise .slots 1

/-- What reports a firing of a slot whose CFG is `cfg`: the failure's event, LAST_CODE and, where CFG asks, FIRE_MAP. -/
def State.slotNotes (s : State) (k : Nat) (cfg : Word) (code rc : Nat) : State :=
  let s := (if code ≠ 0 then s.intRaise .slots 2 else s).lastCode .slots rc
  if bit cfg 8 then
    let a := 0x2220 + 4 * (k / 32)
    (s.setReg a (s.reg a ||| w32 (2 ^ (k % 32)))).intRaise .slots 0
  else s

/-- The code of a firing's record: LATE where the action gives none and the slot fires late (rule R112). -/
def State.recordCode (s : State) (k code : Nat) : Nat := if code ≠ 0 then code else if bit (s.slotW k 11) 0 then cLATE else cOK

/-- LATENESS of a firing that is late. -/
def State.behind (s : State) (k : Nat) : Word := w32 (Nat.min 0xFFFFFFFF (s.now (fld (s.slotW k 0) 4 3) - s.slotTarget k))

/-- REC after one more firing, from what it was. -/
def recAfter (rc : Nat) (old : Word) : Word := w32 (rc + satAdd 0xFFFFFF (fld old 8 24) 1 * 256)

/-- What the record of a firing writes before the slot is armed again or disarmed: FIRED_AT, REC, and what reports the firing. -/
def State.slotReport (s : State) (k code : Nat) : State :=
  let u := (s.setSlotW k 10 s.stamp).setSlotW k 11 0
  let v := u.setSlotW k 7 (recAfter (s.recordCode k code) (u.slotW k 7))
  (if bit (s.slotW k 11) 0 then v.slotLate k (s.behind k) else v).slotNotes k (s.slotW k 0) code (s.recordCode k code)

/-- The next target of a periodic slot whose counter stands at `now` (rule R113). -/
def nextTarget (target period now : Nat) : Nat :=
  target + period + (if target + period ≤ now then (now - (target + period)) / period + 1 else 0) * period

/-- A periodic slot goes on to its next target, over `skip` targets that have passed. -/
def State.slotNext (s : State) (k target skip : Nat) : State := (s.setSlotTarget k target).setSlotW k 9 (satInc (s.slotW k 9) skip)

theorem State.slotRecord_eq (s : State) (k code : Nat) : s.slotRecord k code =
    let u := s.slotReport k code
    let p := (u.slotW k 4).toNat
    let t := s.slotTarget k + p
    let skip := if t ≤ s.now (fld (s.slotW k 0) 4 3) then (s.now (fld (s.slotW k 0) 4 3) - t) / p + 1 else 0
    if bit (s.slotW k 0) 7 then u.slotNext k (t + skip * p) skip else u.setSlotW k 0 (setBit (s.slotW k 0) 0 false) := by
  unfold State.slotRecord State.slotReport State.slotNotes State.slotLate State.recordCode State.behind recAfter State.slotNext
  rfl

/-! What the record leaves in the slot table. -/

@[simp] theorem State.slotW_setReg (s : State) (a : Nat) (v : Word) (j w : Nat) : (s.setReg a v).slotW j w = s.slotW j w := rfl

@[simp] theorem State.slotW_intRaise (s : State) (p : Page) (i j w : Nat) : (s.intRaise p i).slotW j w = s.slotW j w := rfl

@[simp] theorem State.slotW_lastCode (s : State) (p : Page) (c j w : Nat) : (s.lastCode p c).slotW j w = s.slotW j w := by
  rw [State.slotW, State.lastCode_time, State.slotW]

theorem State.slotW_ite (c : Prop) [Decidable c] (s t : State) (j w : Nat) :
    (if c then s else t).slotW j w = if c then s.slotW j w else t.slotW j w := apply_ite (fun u : State => u.slotW j w) c s t

theorem State.slotW_slotNotes (s : State) (k : Nat) (cfg : Word) (code rc j w : Nat) :
    (s.slotNotes k cfg code rc).slotW j w = s.slotW j w := by
  simp only [State.slotNotes, State.slotW_ite, State.slotW_intRaise, State.slotW_setReg, State.slotW_lastCode, ite_self]

theorem State.slotW_slotLate (s : State) (k j : Nat) (v : Word) {w : Nat} (hw : w < 16) :
    (s.slotLate k v).slotW j w = if j = k ∧ w = 8 then v else s.slotW j w := by
  rw [State.slotLate, State.slotW_intRaise, State.slotW_setReg, State.slotW_setSlotW _ _ _ _ (by decide) hw]

/-- The word of its own slot that a firing's report writes at `w`. -/
def State.reportWord (s : State) (k code w : Nat) : Word :=
  if w = 7 then recAfter (s.recordCode k code) (s.slotW k 7)
  else if w = 8 ∧ bit (s.slotW k 11) 0 = true then s.behind k
  else if w = 10 then s.stamp
  else if w = 11 then 0
  else s.slotW k w

theorem State.slotReport_slotW (s : State) (k code j : Nat) {w : Nat} (hw : w < 16) :
    (s.slotReport k code).slotW j w = if j = k then s.reportWord k code w else s.slotW j w := by
  simp (disch := first | assumption | decide) only [State.slotReport, State.slotW_slotNotes, State.slotW_ite, State.slotW_slotLate,
    State.slotW_setSlotW, State.reportWord]
  generalize s.behind k = late
  by_cases hj : j = k
  · subst hj
    cases bit (s.slotW j 11) 0 <;> grind
  · simp only [hj, false_and, if_false, ite_self]

/-- Of `s`, registers and words of the slot table alone have changed in `t`. -/
def SlotsOnly (s t : State) : Prop := t = { s with regs := t.regs, time := { s.time with slots := t.time.slots } }

theorem SlotsOnly.trans {s t u : State} (h : SlotsOnly s t) (h' : SlotsOnly t u) : SlotsOnly s u := by
  unfold SlotsOnly at h h' ⊢
  rw [h', h]

theorem SlotsOnly.disarm {s t : State} (h : SlotsOnly s t) : t.time.disarm = s.time.disarm := by
  unfold SlotsOnly at h
  rw [h]

theorem RegsBut.slotsOnly {rs : Nat → Prop} {s t : State} (h : RegsBut rs s t) : SlotsOnly s t := by
  unfold SlotsOnly
  rw [h.1]

theorem State.setSlotW_slotsOnly (s : State) (k w : Nat) (v : Word) : SlotsOnly s (s.setSlotW k w v) := rfl

theorem State.slotNotes_regsBut (s : State) (k : Nat) (cfg : Word) (code rc : Nat) :
    RegsBut (fun a => a = 0x2010 ∨ a = 0x2014 ∨ a = 0x2220 + 4 * (k / 32)) s (s.slotNotes k cfg code rc) := by
  have hnoted : RegsBut (fun a => a = 0x2010 ∨ a = 0x2014 ∨ a = 0x2220 + 4 * (k / 32)) s
      ((if code ≠ 0 then s.intRaise .slots 2 else s).lastCode .slots rc) :=
    .lastCode (.ite (.intRaise .refl (Or.inr (Or.inl rfl)) _) .refl) (Or.inl rfl) _
  exact .ite (.intRaise (.setReg hnoted (Or.inr (Or.inr rfl)) _) (Or.inr (Or.inl rfl)) _) hnoted

theorem State.slotLate_slotsOnly (s : State) (k : Nat) (v : Word) : SlotsOnly s (s.slotLate k v) := rfl

theorem State.slotReport_slotsOnly (s : State) (k code : Nat) : SlotsOnly s (s.slotReport k code) := by
  have hrecord (x y : Word) : SlotsOnly s (((s.setSlotW k 10 x).setSlotW k 11 0).setSlotW k 7 y) := rfl
  refine SlotsOnly.trans ?_ (State.slotNotes_regsBut _ _ _ _ _).slotsOnly
  split
  · exact (hrecord _ _).trans (State.slotLate_slotsOnly _ _ _)
  · exact hrecord _ _

/-- LATE_MAP names a slot that fired late. -/
theorem State.slotReport_lateMap {s : State} {k : Nat} (code : Nat) (h : bit (s.slotW k 11) 0 = true) :
    bit ((s.slotReport k code).reg (0x2240 + 4 * (k / 32))) (k % 32) = true := by
  have hmap : Page.base .slots + 0x14 ≠ 0x2240 + 4 * (k / 32) := by simp only [Page.base]; omega
  simp only [State.slotReport, h, if_true]
  rw [(State.slotNotes_regsBut _ _ _ _ _).2 _ (by omega), State.slotLate, State.reg_intRaise, if_neg (Ne.symm hmap),
    State.reg_setReg_self, bit_or, bit_w32_pow _ (Nat.mod_lt _ (by decide)), Bool.or_true]

/-! The target of a slot, and the next one of a periodic slot (rules R110, R113). -/

theorem State.slotW_setSlotTarget (s : State) (k t j : Nat) {w : Nat} (hw : w < 16) : (s.setSlotTarget k t).slotW j w =
    if j = k ∧ w = 1 then w32 (t % 1000000000)
    else if j = k ∧ w = 2 then w32 (t / 1000000000)
    else if j = k ∧ w = 3 then w32 (t / 1000000000 / 2 ^ 32 % 65536)
    else s.slotW j w := by
  simp (disch := first | assumption | decide) only [State.setSlotTarget, State.slotW_setSlotW]
  grind

/-- The target of a slot as the three words hold it. -/
def targetOf (ns lo hi : Word) : Nat := (fld hi 0 16 * 2 ^ 32 + lo.toNat) * 1000000000 + ns.toNat

theorem State.slotTarget_eq (s : State) (k : Nat) : s.slotTarget k = targetOf (s.slotW k 1) (s.slotW k 2) (s.slotW k 3) := rfl

theorem w32_toNat {n : Nat} (h : n < 2 ^ 32) : (w32 n).toNat = n := by
  rw [w32, BitVec.toNat_ofNat, Nat.mod_eq_of_lt h]

theorem targetOf_words {t : Nat} (h : t < 2 ^ 48 * 1000000000) :
    targetOf (w32 (t % 1000000000)) (w32 (t / 1000000000)) (w32 (t / 1000000000 / 2 ^ 32 % 65536)) = t := by
  have hhi : fld (w32 (t / 1000000000 / 2 ^ 32 % 65536)) 0 16 = t / 1000000000 / 2 ^ 32 % 65536 := by
    rw [fld_w32 (by omega)]
    omega
  have hlo : (w32 (t / 1000000000)).toNat = t / 1000000000 % 2 ^ 32 := BitVec.toNat_ofNat ..
  rw [targetOf, hhi, hlo, w32_toNat (by omega)]
  omega

theorem nextTarget_spec {target period now : Nat} (hp : 0 < period) (ht : target ≤ now) :
    now < nextTarget target period now ∧ nextTarget target period now ≤ now + period ∧
      period ∣ nextTarget target period now - target := by
  unfold nextTarget
  split
  · rename_i hpast
    have hdiv := Nat.div_add_mod (now - (target + period)) period
    have hmod := Nat.mod_lt (now - (target + period)) hp
    generalize hq : (now - (target + period)) / period = q at *
    have hmul : (q + 1) * period = period * q + period := by rw [Nat.succ_mul, Nat.mul_comm]
    refine ⟨by omega, by omega, ⟨q + 2, ?_⟩⟩
    have : period * (q + 2) = period * q + 2 * period := by rw [Nat.mul_add, Nat.mul_comm period 2]
    omega
  · exact ⟨by omega, by omega, ⟨1, by omega⟩⟩

/-! The record as a whole, and the end of a firing (rules R112–R114). -/

section
variable (s : State) (k code : Nat)

theorem State.slotNext_slotsOnly (target skip : Nat) : SlotsOnly s (s.slotNext k target skip) := rfl

theorem State.slotW_slotNext (target skip j : Nat) {w : Nat} (hw : w < 16) : (s.slotNext k target skip).slotW j w =
    if j = k ∧ w = 9 then satInc (s.slotW k 9) skip else (s.setSlotTarget k target).slotW j w := by
  rw [State.slotNext, State.slotW_setSlotW _ _ _ _ (by decide) hw]

theorem State.slotRecord_slotsOnly : SlotsOnly s (s.slotRecord k code) := by
  rw [State.slotRecord_eq]
  dsimp only
  split
  · exact (s.slotReport_slotsOnly k code).trans (State.slotNext_slotsOnly _ _ _ _)
  · exact (s.slotReport_slotsOnly k code).trans (State.setSlotW_slotsOnly _ _ _ _)

/-- The record as a write of CFG, the target and SKIPPED after the report. -/
theorem State.slotRecord_slotW_of_report {j w : Nat} (hw : w < 16) (h : j ≠ k ∨ 4 < w ∧ w ≠ 9) :
    (s.slotRecord k code).slotW j w = if j = k then s.reportWord k code w else s.slotW j w := by
  rw [← s.slotReport_slotW k code j hw, State.slotRecord_eq]
  dsimp only
  split
  · rw [State.slotW_slotNext _ _ _ _ _ hw, if_neg (by omega), State.slotW_setSlotTarget _ _ _ _ hw, if_neg (by omega),
      if_neg (by omega), if_neg (by omega)]
  · rw [State.slotW_setSlotW _ _ _ _ (by decide) hw, if_neg (by omega)]

theorem State.slotRecord_reg (a : Nat) : (s.slotRecord k code).reg a = (s.slotReport k code).reg a := by
  rw [State.slotRecord_eq]
  dsimp only
  split <;> rfl

theorem State.slotRecord_oneShot (h : bit (s.slotW k 0) 7 = false) :
    (s.slotRecord k code).slotW k 0 = setBit (s.slotW k 0) 0 false := by
  rw [State.slotRecord_eq]
  simp only [h, Bool.false_eq_true, if_false]
  rw [State.slotW_setSlotW _ _ _ _ (by decide) (by decide), if_pos ⟨rfl, rfl⟩]

theorem State.slotRecord_periodic (h : bit (s.slotW k 0) 7 = true)
    (hlt : nextTarget (s.slotTarget k) (s.slotW k 4).toNat (s.now (fld (s.slotW k 0) 4 3)) < 2 ^ 48 * 1000000000) :
    (s.slotRecord k code).slotTarget k = nextTarget (s.slotTarget k) (s.slotW k 4).toNat (s.now (fld (s.slotW k 0) 4 3)) := by
  have hperiod : (s.slotReport k code).slotW k 4 = s.slotW k 4 := by
    rw [s.slotReport_slotW k code k (by decide), if_pos rfl]; rfl
  rw [State.slotRecord_eq]
  simp only [h, if_true, hperiod]
  rw [State.slotTarget_eq]
  simp (disch := decide) only [State.slotW_slotNext, State.slotW_setSlotTarget]
  exact targetOf_words hlt

end

theorem State.firingOver_keeps (s : State) (k : Nat) : (s.firingOver k).time.firing.contains k = false := by
  have : (s.firingOver k).time.firing = (s.time.firing.filter (· ≠ k)) := by
    simp only [State.firingOver]
    split <;> rfl
  rw [this]
  simp

theorem State.firingOver_slotW (s : State) (k : Nat) :
    (s.firingOver k).slotW k 0 = (Cells.get none s.time.disarm k).getD (s.slotW k 0) := by
  simp only [State.firingOver]
  cases Cells.get none s.time.disarm k with
  | none => rfl
  | some c =>
    show (s.setSlotW k 0 c).slotW k 0 = c
    rw [State.slotW_setSlotW _ _ _ _ (by decide) (by decide), if_pos ⟨rfl, rfl⟩]

/-- Settles O19: a firing runs its action, then the record, whose words are those of the report and of the next target. -/
theorem slotFires : Obligations.SlotFires := by
  intro s k hup
  refine ⟨fun hfiring hdue => ?_, fun hfires => ?_⟩
  · rw [exec_slotFire k hup, State.fireSlot_idle hfiring hdue]
  intro kind ctx code u t x cfg now late
  have hword {w : Nat} (hw : w < 16) (h : 4 < w ∧ w ≠ 9) : t.slotW k.val w = u.reportWord k.val code w := by
    rw [u.slotRecord_slotW_of_report k.val code hw (Or.inr h), if_pos rfl]
  have hdisarm : t.time.disarm = u.time.disarm := (u.slotRecord_slotsOnly k.val code).disarm
  refine ⟨?_, fun hk => ?_, fun hk hdom => ?_, fun hk hdom => ?_, fun hk hdom => ?_, ?_, ?_, ?_, ?_, ?_, ?_, ?_, ?_, ?_, ?_, ?_⟩
  · rw [exec_slotFire k hup, State.fireSlot_fires hfires]
  · have haction : s.slotAction k.val = (cOK, s) := by simp only [State.slotAction, show fld (s.slotW k.val 0) 1 3 = 0 from hk]
    exact ⟨congrArg Prod.snd haction, congrArg Prod.fst haction⟩
  · have haction : s.slotAction k.val = (cOFF_DOMAIN, s) := by
      rcases hk with hk | hk <;> simp only [State.slotAction, show fld (s.slotW k.val 0) 1 3 = _ from hk, if_pos hdom]
    exact ⟨congrArg Prod.snd haction, congrArg Prod.fst haction⟩
  · have haction : s.slotAction k.val = s.start ctx := by
      simp only [State.slotAction, show fld (s.slotW k.val 0) 1 3 = 1 from hk, if_neg (Classical.not_not.mpr hdom)]; rfl
    exact ⟨congrArg Prod.snd haction, congrArg Prod.fst haction⟩
  · have haction : s.slotAction k.val = (cOK, s.signal (fld (s.slotW k.val 5) 0 17) (s.slotW k.val 6).toNat) := by
      simp only [State.slotAction, show fld (s.slotW k.val 0) 1 3 = 2 from hk, if_neg (Classical.not_not.mpr hdom)]
    exact ⟨congrArg Prod.snd haction, congrArg Prod.fst haction⟩
  · exact u.slotRecord_slotsOnly k.val code
  · intro j w hj hw
    rw [u.slotRecord_slotW_of_report k.val code hw (Or.inl hj), if_neg hj]
  · exact hword (by decide) (by decide)
  · exact hword (by decide) (by decide)
  · rw [hword (by decide) (by decide), State.reportWord, if_pos rfl, recAfter, State.recordCode, satAdd_eq_min, ite_not]
    rfl
  · intro hlate
    refine ⟨?_, ?_⟩
    · rw [hword (by decide) (by decide), State.reportWord, if_neg (by decide), if_pos ⟨rfl, hlate⟩]
      exact congrArg w32 (natMin_eq _ _)
    · rw [u.slotRecord_reg]
      exact State.slotReport_lateMap code hlate
  · exact u.slotRecord_oneShot k.val code
  · intro hperiodic hp ht hnow
    obtain ⟨hlo, hhi, hdvd⟩ := nextTarget_spec hp ht
    have hperiod : (u.slotW k.val 4).toNat < 2 ^ 32 := (u.slotW k.val 4).isLt
    have hlt : nextTarget (u.slotTarget k.val) (u.slotW k.val 4).toNat now < 2 ^ 48 * 1000000000 := by omega
    rw [show t.slotTarget k.val = _ from u.slotRecord_periodic k.val code hperiodic hlt]
    exact ⟨hlo, hhi, hdvd⟩
  · intro c hc
    rw [t.firingOver_slotW, hdisarm, hc]; rfl
  · intro hnone
    rw [t.firingOver_slotW, hdisarm, hnone]; rfl
  · exact t.firingOver_keeps k.val

end Sys2Proof.Machine
end

section

namespace Sys2Proof.Machine

/-! The debug port, glitches and self-test (rules R405, R413, R445–R449). -/

theorem State.dbgScan_detached {s : State} (i : Nat) (h : bit (s.reg 0x76104) 1 = false) : s.dbgScan i = s := by
  rw [State.dbgScan, if_pos (by simp [h])]

theorem State.dbgScan_attached {s : State} (i : Nat) (h : bit (s.reg 0x76104) 1 = true) : s.dbgScan i =
    if s.reg 0x5A600 = 0 then { s with boot := { s.boot with tap := i } }
    else { s.bump 0x7610C 1 with boot := { s.boot with tap := 0 } } := by
  rw [State.dbgScan, if_neg (by simp [h])]

theorem State.dbgAttach_up {s : State} (hup : Up s) : s.dbgAttach =
    if bit (s.reg 0x76104) 1 = true then s else ((s.setReg 0x76104 3).bump 0x76108 1).intRaise .dbg 0 := by
  simp only [State.dbgAttach, show s.power.held = false from hup, Bool.false_eq_true, false_or]

theorem exec_scan {s : State} {c : Instr} {i : Nat} (hup : Up s) (hc : (c = .extest ∧ i = 1) ∨ (c = .clamp ∧ i = 2)) :
    exec c s = .next (s.dbgScan i).done := by
  rcases hc with ⟨rfl, rfl⟩ | ⟨rfl, rfl⟩
  · show (s.act fun s => s.dbgScan 1) = _
    rw [State.act_up hup]
  · show (s.act fun s => s.dbgScan 2) = _
    rw [State.act_up hup]

/-- Settles O56: an attach acts once, a detach always, and a scan instruction while attached. -/
theorem debugPort : Obligations.DebugPort := by
  intro s hup
  have hattach : exec .debugAttach s = .next s.dbgAttach.done := by
    show s.act State.dbgAttach = _
    rw [State.act_up hup]
  refine ⟨fun h => ?_, fun h => ?_, ?_, fun c i hc => ⟨fun h => ?_, fun h hact => ?_, fun h hact => ?_⟩⟩
  · rw [hattach, State.dbgAttach_up hup, if_pos h]
  · rw [hattach, State.dbgAttach_up hup, if_neg (by simp [h])]
  · intro u
    show s.act State.dbgDetach = _
    rw [State.act_up hup]
    rfl
  · rw [exec_scan hup hc, State.dbgScan_detached i h]
  · rw [exec_scan hup hc, State.dbgScan_attached i h, if_pos hact]
  · rw [exec_scan hup hc, State.dbgScan_attached i h, if_neg hact]
    rfl

/-! Self-test. -/

@[simp] theorem State.rm_setRm_self (s : State) (i : Nat) (v : Word) : (s.setRm i v).rm i = v := Cells.get_put_self ..

theorem State.rm_setRm_ne (s : State) {i j : Nat} (v : Word) (h : j ≠ i) : (s.setRm i v).rm j = s.rm j := Cells.get_put_ne _ _ _ v h

/-- The map after it is checked: kept, or emptied with MAP_BAD shown and both channels of every controller free (rule R445). -/
def State.mapChecked (s : State) (bad : Bool) : State :=
  if s.rm 0 ≠ 0 ∧ (bad ∨ s.rm 1 ≠ 0) then
    (List.range 4).foldl (fun s m => s.setRf (mcCfg m) 8 2 0) ({ s with rmap := [] }.setRf 0x5108 0 1 1)
  else s

theorem State.testMap_eq (s : State) (bad : Bool) : s.testMap bad =
    ((((s.mapChecked bad).setRm 0 0x524D0860).setRm 1 0).setRm 2 (w32 (satAdd 0xFFFF (fld (s.rm 2) 0 16) 1))).setRm 3 (s.mapChecked bad).stamp := rfl

theorem State.mapChecked_stamp (s : State) (bad : Bool) : (s.mapChecked bad).stamp = s.stamp := by
  have htime : (s.mapChecked bad).time = s.time := by
    unfold State.mapChecked
    split
    · exact foldl_fixes State.time (by intro t m; rfl) _ _
    · rfl
  simp only [State.stamp, State.now, State.tc_congr htime]

theorem State.mapChecked_rm (s : State) (bad : Bool) (i : Nat) :
    (s.mapChecked bad).rm i = if s.rm 0 ≠ 0 ∧ (bad ∨ s.rm 1 ≠ 0) then 0 else s.rm i := by
  unfold State.mapChecked
  split
  · exact foldl_fixes (State.rm · i) (by intro t m; rfl) _ _
  · rfl

theorem State.testMap_rm (s : State) (bad : Bool) {i : Nat} (hi : 4 ≤ i) :
    (s.testMap bad).rm i = if s.rm 0 ≠ 0 ∧ (bad ∨ s.rm 1 ≠ 0) then 0 else s.rm i := by
  rw [State.testMap_eq, State.rm_setRm_ne _ _ (by omega), State.rm_setRm_ne _ _ (by omega), State.rm_setRm_ne _ _ (by omega),
    State.rm_setRm_ne _ _ (by omega), State.mapChecked_rm]

theorem State.testMap_header (s : State) (bad : Bool) :
    (s.testMap bad).rm 0 = 0x524D0860 ∧ (s.testMap bad).rm 1 = 0 ∧ (s.testMap bad).rm 3 = s.stamp := by
  rw [State.testMap_eq]
  refine ⟨?_, ?_, ?_⟩
  · simp (disch := decide) only [State.rm_setRm_self, State.rm_setRm_ne]
  · simp (disch := decide) only [State.rm_setRm_self, State.rm_setRm_ne]
  · rw [State.rm_setRm_self, State.mapChecked_stamp]

/-- Settles O53: self-test runs where its conditions hold, and starts with the check of the repair map. -/
theorem selfTestRuns : Obligations.SelfTestRuns := by
  intro s r hup can
  have hexec : exec (.selfTest r) s = .next (s.selfTest r).done := by
    show (s.act fun s => s.selfTest r) = _
    rw [State.act_up hup]
  have hcan : can ↔ ¬ ((!s.testing) = true ∨ s.power.held = true ∨ s.power.pg ≠ 7 ∨ s.power.stuck = true ∨ 3 < r.speed.toNat ∨ 3 < r.dens.toNat) := by
    have hup : s.power.held = false := hup
    simp [can, hup, not_or]
  refine ⟨fun h => ?_, fun h => ⟨?_, rfl, rfl, rfl, ?_⟩⟩
  · rw [hexec, State.selfTest, if_pos (Classical.not_not.mp (mt hcan.mpr h))]
  · rw [hexec, State.selfTest, if_neg (hcan.mp h)]
  · intro u
    obtain ⟨hmagic, hcrc, hstamp⟩ := s.testMap_header r.mapBad
    refine ⟨hmagic, hcrc, hstamp, fun hbad hpresent i hi => ?_, fun hgood hcrc i hi => ?_⟩
    · rw [s.testMap_rm _ hi, if_pos ⟨hpresent, Or.inl hbad⟩]
    · rw [s.testMap_rm _ hi, if_neg (by simp [hgood, hcrc])]

end Sys2Proof.Machine
end

section

namespace Sys2Proof.Machine

/-! Glitches and the trips of the alarm's sources (rules R405, R406, R454). -/

/-- The words of a trip's record at `a` (rule R405). -/
def State.alarmRecord (s : State) (a : Nat) (w : Word) (tc : Tc) : State :=
  let s := s.setReg a w
  let s := s.setReg (a + 4) s.stamp
  let s := s.setReg (a + 8) (w32 tc.sec.toNat)
  s.setReg (a + 12) (w32 (tc.sec.toNat / 2 ^ 32))

/-- One more of the alarm's events since boot, up to the sixteen of its record. -/
def State.alarmEvent (s : State) : State := { s with sec := { s.sec with nEvt := Nat.min 16 (s.sec.nEvt + 1) } }

/-- A trip of source `i` is counted and enters the alarm's record (rules R405, R406). -/
def State.alarmNoted (s : State) (i : Nat) : State :=
  let cfg := s.reg (0x4100 + 4 * i)
  let s := s.bump (0x4120 + 4 * i) 1
  let head := s.rf 0x4140 0 4
  let s := s.alarmRecord (0x4200 + 16 * head) (w32 (i + fld cfg 0 2 * 16 + (bit cfg 2).toNat * 64)) (s.tc 0)
  (s.setReg 0x4140 (w32 ((head + 1) % 16))).alarmEvent.intRaise .alarm 0

/-- The severity of a trip acts: LOCKDOWN from 1 on, and DRAIN at 2 (rule R406). -/
def State.alarmSev (s : State) (sev : Nat) : State :=
  let s := if 1 ≤ sev then s.setRf 0x411C 0 1 1 else s
  if sev = 2 then (s.eraseKeys.setRf 0x411C 2 1 1).intRaise .alarm 2 else s

theorem State.alarmTrip_eq (s : State) (i : Nat) : s.alarmTrip i =
    if bit (s.reg (0x4100 + 4 * i)) 2 = true ∨ fld (s.reg (0x4100 + 4 * i)) 0 2 = 2 then
      ((s.alarmNoted i).alarmSev (fld (s.reg (0x4100 + 4 * i)) 0 2)).raiseStop
    else (s.alarmNoted i).alarmSev (fld (s.reg (0x4100 + 4 * i)) 0 2) := by
  unfold State.alarmTrip State.alarmSev State.alarmNoted State.alarmEvent State.alarmRecord
  rfl

theorem State.alarmRecord_reg (s : State) {a b : Nat} (w : Word) (tc : Tc) (h : b < a) : (s.alarmRecord a w tc).reg b = s.reg b := by
  unfold State.alarmRecord
  simp (disch := omega) only [State.reg_setReg_ne]

@[simp] theorem State.reg_alarmEvent (s : State) (a : Nat) : s.alarmEvent.reg a = s.reg a := rfl

/-- A register below the record that is neither HEAD nor INT_RAW. -/
theorem State.alarmNoted_reg (s : State) (i : Nat) {b : Nat} (h : b < 0x4200) (h' : b ≠ 0x4140) (hraw : b % 4096 ≠ 0x14) :
    (s.alarmNoted i).reg b = (s.bump (0x4120 + 4 * i) 1).reg b := by
  unfold State.alarmNoted
  rw [State.reg_intRaise_off _ _ _ hraw, State.reg_alarmEvent, State.reg_setReg_ne _ _ h', State.alarmRecord_reg _ _ _ (by omega)]

theorem State.alarmNoted_count (s : State) {i : Nat} (hi : i < 6) :
    (s.alarmNoted i).reg (0x4120 + 4 * i) = satInc (s.reg (0x4120 + 4 * i)) 1 := by
  rw [State.alarmNoted_reg s i (by omega) (by omega) (by omega), State.bump, State.reg_setReg_self]

/-- Such a register that is no counter of the source either keeps its value. -/
theorem State.alarmNoted_reg_other (s : State) (i : Nat) {b : Nat} (h : b < 0x4200) (h' : b ≠ 0x4140) (hraw : b % 4096 ≠ 0x14)
    (hcount : b ≠ 0x4120 + 4 * i) : (s.alarmNoted i).reg b = s.reg b := by
  rw [State.alarmNoted_reg s i h h' hraw, State.bump, State.reg_setReg_ne _ _ hcount]

theorem State.alarmNoted_stat (s : State) (i : Nat) : (s.alarmNoted i).reg 0x411C = s.reg 0x411C :=
  s.alarmNoted_reg_other i (by decide) (by decide) (by decide) (by omega)

theorem State.alarmRecord_regsBut (s : State) (a : Nat) (w : Word) (tc : Tc) : RegsBut (fun _ => True) s (s.alarmRecord a w tc) :=
  (((RegsBut.refl.setReg trivial _).setReg trivial _).setReg trivial _).setReg trivial _

theorem State.alarmEvent_keeps (t : State) :
    (t.alarmEvent.intRaise .alarm 0).stopLine = t.stopLine ∧ (t.alarmEvent.intRaise .alarm 0).sec.cmdKey = t.sec.cmdKey := ⟨rfl, rfl⟩

theorem State.alarmNoted_keeps (s : State) (i : Nat) :
    (s.alarmNoted i).stopLine = s.stopLine ∧ (s.alarmNoted i).sec.cmdKey = s.sec.cmdKey := by
  have hcount : RegsBut (fun _ => True) s (s.bump (0x4120 + 4 * i) 1) := RegsBut.refl.bump trivial _
  unfold State.alarmNoted
  generalize s.bump (0x4120 + 4 * i) 1 = u at hcount ⊢
  have h := hcount.trans (u.alarmRecord_regsBut (0x4200 + 16 * u.rf 0x4140 0 4)
    (w32 (i + fld (s.reg (0x4100 + 4 * i)) 0 2 * 16 + (bit (s.reg (0x4100 + 4 * i)) 2).toNat * 64)) (u.tc 0))
  have hhead := h.setReg (a := 0x4140) trivial (w32 ((u.rf 0x4140 0 4 + 1) % 16))
  obtain ⟨hstop, hkey⟩ := State.alarmEvent_keeps (State.setReg _ 0x4140 (w32 ((u.rf 0x4140 0 4 + 1) % 16)))
  exact ⟨hstop.trans (by rw [hhead.1]), hkey.trans (by rw [hhead.1])⟩

/-- The drain of a trip of severity 2 (rule R406). -/
theorem State.alarmSev_drain (s : State) :
    s.alarmSev 2 = (((s.setRf 0x411C 0 1 1).eraseKeys.setRf 0x411C 2 1 1).intRaise .alarm 2) := rfl

theorem State.alarmSev_of_ne {s : State} {sev : Nat} (h : sev ≠ 2) : s.alarmSev sev = if 1 ≤ sev then s.setRf 0x411C 0 1 1 else s := by
  rw [State.alarmSev, if_neg h]

theorem State.alarmSev_regsBut_reg (s : State) (sev : Nat) {a : Nat} (h : a ≠ 0x411C) (h' : a % 4096 ≠ 0x14) : (s.alarmSev sev).reg a = s.reg a := by
  by_cases hs : sev = 2
  · subst hs
    rw [State.alarmSev_drain, State.reg_intRaise_off _ _ _ h']
    simp only [State.setRf, State.reg_setReg_ne _ _ h]
    show ((s.setRf 0x411C 0 1 1).setRf 0x411C 1 1 0).reg a = _
    simp only [State.setRf, State.reg_setReg_ne _ _ h]
  · rw [State.alarmSev_of_ne hs]
    split
    · exact State.reg_setReg_ne _ _ h
    · rfl

theorem State.alarmSev_lockdown (s : State) {sev : Nat} (h : 1 ≤ sev) : (s.alarmSev sev).lockdown = true := by
  have hset : ∀ w : Word, bit (setFld w 0 1 1) 0 = true := fun w => by rw [bit_setFld w 0 1 1 0 (by decide)]; rfl
  by_cases hs : sev = 2
  · subst hs
    rw [State.alarmSev_drain, State.lockdown, State.reg_intRaise_off _ _ _ (by decide), State.reg_setRf_self]
    show bit (setFld (((s.setRf 0x411C 0 1 1).setRf 0x411C 1 1 0).reg 0x411C) 2 1 1) 0 = true
    simp only [State.reg_setRf_self]
    rw [bit_setFld _ 2 1 1 0 (by decide), if_neg (by decide), bit_setFld _ 1 1 0 0 (by decide), if_neg (by decide), hset]
  · rw [State.alarmSev_of_ne hs, if_pos h]
    show bit ((s.setRf 0x411C 0 1 1).reg 0x411C) 0 = true
    rw [State.reg_setRf_self, hset]

theorem State.alarmSev_stopLine (s : State) (sev : Nat) : (s.alarmSev sev).stopLine = s.stopLine := by
  by_cases hs : sev = 2
  · subst hs; rfl
  · rw [State.alarmSev_of_ne hs]
    split <;> rfl

theorem State.alarmSev_cmdKey (s : State) {sev : Nat} (hs : sev ≠ 2) : (s.alarmSev sev).sec.cmdKey = s.sec.cmdKey := by
  rw [State.alarmSev_of_ne hs]
  split <;> rfl

theorem State.raiseStop_reg (s : State) (a : Nat) : s.raiseStop.reg a = s.reg a := by
  unfold State.raiseStop; split <;> rfl

theorem State.raiseStop_sec (s : State) : s.raiseStop.sec = s.sec := by
  unfold State.raiseStop; split <;> rfl

@[simp] theorem State.raiseStop_stopLine (s : State) : s.raiseStop.stopLine = true := by
  unfold State.raiseStop
  split
  · assumption
  · rfl

/-- A trip but for its stop line. -/
theorem State.alarmTrip_keeps {β : Type} (g : State → β) (h : ∀ t : State, g t.raiseStop = g t) (s : State) (i : Nat) :
    g (s.alarmTrip i) = g ((s.alarmNoted i).alarmSev (s.rf (0x4100 + 4 * i) 0 2)) := by
  rw [State.alarmTrip_eq]
  split
  · exact h _
  · rfl

/-- Settles O55: a trip is its record, then the acts of its severity, then the stop line. -/
theorem glitches : Obligations.Glitches := by
  intro s r crcBad saveBad hup
  have hheld : s.power.held = false := hup
  have hexec : exec (.vglitch r crcBad saveBad) s = .next (s.vglitch r crcBad saveBad).done := by
    show (s.act fun s => s.vglitch r crcBad saveBad) = _
    rw [State.act_up hup]
  refine ⟨⟨fun hoff => ?_, fun hon => ?_⟩, ?_, fun i hi => ?_⟩
  · rw [hexec]
    unfold State.vglitch
    cases r <;> simp_all
  · intro u
    rw [hexec]
    unfold State.vglitch
    cases r <;> simp_all [u]
  · show s.act State.tglitch = _
    rw [State.act_up hup, State.tglitch, hheld]
    rfl
  · intro u sev
    have hreg {a : Nat} : u.reg a = ((s.alarmNoted i).alarmSev sev).reg a := State.alarmTrip_keeps (State.reg · a) (State.raiseStop_reg · a) s i
    have hsec : u.sec = ((s.alarmNoted i).alarmSev sev).sec := State.alarmTrip_keeps State.sec State.raiseStop_sec s i
    have hlock : u.lockdown = ((s.alarmNoted i).alarmSev sev).lockdown := by simp only [State.lockdown, hreg]
    refine ⟨?_, fun h => ?_, fun h => ?_, fun h => ?_, fun h => ?_, ?_⟩
    · rw [hreg, State.alarmSev_regsBut_reg _ _ (by omega) (by omega), State.alarmNoted_count s hi]
    · rw [hlock, State.alarmSev_lockdown _ h]
    · rw [hlock, h, State.alarmSev_of_ne (by decide), if_neg (by decide), State.lockdown, State.alarmNoted_stat s i, State.lockdown]
    · rw [hsec, h]
      exact ⟨rfl, rfl, rfl⟩
    · rw [hsec, State.alarmSev_cmdKey _ h, (s.alarmNoted_keeps i).2]
    · show (s.alarmTrip i).stopLine = _
      have hstop : ((s.alarmNoted i).alarmSev sev).stopLine = s.stopLine := by rw [State.alarmSev_stopLine, (s.alarmNoted_keeps i).1]
      rw [State.alarmTrip_eq]
      split
      case isTrue h =>
        rw [State.raiseStop_stopLine]
        rcases h with h | h
        · simp [h]
        · simp [sev, State.rf, h]
      case isFalse h =>
        obtain ⟨hbit, hsev⟩ := not_or.mp h
        rw [show bit (s.reg (0x4100 + 4 * i)) 2 = false by simpa using hbit]
        simpa [sev, State.rf, show (fld (s.reg (0x4100 + 4 * i)) 0 2 == 2) = false by simpa using hsev] using hstop

end Sys2Proof.Machine
end

section

namespace Sys2Proof.Machine

/-! The commands of the SDIO bus (rules R371, R372). -/

section
variable {s : State} (hup : Up s) (ok : Bool)
include hup

theorem exec_cmd0 : exec (.cmd0 ok) s = .next (s.cmdTake ok State.cmd0).done := by
  show (s.act fun s => s.cmdTake ok State.cmd0) = _
  rw [State.act_up hup]

theorem exec_cmd3 : exec (.cmd3 ok) s = .next (s.cmdTake ok State.cmd3).done := by
  show (s.act fun s => s.cmdTake ok State.cmd3) = _
  rw [State.act_up hup]

theorem exec_cmd5 (ocr : Word) : exec (.cmd5 ocr ok) s = .next (s.cmdTake ok fun s => s.cmd5 ocr).done := by
  show (s.act fun s => s.cmdTake ok fun s => s.cmd5 ocr) = _
  rw [State.act_up hup]

theorem exec_cmd7 (rca : BitVec 16) : exec (.cmd7 rca ok) s = .next (s.cmdTake ok fun s => s.cmd7 rca).done := by
  show (s.act fun s => s.cmdTake ok fun s => s.cmd7 rca) = _
  rw [State.act_up hup]

theorem exec_cmd11 : exec (.cmd11 ok) s = .next (s.cmdTake ok State.cmd11).done := by
  show (s.act fun s => s.cmdTake ok State.cmd11) = _
  rw [State.act_up hup]

theorem exec_cmd15 (rca : BitVec 16) : exec (.cmd15 rca ok) s = .next (s.cmdTake ok fun s => s.cmd15 rca).done := by
  show (s.act fun s => s.cmdTake ok fun s => s.cmd15 rca) = _
  rw [State.act_up hup]

theorem exec_cmd19 : exec (.cmd19 ok) s = .next (s.cmdTake ok State.cmd19).done := by
  show (s.act fun s => s.cmdTake ok State.cmd19) = _
  rw [State.act_up hup]

end

theorem State.cmdTake_ok (s : State) (run : State → State) : s.cmdTake true run = run s := by
  rw [State.cmdTake, if_neg (by simp)]

theorem State.cmdTake_crc {s : State} (run : State → State) (h : s.cardOn = true) :
    s.cmdTake false run = (s.bump 0x80104 1).answer none [] := by
  rw [State.cmdTake, if_pos (by simp [h])]
  rfl

theorem State.cmdTake_off {s : State} (ok : Bool) (run : State → State) (h : s.cardOn = false) : s.cmdTake ok run = run s := by
  rw [State.cmdTake, if_neg (by simp [h])]

theorem State.cardOn_iff (s : State) : s.cardOn = true ↔ 1 < s.domain 1 ∧ s.sdio.dead = false := by
  simp [State.cardOn]

section
variable {s : State}

/-- A card that is not on answers no command of the bus. -/
theorem State.busCommands_off (h : s.cardOn = false) (ocr : Word) (rca : BitVec 16) :
    s.cmd0 = s ∧ s.cmd3 = s.answer none [] ∧ s.cmd5 ocr = s.answer none [] ∧ s.cmd7 rca = s.answer none [] ∧
    s.cmd11 = s.answer none [] ∧ s.cmd15 rca = s.answer none [] ∧ s.cmd19 = s.answer none [] := by
  have hdead : s.sdio.dead = true ∨ s.domain 1 < 2 := by
    by_cases hd : s.sdio.dead = true
    · exact Or.inl hd
    · have hon : ¬ (1 < s.domain 1 ∧ s.sdio.dead = false) := fun hc => absurd (s.cardOn_iff.mpr hc) (by simp [h])
      have hdead : s.sdio.dead = false := by simpa using hd
      exact Or.inr (Classical.byContradiction fun hdom => hon ⟨by omega, hdead⟩)
  refine ⟨by rw [State.cmd0, if_pos hdead], ?_, ?_, ?_, ?_, ?_, ?_⟩
  · rw [State.cmd3, if_pos (by simp [h])]
  · rw [State.cmd5, if_pos (by simp [h])]
  · rw [State.cmd7, if_pos (by simp [h])]
  · rw [State.cmd11, if_pos (by simp [h])]
  · rw [State.cmd15, if_pos (by simp [h])]
  · rw [State.cmd19, if_pos (by simp [h])]

theorem State.cmd3_idle (hr : s.sdio.ready = false) : s.cmd3 = s.answer none [] := by
  rw [State.cmd3, if_pos (by simp [hr])]

section
variable (h : s.cardOn = true)
include h

theorem State.cmd0_on : s.cmd0 =
    { s with sdio := { s.sdio with ready := false, rca := 0, sel := false, rsp := none, rdata := [], blockCrc := [] } } := by
  obtain ⟨hdom, hdead⟩ := s.cardOn_iff.mp h
  rw [State.cmd0, if_neg (by simp [hdead]; omega)]

/-- The address that CMD3 publishes is not 0. -/
theorem State.cmd3_publishes (hr : s.sdio.ready = true) : ∃ a, a ≠ 0 ∧ a < 2 ^ 16 ∧
    s.cmd3 = State.answer { s with sdio := { s.sdio with rca := BitVec.ofNat 16 a }, freeCtr := s.freeCtr + 1 } (some (beBytes 2 a ++ [0, 0])) [] := by
  have hw : fld s.drawMask.1 0 16 < 2 ^ 16 := fld_lt ..
  refine ⟨if fld s.drawMask.1 0 16 = 0 then 1 else fld s.drawMask.1 0 16, ?_, ?_, ?_⟩
  · split <;> omega
  · split <;> omega
  · rw [State.cmd3, if_neg (by simp [h, hr])]
    by_cases h0 : fld s.drawMask.1 0 16 = 0
    · simp only [h0, if_true]
      rfl
    · simp only [h0, if_false, BitVec.toNat_ofNat, Nat.mod_eq_of_lt hw]
      rfl

theorem State.cmd5_foreign (ocr : Word) (hne : fld ocr 0 24 ≠ 0) (hw : fld ocr 0 24 &&& 0xFF8000 = 0) : s.cmd5 ocr = s.answer none [] := by
  rw [State.cmd5, if_neg (by simp [h])]
  simp [hne, hw]

theorem State.cmd5_shared (ocr : Word) (hw : fld ocr 0 24 = 0 ∨ fld ocr 0 24 &&& 0xFF8000 ≠ 0) : s.cmd5 ocr =
    State.answer { s with sdio := { s.sdio with ready := s.sdio.ready || decide (fld ocr 0 24 ≠ 0) } }
      (some (beBytes 4 (0x20FF8000 + (bit ocr 24).toNat * 2 ^ 24 + (s.sdio.ready || decide (fld ocr 0 24 ≠ 0)).toNat * 2 ^ 31))) [] := by
  have hnot : ¬ (fld ocr 0 24 ≠ 0 ∧ (!decide (fld ocr 0 24 &&& 0xFF8000 ≠ 0)) = true) := by
    rintro ⟨hne, hz⟩
    rcases hw with hw | hw
    · exact hne hw
    · simp [hw] at hz
  have hsum : ∀ x y : Nat, 0xFF8000 + x + 2 * 2 ^ 28 + y = 0x20FF8000 + x + y := by omega
  rw [State.cmd5, if_neg (by simp [h])]
  simp only [hnot, if_false, hsum]

theorem State.cmd7_addressed {rca : BitVec 16} (heq : rca = s.sdio.rca) (hne : rca ≠ 0) :
    s.cmd7 rca = State.answer { s with sdio := { s.sdio with sel := true } } (some [0, 0, 0, 0]) [] := by
  rw [State.cmd7, if_neg (by simp [h]), if_pos ⟨heq ▸ hne, heq⟩]

theorem State.cmd7_other {rca : BitVec 16} (hne : rca ≠ s.sdio.rca ∨ rca = 0) :
    s.cmd7 rca = State.answer { s with sdio := { s.sdio with sel := false } } none [] := by
  rw [State.cmd7, if_neg (by simp [h]), if_neg]
  rintro ⟨hz, heq⟩
  rcases hne with hne | hne
  · exact hne heq
  · exact hz (heq ▸ hne)

end
end

/-- Settles O46: each bus command by whether the card is on, its CRC and its own condition. -/
theorem busCommands : Obligations.BusCommands := by
  intro s ocr rca hup
  refine ⟨fun hoff ok => ?_, fun hon => ⟨?_, ?_, fun hr => ?_, fun hr => ?_, ⟨fun hne hw => ?_, fun hw => ?_⟩, fun heq hne => ?_, fun hne => ?_, ?_,
    fun heq => ?_, fun hne => ?_, fun hs => ?_, fun hs hs' => ?_⟩⟩
  · obtain ⟨h0, h3, h5, h7, h11, h15, h19⟩ := State.busCommands_off hoff ocr rca
    refine ⟨?_, ?_, ?_, ?_, ?_, ?_, ?_⟩
    · rw [exec_cmd0 hup, State.cmdTake_off _ _ hoff, h0]
    · rw [exec_cmd3 hup, State.cmdTake_off _ _ hoff, h3]
    · rw [exec_cmd5 hup, State.cmdTake_off _ _ hoff, h5]
    · rw [exec_cmd7 hup, State.cmdTake_off _ _ hoff, h7]
    · rw [exec_cmd11 hup, State.cmdTake_off _ _ hoff, h11]
    · rw [exec_cmd15 hup, State.cmdTake_off _ _ hoff, h15]
    · rw [exec_cmd19 hup, State.cmdTake_off _ _ hoff, h19]
  · rintro c (rfl | rfl | rfl | rfl | rfl | rfl | rfl)
    · rw [exec_cmd0 hup, State.cmdTake_crc _ hon]
    · rw [exec_cmd3 hup, State.cmdTake_crc _ hon]
    · rw [exec_cmd5 hup, State.cmdTake_crc _ hon]
    · rw [exec_cmd7 hup, State.cmdTake_crc _ hon]
    · rw [exec_cmd11 hup, State.cmdTake_crc _ hon]
    · rw [exec_cmd15 hup, State.cmdTake_crc _ hon]
    · rw [exec_cmd19 hup, State.cmdTake_crc _ hon]
  · rw [exec_cmd0 hup, State.cmdTake_ok, State.cmd0_on hon]
  · rw [exec_cmd3 hup, State.cmdTake_ok, State.cmd3_idle hr]
  · obtain ⟨a, hne, hlt, h3⟩ := State.cmd3_publishes hon hr
    exact ⟨a, _, hne, hlt, by rw [exec_cmd3 hup, State.cmdTake_ok, h3], rfl⟩
  · rw [exec_cmd5 hup, State.cmdTake_ok, State.cmd5_foreign hon ocr hne hw]
  · intro ready
    rw [exec_cmd5 hup, State.cmdTake_ok, State.cmd5_shared hon ocr hw]
  · rw [exec_cmd7 hup, State.cmdTake_ok, State.cmd7_addressed hon heq hne]
  · rw [exec_cmd7 hup, State.cmdTake_ok, State.cmd7_other hon hne]
  · rw [exec_cmd11 hup, State.cmdTake_ok, State.cmd11, if_neg (by simp [hon])]
  · rw [exec_cmd15 hup, State.cmdTake_ok, State.cmd15, if_neg (by simp [hon, heq])]
  · rw [exec_cmd15 hup, State.cmdTake_ok, State.cmd15, if_pos (Or.inr hne)]
  · rw [exec_cmd19 hup, State.cmdTake_ok, State.cmd19, if_neg (by rcases hs with hs | hs <;> simp [hon, hs])]
  · rw [exec_cmd19 hup, State.cmdTake_ok, State.cmd19, if_pos (Or.inr ⟨hs, hs'⟩)]

end Sys2Proof.Machine
end

section

namespace Sys2Proof.Machine

/-! Runs of bytes in a memory: what a store leaves at each address. -/

theorem Cells.get_append_left {α : Type} {d : α} {l r : Cells α} {a : Nat} (h : Cells.get d r a = d) : Cells.get d (l ++ r) a = Cells.get d l a := by
  rw [Cells.get_append]
  split
  · rfl
  case isFalse habs =>
    have habsent : ∀ p ∈ l, p.1 ≠ a := fun p hp heq => habs (List.any_eq_true.mpr ⟨p, hp, by simp [heq]⟩)
    rw [h, Cells.get_of_absent d l a habsent]

theorem Cells.get_append_right {α : Type} {d : α} {l r : Cells α} {a : Nat} (h : ∀ p ∈ l, p.1 ≠ a) : Cells.get d (l ++ r) a = Cells.get d r a := by
  rw [Cells.get_append, if_neg]
  intro hany
  obtain ⟨p, hp, heq⟩ := List.any_eq_true.mp hany
  exact h p hp (by simpa using heq)

theorem Cells.get_run {α : Type} [DecidableEq α] (d : α) (vs : List α) (a b : Nat) :
    Cells.get d (Cells.run d a vs) b = if a ≤ b ∧ b < a + vs.length then vs.getD (b - a) d else d := by
  induction vs generalizing a with
  | nil => simp [Cells.run, Cells.get]
  | cons v vs ih =>
    have hrest : b ≠ a → (if a + 1 ≤ b ∧ b < a + 1 + vs.length then vs.getD (b - (a + 1)) d else d) =
        if a ≤ b ∧ b < a + (v :: vs).length then (v :: vs).getD (b - a) d else d := by
      intro hne
      by_cases h : a + 1 ≤ b ∧ b < a + 1 + vs.length
      · obtain ⟨hlo, hhi⟩ := h
        rw [if_pos ⟨hlo, hhi⟩, if_pos ⟨by omega, by simp only [List.length_cons]; omega⟩, show b - a = b - (a + 1) + 1 by omega,
          List.getD_cons_succ]
      · rw [if_neg h, if_neg (by simp only [List.length_cons]; omega)]
    have hfirst : (if a ≤ a ∧ a < a + (v :: vs).length then (v :: vs).getD (a - a) d else d) = v := by
      rw [if_pos (by simp), Nat.sub_self, List.getD_cons_zero]
    unfold Cells.run
    by_cases hv : v = d <;> by_cases hb : b = a
    · rw [if_pos hv, ih, hb, hfirst, if_neg (by omega), hv]
    · rw [if_pos hv, ih, hrest hb]
    · rw [if_neg hv, hb, hfirst, Cells.get, if_pos rfl]
    · rw [if_neg hv, Cells.get, if_neg (fun h => hb h.symm), ih, hrest hb]

theorem Cells.get_putRun {α : Type} [DecidableEq α] (d : α) (m : Cells α) (a b : Nat) (vs : List α) :
    Cells.get d (Cells.putRun d m a vs) b = if a ≤ b ∧ b < a + vs.length then vs.getD (b - a) d else Cells.get d m b := by
  have hlo := Cells.get_filter d m (fun k => decide (k < a)) b
  have hhi := Cells.get_filter d m (fun k => decide (a + vs.length ≤ k)) b
  unfold Cells.putRun
  by_cases hbelow : b < a
  · rw [Cells.get_append_left (by rw [hhi, if_neg (by simp; omega)]),
      Cells.get_append_left (by rw [Cells.get_run, if_neg (by omega)]), hlo, if_pos (by simp; omega), if_neg (by omega)]
  · by_cases habove : a + vs.length ≤ b
    · have habsent : ∀ p ∈ m.filter (fun p => p.1 < a) ++ Cells.run d a vs, p.1 ≠ b := by
        intro p hp
        rcases List.mem_append.mp hp with hp | hp
        · have := (List.mem_filter.mp hp).2
          simp at this
          omega
        · obtain ⟨-, hlt, -⟩ := Cells.run_keys d vs a p hp
          omega
      rw [Cells.get_append_right habsent, hhi, if_pos (by simp; omega), if_neg (by omega)]
    · have habsent : ∀ p ∈ m.filter (fun p => p.1 < a), p.1 ≠ b := by
        intro p hp
        have := (List.mem_filter.mp hp).2
        simp at this
        omega
      rw [Cells.get_append_left (by rw [hhi, if_neg (by simp; omega)]), Cells.get_append_right habsent, Cells.get_run]
      simp only [show a ≤ b ∧ b < a + vs.length by omega, and_self, if_true]

theorem Cells.getRun_eq {α : Type} (d : α) (m : Cells α) (a n : Nat) : Cells.getRun d m a n = (List.range n).map fun i => Cells.get d m (a + i) := by
  unfold Cells.getRun
  refine List.map_congr_left fun i hi => ?_
  have hwin := Cells.get_filter d m (fun k => decide (a ≤ k) && decide (k < a + n)) (a + i)
  rw [hwin, if_pos]
  have := List.mem_range.mp hi
  simp
  omega

theorem Mem.byte_store (m : Mem) (a b : Nat) (bs : List Byte) :
    (m.store a bs).byte b = if a ≤ b ∧ b < a + bs.length then bs.getD (b - a) 0 else m.byte b := Cells.get_putRun 0 m a b bs

theorem Mem.bytes_eq (m : Mem) (a n : Nat) : m.bytes a n = (List.range n).map fun i => m.byte (a + i) := Cells.getRun_eq 0 m a n

@[simp] theorem Mem.length_bytes (m : Mem) (a n : Nat) : (m.bytes a n).length = n := by simp [Mem.bytes_eq]

theorem Mem.getElem?_bytes (m : Mem) (a : Nat) {n i : Nat} (h : i < n) : (m.bytes a n)[i]? = some (m.byte (a + i)) := by
  simp [Mem.bytes_eq, h]

/-- Two reads of as many bytes agree where the bytes do. -/
theorem Mem.bytes_congr {m m' : Mem} {a n : Nat} (h : ∀ i, i < n → m.byte (a + i) = m'.byte (a + i)) : m.bytes a n = m'.bytes a n := by
  rw [Mem.bytes_eq, Mem.bytes_eq]
  exact List.map_congr_left fun i hi => h i (List.mem_range.mp hi)

theorem Mem.bytes_store_self (m : Mem) (a : Nat) (bs : List Byte) : (m.store a bs).bytes a bs.length = bs := by
  refine List.ext_getElem? fun i => ?_
  by_cases hi : i < bs.length
  · rw [Mem.getElem?_bytes _ _ hi, Mem.byte_store, if_pos (by omega), Nat.add_sub_cancel_left, List.getD_eq_getElem?_getD,
      List.getElem?_eq_getElem hi]
    rfl
  · rw [List.getElem?_eq_none (by simpa using hi), List.getElem?_eq_none (by simpa using hi)]

/-- Part of what was stored. -/
theorem Mem.bytes_store_part (m : Mem) (a k n : Nat) {bs : List Byte} (h : k + n ≤ bs.length) :
    (m.store a bs).bytes (a + k) n = (bs.drop k).take n := by
  refine List.ext_getElem? fun i => ?_
  by_cases hi : i < n
  · rw [Mem.getElem?_bytes _ _ hi, Mem.byte_store, if_pos (by omega), show a + k + i - a = k + i by omega, List.getElem?_take_of_lt hi,
      List.getElem?_drop, List.getD_eq_getElem?_getD, List.getElem?_eq_getElem (by omega)]
    rfl
  · rw [List.getElem?_eq_none (by simpa using hi), List.getElem?_eq_none (by simp; omega)]

/-! A result tile stored in a cistern without words in error (rule R156). -/

theorem State.badWords_clean {s : State} (h : s.sramBad = []) (u ofs n : Nat) : s.badWords u ofs n = [] := by
  simp [State.badWords, h]

theorem State.sramSet_clean {s : State} (h : s.sramBad = []) (u ofs : Nat) (bs : List Byte) (c : Option Nat) :
    (s.sramSet u ofs bs c).1 = cOK ∧ ∃ l, (∀ r ∈ l, r ∈ s.rowLost) ∧
      (s.sramSet u ofs bs c).2 = { s with sram := s.sram.store (2 ^ 24 * u + ofs) bs, rowLost := l } := by
  have hbad : ∀ f, s.sramBad.filter f = s.sramBad := fun f => by rw [h]; rfl
  simp only [State.sramSet, State.badWords_clean h, List.filter_nil, State.readWords, List.foldl_nil, Bool.false_eq_true, if_false, true_and, hbad]
  exact ⟨_, fun r hr => (List.mem_filter.mp hr).1, rfl⟩

/-- Only residency tags go where a range is written (rule R160). -/
theorem State.dropTagsAt_eq (s : State) (u ofs n : Nat) :
    ∃ l, (∀ t ∈ l, t ∈ s.head.tags) ∧ s.dropTagsAt u ofs n = { s with head := { s.head with tags := l } } := by
  unfold State.dropTagsAt
  split
  · exact ⟨_, fun t ht => (List.mem_filter.mp ht).1, rfl⟩
  · exact ⟨s.head.tags, fun t ht => ht, rfl⟩

/-- Nothing but the memory, residency tags and lost-row marks changed, and of these two some may have gone. -/
def StoredOnly (s t : State) : Prop :=
  t = { s with sram := t.sram, rowLost := t.rowLost, head := { s.head with tags := t.head.tags } } ∧
  (∀ x ∈ t.head.tags, x ∈ s.head.tags) ∧ ∀ r ∈ t.rowLost, r ∈ s.rowLost

theorem StoredOnly.trans {s t u : State} (h : StoredOnly s t) (h' : StoredOnly t u) : StoredOnly s u := by
  obtain ⟨heq, htags, hlost⟩ := h
  obtain ⟨heq', htags', hlost'⟩ := h'
  refine ⟨?_, fun x hx => htags x (htags' x hx), fun r hr => hlost r (hlost' r hr)⟩
  rw [heq', heq]

/-- One row stored. -/
theorem State.putRow_clean {s : State} (h : s.sramBad = []) (c u ofs : Nat) (bs : List Byte) :
    ((s.dropTagsAt u ofs bs.length).sramSet u ofs bs (some c)).1 = cOK ∧
    ((s.dropTagsAt u ofs bs.length).sramSet u ofs bs (some c)).2.sram = s.sram.store (2 ^ 24 * u + ofs) bs ∧
    ((s.dropTagsAt u ofs bs.length).sramSet u ofs bs (some c)).2.sramBad = [] ∧
    StoredOnly s ((s.dropTagsAt u ofs bs.length).sramSet u ofs bs (some c)).2 := by
  obtain ⟨tags, htags, hdrop⟩ := s.dropTagsAt_eq u ofs bs.length
  rw [hdrop]
  obtain ⟨hcode, lost, hlost, hset⟩ := State.sramSet_clean (s := { s with head := { s.head with tags := tags } }) h u ofs bs (some c)
  rw [hset]
  exact ⟨hcode, rfl, h, rfl, htags, hlost⟩

/-- The rows of a tile in the memory: each at its pitch, and the bytes between and around them as before. -/
theorem State.putRows_clean (c u pitch : Nat) (rows : List (List Byte)) (hpitch : ∀ bs ∈ rows, bs.length ≤ pitch) (s : State) (ofs : Nat)
    (h : s.sramBad = []) :
    (s.putRows c u ofs pitch rows).1 = cOK ∧
    (∀ i j, i < rows.length → j < (rows.getD i []).length →
      (s.putRows c u ofs pitch rows).2.sram.byte (2 ^ 24 * u + ofs + i * pitch + j) = (rows.getD i []).getD j 0) ∧
    (∀ a, (∀ i, i < rows.length → a < 2 ^ 24 * u + ofs + i * pitch ∨ 2 ^ 24 * u + ofs + i * pitch + (rows.getD i []).length ≤ a) →
      (s.putRows c u ofs pitch rows).2.sram.byte a = s.sram.byte a) ∧
    StoredOnly s (s.putRows c u ofs pitch rows).2 := by
  induction rows generalizing s ofs with
  | nil => exact ⟨rfl, fun i j hi => absurd hi (by simp), fun a _ => rfl, rfl, fun _ ht => ht, fun _ hr => hr⟩
  | cons bs rest ih =>
    obtain ⟨hcode, hsram, hbad, honly⟩ := State.putRow_clean h c u ofs bs
    unfold State.putRows
    generalize (s.dropTagsAt u ofs bs.length).sramSet u ofs bs (some c) = q at *
    obtain ⟨icode, iin, iout, ionly⟩ := ih (fun b hb => hpitch b (List.mem_cons_of_mem _ hb)) q.2 (ofs + pitch) hbad
    have hrow : ∀ i, 2 ^ 24 * u + (ofs + pitch) + i * pitch = 2 ^ 24 * u + ofs + (i + 1) * pitch := fun i => by
      rw [Nat.add_mul, Nat.one_mul]; omega
    have hbs : bs.length ≤ pitch := hpitch bs (List.mem_cons_self ..)
    refine ⟨by simp [hcode, icode], fun i j hi hj => ?_, fun a ha => ?_, honly.trans ionly⟩
    · cases i with
      | zero =>
        simp only [List.getD_cons_zero] at hj
        show (q.2.putRows c u (ofs + pitch) pitch rest).2.sram.byte _ = _
        rw [iout, hsram, Mem.byte_store, if_pos (by omega), List.getD_cons_zero]
        · congr 1; omega
        · intro i _
          rw [hrow]
          have : pitch ≤ (i + 1) * pitch := Nat.le_mul_of_pos_left _ (by omega)
          omega
      | succ i =>
        simp only [List.getD_cons_succ] at hj ⊢
        rw [← hrow]
        exact iin i j (by simpa using hi) hj
    · show (q.2.putRows c u (ofs + pitch) pitch rest).2.sram.byte a = _
      have h0 := ha 0 (by simp)
      rw [Nat.zero_mul, List.getD_cons_zero] at h0
      rw [iout, hsram, Mem.byte_store, if_neg (by omega)]
      intro i hi
      rw [hrow]
      simpa using ha (i + 1) (by simpa using hi)

/-- Settles O27: a store by its run of cells, and a tile by induction on its rows. -/
theorem memoryWrites : Obligations.MemoryWrites := by
  refine ⟨fun m a b n bs => ⟨m.byte_store a b bs, m.bytes_eq a n, m.bytes_store_self a bs⟩, fun s c u ofs pitch rows hclean hpitch => ?_⟩
  obtain ⟨hcode, hin, hout, honly, htags, hlost⟩ := State.putRows_clean c u pitch rows hpitch s ofs hclean
  exact ⟨hcode, hin, hout, honly, htags, hlost⟩

end Sys2Proof.Machine
end

section

namespace Sys2Proof.Machine

/-! CMD52, the register window and CMD53 (rules R371–R383, R388–R395). -/

theorem State.fnError_absent (s : State) {fn : Nat} (h : 2 < fn) : s.fnError fn = some 2 := by
  rw [State.fnError, if_pos h]
  rfl

theorem State.fnError_notReady {s : State} {fn : Nat} (h : fn ≤ 2) (hr : s.fnReady fn = false) : s.fnError fn = some 1 := by
  rw [State.fnError, if_neg (by omega), if_neg (by simp [hr])]
  rfl

theorem State.fnError_ready {s : State} {fn : Nat} (h : fn ≤ 2) (hr : s.fnReady fn = true) : s.fnError fn = none := by
  rw [State.fnError, if_neg (by omega), if_pos hr]

theorem State.fnError_zero (s : State) : s.fnError 0 = none := State.fnError_ready (by decide) rfl

section
variable {s : State}

theorem State.cmd52_off (ok write : Bool) (fn addr : Nat) (data : Byte) (h : s.cardOn = false) : s.cmd52 ok write fn addr data = s.answer none [] := by
  rw [State.cmd52, if_pos (by simp [h])]

variable (h : s.cardOn = true)
include h

theorem State.cmd52_crc (write : Bool) (fn addr : Nat) (data : Byte) :
    s.cmd52 false write fn addr data = (s.bump 0x80104 1).answer none [] := by
  rw [State.cmd52, if_neg (by simp [h]), if_pos (by rfl)]
  rfl

theorem State.cmd52_error (write : Bool) {fn : Nat} (addr : Nat) (data : Byte) {e : Nat} (he : s.fnError fn = some e) :
    s.cmd52 true write fn addr data = s.answer (some [0, 0, s.r5 e, 0]) [] := by
  rw [State.cmd52, if_neg (by simp [h]), if_neg (by simp), he]

theorem State.cmd52_write {fn : Nat} (addr : Nat) (data : Byte) (he : s.fnError fn = none) {u : State}
    (hu : (s.fnWrites fn [] [(addr, data)]).2 = u) : s.cmd52 true true fn addr data = u.answer (some [0, 0, u.r5 0, data]) [] := by
  subst hu
  rw [State.cmd52, if_neg (by simp [h]), if_neg (by simp), he]
  rfl

theorem State.cmd52_read {fn : Nat} (addr : Nat) (data : Byte) (he : s.fnError fn = none) {b : Byte} {u : State}
    (hu : s.fnReads fn [addr] = ([b], u)) : s.cmd52 true false fn addr data = u.answer (some [0, 0, u.r5 0, b]) [b] := by
  rw [State.cmd52, if_neg (by simp [h]), if_neg (by simp), he, if_neg (by simp), hu]
  rfl

end

theorem State.fnWrites_f0 (s : State) (a : Nat) (v : Byte) : (s.fnWrites 0 [] [(a, v)]).2 = s.f0Write a v.toNat := rfl

theorem State.fnReads_f0 (s : State) (a : Nat) : s.fnReads 0 [a] = ([BitVec.ofNat 8 (s.f0Read a)], s) := rfl

theorem State.fnWrites_f1 (s : State) {a : Nat} (v : Byte) (ha : a ≠ 0x2008) : (s.fnWrites 1 [] [(a, v)]).2 = s.f1Write a v := by
  rw [State.fnWrites, if_neg (by decide), if_pos rfl, State.f1Writes, if_neg ha]
  rfl

theorem State.fnReads_f1 (s : State) {a : Nat} (ha : a ≠ 0x2008) : s.fnReads 1 [a] = ([(s.f1Read a).1], (s.f1Read a).2) := by
  rw [State.fnReads, if_neg (by decide), if_pos rfl, State.f1Reads, if_neg ha]
  rfl

/-! Bytes of function 0. -/

theorem State.f0Write_stop (s : State) (v : Byte) : s.f0Write 0xF0 v.toNat = if v = 0x5A then s.raiseStop else s := by
  show (if v.toNat = 0x5A then _ else _) = _
  simp only [← BitVec.toNat_inj, show (0x5A : Byte).toNat = 0x5A from rfl]

theorem State.f0Write_abort (s : State) (fn : BitVec 3) : s.f0Write 0x06 (BitVec.ofNat 8 fn.toNat).toNat =
    if s.sdio.openXfer = some fn.toNat then { s with sdio := { s.sdio with openXfer := none } } else s := by
  have hlt : fn.toNat < 8 := fn.isLt
  have hbyte : (BitVec.ofNat 8 fn.toNat).toNat = fn.toNat := by
    rw [BitVec.toNat_ofNat, Nat.mod_eq_of_lt (by omega)]
  have hres : nbit fn.toNat 3 = false := Nat.testBit_lt_two_pow (by omega)
  have hfn : nfld fn.toNat 0 3 = fn.toNat := by
    rw [nfld, Nat.shiftRight_zero, Nat.mod_eq_of_lt (by omega)]
  rw [hbyte]
  show (if nbit fn.toNat 3 = true then _ else _) = _
  rw [hres, hfn]
  rfl

theorem State.f0Write_res (s : State) : s.f0Write 0x06 8 = s.sdioReset := rfl

/-- A boot that has been refused starts again (rule R395); all else stays. -/
theorem State.bootAgain_refused {s : State} (h : s.boot.step = 4) :
    s.bootAgain = { s with boot := { s.boot with step := 0, code := 0, stream := [] } } := by
  rw [State.bootAgain, if_pos h]

theorem State.bootAgain_other {s : State} (h : s.boot.step ≠ 4) : s.bootAgain = s := by
  rw [State.bootAgain, if_neg h]

theorem State.bootAgain_keeps (s : State) : s.bootAgain.sdio = s.sdio ∧ s.bootAgain.f1Int = s.f1Int := by
  unfold State.bootAgain
  split <;> exact ⟨rfl, rfl⟩

/-- RES: the interface at its reset state, an open load closed, and then a refused boot again (rules R373, R395). -/
theorem State.sdioReset_eq (s : State) : ∃ b : State, s.sdioReset = b.bootAgain ∧ b.boot = s.boot ∧ b.f1Int = 0 ∧ b.sdio.busy = false ∧
    b.sdio.openXfer = none ∧ b.sdio.f0 = [] ∧ b.sdio.load = s.sdio.load.map fun l => { l with live := false } :=
  ⟨_, rfl, rfl, rfl, rfl, rfl, rfl, rfl⟩

/-! The bytes of function 1 that the mailboxes use (rule R383). -/

theorem State.f1Write_respAck (s : State) (v : Byte) : s.f1Write 0x2106 v = if v.getLsbD 0 then { s with sdio := { s.sdio with
    resp := false, bulkDone := s.sdio.bulkDone && !s.sdio.bulkSeen.getLsbD 0, bulkErr := s.sdio.bulkErr && !s.sdio.bulkSeen.getLsbD 1,
    bulkSeen := 0 } } else s := rfl

theorem State.f1Write_doorbell (s : State) (v : Byte) : s.f1Write 0x2101 v = s.ring (s.sdio.bell.toNat + 256 * v.toNat) := rfl

theorem State.ring_refused {s : State} (n : Nat) (h : s.sdio.busy = true ∨ s.sdio.resp = true) : s.ring n = { s with f1Int := s.f1Int ||| 8 } := by
  rw [State.ring, if_pos h]

/-- The frame that the doorbell copies: the bytes of the mailbox, and zeros for a length beyond it. -/
def State.belled (s : State) (n : Nat) : List Byte := s.sdio.tx.bytes 0 (min n 4096) ++ List.replicate (n - 4096) 0

theorem State.ring_taken {s : State} (n : Nat) (hb : s.sdio.busy = false) (hr : s.sdio.resp = false) :
    s.ring n = { s with sdio := { s.sdio with busy := true, frame := s.belled n } } := by
  rw [State.ring, if_neg (by simp [hb, hr])]
  rfl

theorem State.length_belled (s : State) (n : Nat) : (s.belled n).length = n := by
  simp only [State.belled, List.length_append, Mem.length_bytes, List.length_replicate]
  omega

theorem State.getElem?_belled (s : State) {n i : Nat} (hi : i < 4096) (hn : i < n) : (s.belled n)[i]? = some (s.sdio.tx.byte i) := by
  rw [State.belled, List.getElem?_append_left (by rw [Mem.length_bytes]; omega), Mem.getElem?_bytes _ _ (by omega), Nat.zero_add]

section
variable {s : State} (hup : Up s)
include hup

theorem exec_cmd52 (ok w : Bool) (fn : BitVec 3) (a : BitVec 17) (v : Byte) :
    exec (.cmd52 ok w fn a v) s = .next (s.cmd52 ok w fn.toNat a.toNat v).done := by
  show (s.act fun s => s.cmd52 ok w fn.toNat a.toNat v) = _
  rw [State.act_up hup]

/-- A write of one byte by the host's controller, where its function is ready. -/
theorem act_hostWrite (hon : s.cardOn = true) {fn addr : Nat} {v : Byte} {u : State} (he : s.fnError fn = none)
    (hu : (s.fnWrites fn [] [(addr, v)]).2 = u) :
    (s.act fun s => s.hostByte true fn addr v) = .next (u.answer (some [0, 0, u.r5 0, v]) []).done := by
  rw [State.act_up hup, State.hostByte, State.cmd52_write hon addr v he hu]

end

/-- Settles O47: CMD52 by its errors, then byte by byte of the functions. -/
theorem byteCommands : Obligations.ByteCommands := by
  intro s w fn a v hup
  refine ⟨fun hoff ok => ?_, fun hon => ⟨?_, fun hfn => ?_, fun h0 h2 hr => ?_, ?_, ?_, ⟨?_, fun hv => ?_⟩, ?_, ?_, fun hr => ?_⟩⟩
  · rw [exec_cmd52 hup, State.cmd52_off _ _ _ _ _ hoff]
  · rw [exec_cmd52 hup, State.cmd52_crc hon]
  · rw [exec_cmd52 hup, State.cmd52_error hon _ _ _ (s.fnError_absent hfn)]
  · rw [exec_cmd52 hup, State.cmd52_error hon _ _ _ (State.fnError_notReady h2 hr)]
  · intro b
    rw [exec_cmd52 hup]
    exact congrArg (fun t => Host.Outcome.next (State.done t)) (State.cmd52_read hon _ _ s.fnError_zero (s.fnReads_f0 a.toNat))
  · intro u
    rw [exec_cmd52 hup]
    exact congrArg (fun t => Host.Outcome.next (State.done t)) (State.cmd52_write hon _ _ s.fnError_zero (s.fnWrites_f0 a.toNat v))
  · show (s.act fun s => s.hostByte true 0 0xF0 v) = _
    rw [act_hostWrite hup hon s.fnError_zero ((s.fnWrites_f0 0xF0 v).trans (s.f0Write_stop v))]
  · show (if v = 0x5A then s.raiseStop else s).stopLine = true
    rw [if_pos hv, State.raiseStop_stopLine]
  · intro u
    show (s.act fun s => s.hostByte true 0 0x06 (BitVec.ofNat 8 fn.toNat)) = _
    rw [act_hostWrite hup hon s.fnError_zero ((s.fnWrites_f0 0x06 _).trans (s.f0Write_abort fn))]
  · intro u
    obtain ⟨b, hu, hboot, hint, hbusy, hopen, hf0, hload⟩ := s.sdioReset_eq
    obtain ⟨hbsdio, hbint⟩ := b.bootAgain_keeps
    have hsdio : u.sdio = b.sdio := (congrArg State.sdio hu).trans hbsdio
    refine ⟨?_, ?_, ?_, ?_, ?_, fun l hl => ?_, fun h4 => ?_, fun h4 => ?_⟩
    · show (s.act fun s => s.hostByte true 0 0x06 8) = _
      rw [act_hostWrite hup hon s.fnError_zero ((s.fnWrites_f0 0x06 8).trans s.f0Write_res)]
    · rw [hsdio, hbusy]
    · rw [hsdio, hopen]
    · exact (congrArg State.f1Int hu).trans (hbint.trans hint)
    · rw [hsdio, hf0]
    · rw [hsdio, hload] at hl
      obtain ⟨l', -, rfl⟩ := Option.map_eq_some_iff.mp hl
      rfl
    · show s.sdioReset.boot.step = 0 ∧ s.sdioReset.boot.stream = []
      rw [hu, State.bootAgain_refused (hboot ▸ h4)]
      exact ⟨rfl, rfl⟩
    · show s.sdioReset.boot = _
      rw [hu, State.bootAgain_other (hboot ▸ h4), hboot]
  · have he : s.fnError 1 = none := State.fnError_ready (by decide) hr
    refine ⟨?_, ?_, ?_, fun hb => ?_, fun hb hresp => ⟨_, s.length_belled _, fun i hi hl => ?_, ?_⟩⟩
    · intro u ha
      rw [exec_cmd52 hup]
      exact congrArg (fun t => Host.Outcome.next (State.done t)) (State.cmd52_read hon _ _ he (s.fnReads_f1 ha))
    · intro u ha
      rw [exec_cmd52 hup]
      exact congrArg (fun t => Host.Outcome.next (State.done t)) (State.cmd52_write hon _ _ he (s.fnWrites_f1 v ha))
    · intro u
      show (s.act fun s => s.hostByte true 1 0x2106 v) = _
      rw [act_hostWrite hup hon he ((s.fnWrites_f1 v (by decide)).trans (s.f1Write_respAck v))]
    · show (s.act fun s => s.hostByte true 1 0x2101 v) = _
      rw [act_hostWrite hup hon he ((s.fnWrites_f1 v (by decide)).trans ((s.f1Write_doorbell v).trans (State.ring_refused _ hb)))]
      rfl
    · exact s.getElem?_belled hi (by rwa [s.length_belled] at hl)
    · show (s.act fun s => s.hostByte true 1 0x2101 v) = _
      rw [act_hostWrite hup hon he ((s.fnWrites_f1 v (by decide)).trans ((s.f1Write_doorbell v).trans (State.ring_taken _ hb hresp)))]
      rfl

end Sys2Proof.Machine
end

section

namespace Sys2Proof.Machine

/-! The register window (rules R378–R380). -/

theorem State.f1Write_winAddr (s : State) (b : Byte) : s.f1Write 0x2003 b =
    { s with sdio := { s.sdio with winB := setFld s.sdio.winB 24 8 b.toNat, winAddr := setFld s.sdio.winB 24 8 b.toNat } } := rfl

theorem State.f1Write_winData (s : State) (b : Byte) : s.f1Write 0x2007 b =
    State.winWrite { s with sdio := { s.sdio with winD := setFld s.sdio.winD 24 8 b.toNat } } (setFld s.sdio.winD 24 8 b.toNat) := rfl

theorem State.f1Read_winData (s : State) : s.f1Read 0x2004 =
    (BitVec.ofNat 8 s.winRead.1.toNat, { s.winRead.2 with sdio := { s.winRead.2.sdio with latch := s.winRead.1 } }) := by
  have hbyte : ∀ w : Word, byteOf w.toNat 0 = BitVec.ofNat 8 w.toNat := fun w => by rw [byteOf, Nat.pow_zero, Nat.div_one]
  exact Prod.ext (hbyte _) rfl

/-- The bytes of a word are the word (rule R12). -/
theorem leNat_leBytes (n v : Nat) : leNat (leBytes n v) = v % 256 ^ n := by
  induction n generalizing v with
  | zero => simp [leBytes, leNat, Nat.mod_one]
  | succ n ih =>
    rw [leBytes, leNat, ih, BitVec.toNat_ofNat, show 256 ^ (n + 1) = 256 * 256 ^ n from Nat.pow_succ', Nat.mod_mul]

theorem w32_leNat_leBytes (w : Word) : w32 (leNat (leBytes 4 w.toNat)) = w := by
  rw [leNat_leBytes, show 256 ^ 4 = 2 ^ 32 from rfl, Nat.mod_eq_of_lt w.isLt]
  exact BitVec.eq_of_toNat_eq (by rw [w32_toNat w.isLt])

theorem leBytes_four (w : Word) : leBytes 4 w.toNat = [byteOf w.toNat 0, byteOf w.toNat 1, byteOf w.toNat 2, byteOf w.toNat 3] := by
  simp only [leBytes, byteOf, Nat.pow_zero, Nat.div_one, Nat.pow_one, Nat.div_div_eq_div_mul, show 256 * 256 = 256 ^ 2 from rfl,
    show 256 ^ 2 * 256 = 256 ^ 3 from rfl]

theorem wordBytes_cons (w : Word) (ws : List Word) : wordBytes (w :: ws) = leBytes 4 w.toNat ++ wordBytes ws := rfl

theorem length_wordBytes (ws : List Word) : (wordBytes ws).length = 4 * ws.length := by
  induction ws with
  | nil => rfl
  | cons w ws ih => rw [wordBytes_cons, leBytes_four, List.length_append, ih, List.length_cons, List.length_cons]; simp; omega

/-- WIN_BURST: every four bytes written make one write of the window (rule R379). -/
theorem State.f1Writes_burst (ws : List Word) (s : State) :
    s.f1Writes [] ((wordBytes ws).map fun b => (0x2008, b)) = ([], winWrites ws s) := by
  induction ws generalizing s with
  | nil => rfl
  | cons w ws ih =>
    have hword : leNat [byteOf w.toNat 0, byteOf w.toNat 1, byteOf w.toNat 2, byteOf w.toNat 3] = leNat (leBytes 4 w.toNat) := by rw [leBytes_four]
    rw [wordBytes_cons, leBytes_four]
    simp only [List.cons_append, List.nil_append, List.map_cons, State.f1Writes, if_true, List.length_cons, List.length_nil,
      Nat.zero_add, Nat.reduceAdd, Nat.reduceEqDiff, if_false, hword, w32_leNat_leBytes, ih]
    rfl

theorem byteOf_word (w : Word) (bs : List Byte) :
    byteOf w.toNat 0 :: byteOf w.toNat 1 :: byteOf w.toNat 2 :: byteOf w.toNat 3 :: bs = leBytes 4 w.toNat ++ bs := by rw [leBytes_four]; rfl

/-- WIN_BURST: every four bytes read are those of one read of the window (rule R379). -/
theorem State.f1Reads_burst (n k : Nat) (w : Word) (s : State) :
    s.f1Reads (4 * n) (4 * k) w (List.replicate (4 * n) 0x2008) = (wordBytes (winReads n s).1, (winReads n s).2) := by
  induction n generalizing k w s with
  | zero => rfl
  | succ n ih =>
    have hlist : List.replicate (4 * (n + 1)) 0x2008 = 0x2008 :: 0x2008 :: 0x2008 :: 0x2008 :: List.replicate (4 * n) 0x2008 := rfl
    have hleft : ¬ 4 * (n + 1) < 4 := by omega
    have hi0 : 4 * k % 4 = 0 := by omega
    have hi1 : (4 * k + 1) % 4 = 1 := by omega
    have hi2 : (4 * k + 1 + 1) % 4 = 2 := by omega
    have hi3 : (4 * k + 1 + 1 + 1) % 4 = 3 := by omega
    have hnext : 4 * k + 1 + 1 + 1 + 1 = 4 * (k + 1) := by omega
    have hrest : 4 * (n + 1) - 1 - 1 - 1 - 1 = 4 * n := by omega
    rw [hlist]
    simp only [State.f1Reads, if_true, hi0, hi1, hi2, hi3, hleft, hnext, hrest, ih, ne_eq, not_true_eq_false, if_false,
      not_false_eq_true, Nat.one_ne_zero, Nat.reduceEqDiff, byteOf_word, winReads, wordBytes_cons]

/-! A burst as a transfer of function 1. -/

theorem zipIdx_map_fst {α β : Type} (l : List α) (g : α → β) : (l.zipIdx.map fun p => g p.1) = l.map g := by
  show l.zipIdx.map (g ∘ Prod.fst) = _
  rw [← List.map_map, List.zipIdx_map_fst]

theorem State.burst_write {s : State} (hon : s.cardOn = true) (hr : s.fnReady 1 = true) (ws : List Word) (n : Nat) :
    s.burst true (wordBytes ws) n = ((winWrites ws s).answer (some [0, 0, (winWrites ws s).r5 0, 0]) []).statusOf 1 [] := by
  rw [State.burst, if_neg (by simp [hon]), State.fnError_ready (by decide) hr]
  simp only [if_true, State.cmd53Run, Nat.one_mul, List.take_length, Nat.sub_self, List.replicate_zero, List.append_nil, Bool.false_eq_true,
    if_false]
  rw [zipIdx_map_fst (wordBytes ws) (fun b => ((0x2008 : Nat), b))]
  have hall : (((wordBytes ws).map fun b => ((0x2008 : Nat), b)).take (wordBytes ws).length) = (wordBytes ws).map fun b => (0x2008, b) :=
    List.take_of_length_le (by simp)
  simp only [blocksOf, hall, State.writeBlocks, List.contains_nil, Bool.false_eq_true, if_false]
  rw [State.fnWrites, if_neg (by decide), if_pos rfl, State.f1Writes_burst]

theorem State.burst_read {s : State} (hon : s.cardOn = true) (hr : s.fnReady 1 = true) (n : Nat) :
    s.burst false [] n = (winReads n s).2.answer (some [0, 0, (winReads n s).2.r5 0, 0]) (wordBytes (winReads n s).1) := by
  have hreads : s.fnReads 1 (List.replicate (4 * n) 0x2008) = (wordBytes (winReads n s).1, (winReads n s).2) := by
    rw [State.fnReads, if_neg (by decide), if_pos rfl, List.countP_replicate, if_pos (by rfl), ← State.f1Reads_burst n 0 0 s]
  rw [State.burst, if_neg (by simp [hon]), State.fnError_ready (by decide) hr]
  simp only [Bool.false_eq_true, if_false, State.cmd53Run, Nat.one_mul, List.map_const', List.length_range, hreads]

section
variable {s : State} (hup : Up s)
include hup

theorem exec_winBurst (write : Bool) (data : List Byte) (n : BitVec 9) :
    exec (.winBurst write data n) s = .next (s.burst write data n.toNat).done := by
  show (s.act fun s => s.burst write data n.toNat) = _
  rw [State.act_up hup]

/-- A read of one byte by the host's controller, where its function is ready. -/
theorem act_hostRead (hon : s.cardOn = true) {fn addr : Nat} {b : Byte} {u : State} (he : s.fnError fn = none) (hu : s.fnReads fn [addr] = ([b], u)) :
    (s.act fun s => s.hostByte false fn addr 0) = .next (u.answer (some [0, 0, u.r5 0, b]) [b]).done := by
  rw [State.act_up hup, State.hostByte, State.cmd52_read hon addr 0 he hu]

end

/-- Settles O48: one access of the window, the bytes that issue it, and the bursts by induction on their words. -/
theorem registerWindow : Obligations.RegisterWindow := by
  intro s b v ws n hup
  refine ⟨?_, fun hon hr => ?_⟩
  · intro last a
    refine ⟨fun ha => ⟨?_, ?_⟩, fun ha => ⟨?_, ?_⟩⟩
    · rw [State.winWrite, if_pos ha]
      rfl
    · rw [State.winRead, if_pos ha]
      rfl
    · intro q
      rw [State.winWrite, if_neg (by omega)]
      rfl
    · intro q w
      rw [State.winRead, if_neg (by omega)]
      rfl
  · have he : s.fnError 1 = none := State.fnError_ready (by decide) hr
    refine ⟨?_, ?_, ?_, ?_, ?_⟩
    · intro w
      show (s.act fun s => s.hostByte true 1 0x2003 b) = _
      rw [act_hostWrite hup hon he ((s.fnWrites_f1 b (by decide)).trans (s.f1Write_winAddr b))]
      rfl
    · intro w u
      show (s.act fun s => s.hostByte true 1 0x2007 b) = _
      rw [act_hostWrite hup hon he ((s.fnWrites_f1 b (by decide)).trans (s.f1Write_winData b))]
    · intro q u d
      show (s.act fun s => s.hostByte false 1 0x2004 0) = _
      rw [act_hostRead hup hon he ((s.fnReads_f1 (by decide)).trans (by rw [State.f1Read_winData]))]
    · intro u
      rw [exec_winBurst hup, State.burst_write hon hr]
      rfl
    · intro q
      rw [exec_winBurst hup, State.burst_read hon hr]

end Sys2Proof.Machine
end

section

namespace Sys2Proof.Machine

/-! CMD53 and function 2 (rules R371–R374, R389, R394). -/

theorem exec_cmd53 {s : State} (hup : Up s) (ok w : Bool) (fn : BitVec 3) (block inc : Bool) (a : BitVec 17) (n : BitVec 9) (d : Cmd53Data) :
    exec (.cmd53 ok w fn block inc a n d) s = .next (s.cmd53 ok w fn.toNat block inc a.toNat n.toNat d).done := by
  show (s.act fun s => s.cmd53 ok w fn.toNat block inc a.toNat n.toNat d) = _
  rw [State.act_up hup]

section
variable {s : State} {fn : Nat} (w inc : Bool) (addr count : Nat) (d : Cmd53Data)

theorem State.cmd53_off (ok block : Bool) (h : s.cardOn = false) : s.cmd53 ok w fn block inc addr count d = s.answer none [] := by
  rw [State.cmd53, if_pos (by simp [h])]

variable (h : s.cardOn = true)
include h

theorem State.cmd53_crc (block : Bool) : s.cmd53 false w fn block inc addr count d = (s.bump 0x80104 1).answer none [] := by
  rw [State.cmd53, if_neg (by simp [h]), if_pos (by rfl)]
  rfl

theorem State.cmd53_error (block : Bool) {e : Nat} (he : s.fnError fn = some e) :
    s.cmd53 true w fn block inc addr count d = s.answer (some [0, 0, s.r5 e, 0]) [] := by
  rw [State.cmd53, if_neg (by simp [h]), if_neg (by simp), he]

theorem State.cmd53_bytes (he : s.fnError fn = none) :
    s.cmd53 true w fn false inc addr count d = s.cmd53Run w fn inc addr 1 (if count = 0 then 512 else count) d := by
  rw [State.cmd53, if_neg (by simp [h]), if_neg (by simp), he]
  rfl

theorem State.cmd53_endless (he : s.fnError fn = none) (hcount : count = 0) (hfn : fn ≠ 2) :
    s.cmd53 true w fn true inc addr count d = s.answer (some [0, 0, s.r5 1, 0]) [] := by
  rw [State.cmd53, if_neg (by simp [h]), if_neg (by simp), he]
  simp only [Bool.not_true, Bool.false_eq_true, if_false, hcount, ne_eq, hfn, not_false_eq_true, and_self, if_true]
  rfl

theorem State.cmd53_blocks (he : s.fnError fn = none) (hcount : count ≠ 0 ∨ fn = 2) :
    s.cmd53 true w fn true inc addr count d = s.cmd53Blocks w fn inc addr count (s.blockSize fn) d := by
  have hnot : ¬ (count = 0 ∧ fn ≠ 2) := fun ⟨hz, hne⟩ => hcount.elim (· hz) hne
  rw [State.cmd53, if_neg (by simp [h]), if_neg (by simp), he]
  simp only [Bool.not_true, Bool.false_eq_true, if_false, hnot]

end

/-- One block written to function 2 without an error on the bus. -/
theorem State.cmd53Run_f2 (s : State) (inc : Bool) (addr : Nat) {size : Nat} {d : Cmd53Data} (hbad : d.badBlocks = []) (hlen : d.bytes.length = size) :
    s.cmd53Run true 2 inc addr 1 size d = ((s.f2Write d.bytes).answer (some [0, 0, (s.f2Write d.bytes).r5 0, 0]) []).statusOf 1 [] := by
  subst hlen
  have hall : ∀ g : Byte × Nat → Nat, (((d.bytes.zipIdx.map fun p => (g p, p.1)).take d.bytes.length)) = d.bytes.zipIdx.map fun p => (g p, p.1) :=
    fun g => List.take_of_length_le (by simp)
  have hsnd : ∀ g : Byte × Nat → Nat, (d.bytes.zipIdx.map fun p => (g p, p.1)).map Prod.snd = d.bytes := fun g => by
    rw [List.map_map]
    exact List.zipIdx_map_fst 0 d.bytes
  simp only [State.cmd53Run, if_true, hbad, Nat.one_mul, List.take_length, Nat.sub_self, List.replicate_zero, List.append_nil, blocksOf, hall,
    State.writeBlocks, List.contains_nil, Bool.false_eq_true, if_false]
  rw [State.fnWrites, if_neg (by decide), if_neg (by decide), hsnd]

/-- One block whose CRC is wrong is discarded and counted, and its CRC status says so. -/
theorem State.cmd53Run_badBlock (s : State) (fn : Nat) (inc : Bool) (addr size : Nat) {d : Cmd53Data} (hbad : d.badBlocks = [0]) :
    s.cmd53Run true fn inc addr 1 size d = ((s.bump 0x80108 1).answer (some [0, 0, (s.bump 0x80108 1).r5 0, 0]) []).statusOf 1 [0] := by
  simp only [State.cmd53Run, if_true, hbad, blocksOf, State.writeBlocks, show ([0] : List Nat).contains 0 = true from rfl]

theorem State.cmd53Blocks_one (s : State) (write : Bool) (fn : Nat) (inc : Bool) (addr size : Nat) {d : Cmd53Data} (hblocks : d.blocks = none) :
    s.cmd53Blocks write fn inc addr 1 size d = State.cmd53Run { s with sdio := { s.sdio with openXfer := none } } write fn inc addr 1 size d := by
  simp only [State.cmd53Blocks, hblocks, Option.getD_none, Nat.one_ne_zero, if_false, Nat.min_self, Nat.lt_irrefl, or_self]

theorem State.cmd53Run_f0Read (s : State) (inc : Bool) (addr size : Nat) (d : Cmd53Data) : s.cmd53Run false 0 inc addr 1 size d =
    s.answer (some [0, 0, s.r5 0, 0])
      ((List.range size).map fun k => BitVec.ofNat 8 (s.f0Read (if inc then (addr + k) % 2 ^ 17 else addr))) := by
  simp only [State.cmd53Run, Bool.false_eq_true, if_false, Nat.one_mul, State.fnReads, if_true, List.map_map]
  rfl

/-! Bytes for an open load (rule R389). -/

theorem State.bulkTake_within {s : State} {l : Load} {bs : List Byte} (hload : s.sdio.load = some l) (hlive : l.live = true)
    (hlen : l.bytes.length + bs.length ≤ l.len) (hne : bs ≠ []) (hreach : s.dramReach (l.addr + l.bytes.length) bs.length = cOK) :
    s.bulkTake bs = { (s.dramSet none (l.addr + l.bytes.length) bs).2 with sdio :=
      { (s.dramSet none (l.addr + l.bytes.length) bs).2.sdio with load := some { l with bytes := l.bytes ++ bs } } } := by
  have hnow : bs.take (l.len - l.bytes.length) = bs := List.take_of_length_le (by omega)
  have hempty : bs.isEmpty = false := by simpa using hne
  have hopen : s.sdio.load.filter (·.live) = some l := by rw [hload]; simp [Option.filter, hlive]
  simp only [State.bulkTake, hopen, hnow, hempty, hreach, Nat.sub_self, Nat.add_zero, Bool.not_false, Bool.true_and, bne_self_eq_false,
    Bool.false_eq_true, if_false, ne_eq, not_true_eq_false, or_self]

theorem State.bulkTake_closed {s : State} (h : ∀ l, s.sdio.load = some l → l.live = false) (bs : List Byte) : s.bulkTake bs = s.bulkFail := by
  have hclosed : s.sdio.load.filter (·.live) = none := by
    cases hload : s.sdio.load with
    | none => rfl
    | some l => simp [Option.filter, h l hload]
  simp only [State.bulkTake, hclosed]

/-- Settles O49: CMD53 by its errors and its kind, then one block of each, then the bytes of a load. -/
theorem extendedTransfers : Obligations.ExtendedTransfers := by
  intro s w block inc fn a n d hup
  have hn : n.toNat = 0 ↔ n = 0 := by rw [← BitVec.toNat_inj]; rfl
  have hsize : (if n.toNat = 0 then 512 else n.toNat) = if n = 0 then 512 else n.toNat := by simp only [hn]
  have hfn : fn.toNat = 2 ↔ fn = 2 := by rw [← BitVec.toNat_inj]; rfl
  refine ⟨fun hoff ok => ?_, fun hon => ⟨?_, fun e he => ?_, fun he hcount => ?_, fun he hcount hne => ?_, fun hr hbad hlen => ?_,
    fun hr hbad hone hblocks => ?_, ?_⟩, fun l bs hload hlive hlen hne hreach => ?_, fun hclosed bs => ?_⟩
  · rw [exec_cmd53 hup, State.cmd53_off _ _ _ _ _ _ _ hoff]
  · rw [exec_cmd53 hup, State.cmd53_crc _ _ _ _ _ hon]
  · rw [exec_cmd53 hup, State.cmd53_error _ _ _ _ _ hon _ he]
  · rw [exec_cmd53 hup, State.cmd53_blocks _ _ _ _ _ hon he (hcount.imp (mt hn.mp) hfn.mpr)]
  · rw [exec_cmd53 hup, State.cmd53_endless _ _ _ _ _ hon he (hn.mpr hcount) (mt hfn.mp hne)]
  · intro u
    have hpos : d.bytes.isEmpty = false := by
      rw [List.isEmpty_eq_false_iff, ← List.length_pos_iff, hlen]
      split
      · decide
      case isFalse h0 => exact Nat.pos_of_ne_zero (mt hn.mp h0)
    have hwrite : s.f2Write d.bytes = u := by rw [State.f2Write, hpos]; rfl
    rw [exec_cmd53 hup, show (2 : BitVec 3).toNat = 2 from rfl, State.cmd53_bytes _ _ _ _ _ hon (State.fnError_ready (by decide) hr),
      State.cmd53Run_f2 s inc _ hbad (hlen.trans hsize.symm), hwrite]
    rfl
  · rw [exec_cmd53 hup, hone, show (2 : BitVec 3).toNat = 2 from rfl, show (1 : BitVec 9).toNat = 1 from rfl,
      State.cmd53_blocks _ _ _ _ _ hon (State.fnError_ready (by decide) hr) (Or.inl (by decide)), State.cmd53Blocks_one _ _ _ _ _ _ hblocks,
      State.cmd53Run_badBlock _ _ _ _ _ hbad]
    rfl
  · intro l bs
    rw [exec_cmd53 hup, show (0 : BitVec 3).toNat = 0 from rfl, State.cmd53_bytes _ _ _ _ _ hon s.fnError_zero, State.cmd53Run_f0Read, hsize]
  · intro u
    exact State.bulkTake_within hload hlive hlen hne hreach
  · exact State.bulkTake_closed hclosed bs

end Sys2Proof.Machine
end

section

namespace Sys2Proof.Machine

/-! VCP frames (rules R382–R389, R401, R402). -/

/-- A row of a command table runs through `vcpTake`. -/
def TakesRow (s : State) (row : Nat × Instr × (State → List Byte → Nat × List Byte × State)) : Prop :=
  exec row.2.1 s = .next (s.vcpTake row.1 row.2.2).done

theorem exec_vcpPlain {s : State} (h : Runs s 1) : ∀ row ∈ vcpPlain, TakesRow s row := by
  simp only [vcpPlain, List.forall_mem_cons, List.not_mem_nil, false_implies, implies_true, and_true]
  refine ⟨?_, ?_, ?_, ?_, ?_⟩
  · show (s.actIn 1 fun s => s.vcpTake 0x01 State.vcpHello) = _
    rw [State.actIn_runs h]
  · show (s.actIn 1 fun s => s.vcpTake 0x02 State.vcpStatus) = _
    rw [State.actIn_runs h]
  · show (s.actIn 1 fun s => s.vcpTake 0x04 State.vcpAttest) = _
    rw [State.actIn_runs h]
  · show (s.actIn 1 fun s => s.vcpTake 0x05 State.vcpLoadBegin) = _
    rw [State.actIn_runs h]
  · show (s.actIn 1 fun s => s.vcpTake 0x06 State.vcpLoadEnd) = _
    rw [State.actIn_runs h]

theorem exec_vcpCritical {s : State} (h : Runs s 1) (mid : Option (BitVec 9 × MidTrip)) : ∀ row ∈ vcpCriticalRows mid, TakesRow s row := by
  simp only [vcpCriticalRows, List.forall_mem_cons, List.not_mem_nil, false_implies, implies_true, and_true]
  refine ⟨?_, ?_, ?_, ?_, ?_, ?_, ?_, ?_⟩
  · show (s.actIn 1 fun s => s.vcpTake 0x10 State.vcpActEnable) = _
    rw [State.actIn_runs h]
  · show (s.actIn 1 fun s => s.vcpTake 0x11 (State.vcpWrites · true mid)) = _
    rw [State.actIn_runs h]
  · show (s.actIn 1 fun s => s.vcpTake 0x12 (State.vcpWrites · false mid)) = _
    rw [State.actIn_runs h]
  · show (s.actIn 1 fun s => s.vcpTake 0x13 State.vcpAdmitImage) = _
    rw [State.actIn_runs h]
  · show (s.actIn 1 fun s => s.vcpTake 0x14 State.vcpRevoke) = _
    rw [State.actIn_runs h]
  · show (s.actIn 1 fun s => s.vcpTake 0x15 State.vcpBind) = _
    rw [State.actIn_runs h]
  · show (s.actIn 1 fun s => s.vcpTake 0x16 State.vcpPerfLimit) = _
    rw [State.actIn_runs h]
  · show (s.actIn 1 fun s => s.vcpTake 0x17 State.vcpDebug) = _
    rw [State.actIn_runs h]

theorem exec_vcpRow {s : State} (h : Runs s 1) {mid : Option (BitVec 9 × MidTrip)} {row : Nat × Instr × (State → List Byte → Nat × List Byte × State)}
    (hrow : row ∈ vcpPlain ++ vcpCriticalRows mid) : exec row.2.1 s = .next (s.vcpTake row.1 row.2.2).done :=
  (List.mem_append.mp hrow).elim (exec_vcpPlain h row) (exec_vcpCritical h mid row)

/-- The codes of the non-critical commands other than STOP and KEY_EXCHANGE. -/
theorem vcpPlain_code : ∀ row ∈ vcpPlain, row.1 ≠ 3 ∧ row.1 ≠ 0x20 ∧ vcpCritical row.1 = false := by
  simp only [vcpPlain, List.forall_mem_cons, List.not_mem_nil, false_implies, implies_true, and_true]
  decide

/-- The codes of the critical commands. -/
theorem vcpCriticalRows_code (mid : Option (BitVec 9 × MidTrip)) : ∀ row ∈ vcpCriticalRows mid,
    vcpCodes.contains row.1 = true ∧ row.1 ≠ 1 ∧ row.1 ≠ 3 ∧ vcpCritical row.1 = true := by
  simp only [vcpCriticalRows, List.forall_mem_cons, List.not_mem_nil, false_implies, implies_true, and_true]
  decide

/-! A frame by rule R384's order. -/

section
variable {s : State} {run : State → List Byte → Nat × List Byte × Option (List Byte) × State}

theorem State.vcpTakeKey_idle (code : Nat) (h : s.sdio.busy = false) : s.vcpTakeKey code run = s := by
  rw [State.vcpTakeKey, if_neg (by simp [h])]

theorem State.vcpTakeKey_taken {code : Nat} (h : s.sdio.busy = true)
    (hcode : frameCmd s.sdio.frame = code ∨ vcpCodes.contains (frameCmd s.sdio.frame) = false) :
    s.vcpTakeKey code run = s.vcpRun s.sdio.frame run := by
  have htake : frameCmd s.sdio.frame = code ∨ (!vcpCodes.contains (frameCmd s.sdio.frame)) = true := hcode.imp id fun h => by rw [h]; rfl
  rw [State.vcpTakeKey, if_pos ⟨h, htake⟩]

variable {f : List Byte}

theorem State.vcpRun_bad (h : frameBad f = true) : s.vcpRun f run = s.sendReply f (replyOf cARG [] false) := by
  rw [State.vcpRun, if_pos h]

section
variable (hok : frameBad f = false)
include hok

theorem State.vcpRun_stop (hcmd : frameCmd f = 3) : s.vcpRun f run = s.raiseStop.sendReply f (replyOf cOK [] false) := by
  rw [State.vcpRun, if_neg (by simp [hok]), if_pos hcmd]

theorem State.vcpRun_version (h3 : frameCmd f ≠ 3) (h1 : frameCmd f ≠ 1) (hver : s.sdio.ver ≠ some (field f 4 1) ∨ field f 5 1 ≠ 0) :
    s.vcpRun f run = s.sendReply f (replyOf cVERSION [] false) := by
  rw [State.vcpRun, if_neg (by simp [hok]), if_neg h3, if_pos ⟨h1, hver⟩]

section
variable (h3 : frameCmd f ≠ 3) (hver : frameCmd f = 1 ∨ ¬ (s.sdio.ver ≠ some (field f 4 1) ∨ field f 5 1 ≠ 0))
include h3 hver

theorem State.vcpRun_plain (hplain : vcpCritical (frameCmd f) = false) : s.vcpRun f run =
    (run s (f.drop 32)).2.2.2.sendReply f (replyOf (run s (f.drop 32)).1 (run s (f.drop 32)).2.1
      (frameCmd f == 0x20 && (run s (f.drop 32)).1 == cOK && field f 32 1 == 2)) := by
  have hrest : ¬ (frameCmd f ≠ 1 ∧ (s.sdio.ver ≠ some (field f 4 1) ∨ field f 5 1 ≠ 0)) := fun ⟨h1, hv⟩ => hver.elim h1 (· hv)
  rw [State.vcpRun, if_neg (by simp [hok]), if_neg h3, if_neg hrest, if_neg (by simp [hplain])]

theorem State.vcpRun_refused (hcrit : vcpCritical (frameCmd f) = true) {r : Reply} {u : State} (hcheck : s.checkCritical f = (some r, u)) :
    s.vcpRun f run = u.sendReply f r := by
  have hrest : ¬ (frameCmd f ≠ 1 ∧ (s.sdio.ver ≠ some (field f 4 1) ∨ field f 5 1 ≠ 0)) := fun ⟨h1, hv⟩ => hver.elim h1 (· hv)
  rw [State.vcpRun, if_neg (by simp [hok]), if_neg h3, if_neg hrest, if_pos hcrit, hcheck]

theorem State.vcpRun_accepted (hcrit : vcpCritical (frameCmd f) = true) {u : State} (hcheck : s.checkCritical f = (none, u)) :
    s.vcpRun f run = (State.sendReply { (run u (f.drop 32)).2.2.2 with sec :=
        { (run u (f.drop 32)).2.2.2.sec with lastStatus := BitVec.ofNat 8 (run u (f.drop 32)).1 } } f
      (replyOf (run u (f.drop 32)).1 (run u (f.drop 32)).2.1 true)).keyAfter (run u (f.drop 32)).2.2.1 := by
  have hrest : ¬ (frameCmd f ≠ 1 ∧ (s.sdio.ver ≠ some (field f 4 1) ∨ field f 5 1 ≠ 0)) := fun ⟨h1, hv⟩ => hver.elim h1 (· hv)
  rw [State.vcpRun, if_neg (by simp [hok]), if_neg h3, if_neg hrest, if_pos hcrit, hcheck]

end
end

/-! The response (rules R382, R383). -/

theorem length_leBytes (n v : Nat) : (leBytes n v).length = n := by
  induction n generalizing v with
  | zero => rfl
  | succ n ih => rw [leBytes, List.length_cons, ih]

theorem State.sendReply_rxLen (f : List Byte) {r : Reply} (h : r.tagged = false) : (s.sendReply f r).sdio.rxLen = 32 + r.payload.length := by
  cases hkey : s.sec.cmdKey
  all_goals
    simp only [State.sendReply, hkey, h, Bool.false_eq_true, if_false, List.length_append, length_leBytes, List.length_cons, List.length_nil,
      List.length_replicate]

theorem State.sendReply_f1Int (f : List Byte) (r : Reply) : (s.sendReply f r).f1Int.getLsbD 0 = true := by
  show (_ ||| (1 : Byte)).getLsbD 0 = true
  rw [BitVec.getLsbD_or]
  exact Bool.or_true _

end

/-- Settles O50: each frame by the first of rule R384's checks that it fails. -/
theorem plainFrames : Obligations.PlainFrames := by
  intro s mid kmid hruns f versionBad
  have hexchange1 : exec .keyExchangePhase1 s = .next (s.exchangeTake false none).done := by
    show (s.actIn 1 fun s => s.exchangeTake false none) = _
    rw [State.actIn_runs hruns]
  have hexchange2 : exec (.keyExchangePhase2 kmid) s = .next (s.exchangeTake true kmid).done := by
    show (s.actIn 1 fun s => s.exchangeTake true kmid) = _
    rw [State.actIn_runs hruns]
  have hstop : exec .stop s = .next (s.vcpTake 0x03 fun s _ => (cOK, [], s)).done := by
    show (s.actIn 1 fun s => s.vcpTake 0x03 fun s _ => (cOK, [], s)) = _
    rw [State.actIn_runs hruns]
  refine ⟨fun r => ⟨rfl, rfl, s.sendReply_f1Int f r, s.sendReply_rxLen f⟩, fun hbusy => ⟨fun row hrow hbad hcode => ?_, fun row hrow =>
    ⟨fun hok hcmd h1 hver => ?_, fun hok hcmd hver => ?_⟩, fun hok hcmd => ⟨?_, s.raiseStop_stopLine⟩, fun hok hcmd hver hphase => ?_,
    fun hok hcmd hver hphase => ?_⟩, fun hidle => ?_⟩
  · rw [exec_vcpRow hruns hrow, State.vcpTake, State.vcpTakeKey_taken hbusy hcode, State.vcpRun_bad hbad]
  · obtain ⟨h3, h20, hplain⟩ := vcpPlain_code row hrow
    rw [exec_vcpPlain hruns row hrow, State.vcpTake, State.vcpTakeKey_taken hbusy (Or.inl hcmd),
      State.vcpRun_version hok (hcmd ▸ h3) (hcmd ▸ h1) hver]
  · obtain ⟨h3, h20, hplain⟩ := vcpPlain_code row hrow
    intro q
    have hnot : (frameCmd f == 0x20) = false := by rw [hcmd]; simpa using h20
    rw [exec_vcpPlain hruns row hrow, State.vcpTake, State.vcpTakeKey_taken hbusy (Or.inl hcmd),
      State.vcpRun_plain hok (hcmd ▸ h3) (hver.imp hcmd.trans id) (hcmd ▸ hplain), hnot]
    rfl
  · rw [hstop, State.vcpTake, State.vcpTakeKey_taken hbusy (Or.inl hcmd), State.vcpRun_stop hok hcmd]
  · intro q
    have hphase : (field f 32 1 == 2) = false := by simpa using hphase
    have htake : s.exchangeTake false none = s.vcpTake 0x20 fun s p => s.vcpExchange false none p := by
      show (if (vcpCodes.contains (frameCmd f) && (field f 32 1 == 2) != false) = true then s else _) = _
      rw [hphase, if_neg (by simp)]
    rw [hexchange1, htake, State.vcpTake, State.vcpTakeKey_taken hbusy (Or.inl hcmd),
      State.vcpRun_plain hok (by rw [hcmd]; decide) (Or.inr hver) (by rw [hcmd]; decide), hphase, Bool.and_false]
    rfl
  · intro q
    have hphase : (field f 32 1 == 2) = true := by simpa using hphase
    have htake : s.exchangeTake true kmid = s.vcpTake 0x20 fun s p => s.vcpExchange true kmid p := by
      show (if (vcpCodes.contains (frameCmd f) && (field f 32 1 == 2) != true) = true then s else _) = _
      rw [hphase, if_neg (by simp)]
    rw [hexchange2, htake, State.vcpTake, State.vcpTakeKey_taken hbusy (Or.inl hcmd),
      State.vcpRun_plain hok (by rw [hcmd]; decide) (Or.inr hver) (by rw [hcmd]; decide), hphase, Bool.and_true, hcmd]
    rfl
  · have hexchange : ∀ b m, s.exchangeTake b m = s := fun b m => by
      simp only [State.exchangeTake, State.vcpTake, State.vcpTakeKey_idle _ hidle, ite_self]
    refine ⟨fun row hrow => ?_, ?_, ?_, ?_, ?_⟩
    · rw [exec_vcpRow hruns hrow, State.vcpTake, State.vcpTakeKey_idle _ hidle]
    · rw [hstop, State.vcpTake, State.vcpTakeKey_idle _ hidle]
    · rw [hexchange1, hexchange]
    · rw [hexchange2, hexchange]
    · show (s.actIn 1 fun s => s.rotateTake kmid) = _
      rw [State.actIn_runs hruns, State.rotateTake, State.vcpTakeKey_idle _ hidle]

/-! Critical frames (rules R384, R385, R402, R408). -/

section
variable {s : State} {f : List Byte}

theorem State.checkCritical_locked (h : s.lockdown = true) : s.checkCritical f = (some (replyOf cLOCKED [] false), s) := by
  rw [State.checkCritical, if_pos h]

theorem State.checkCritical_noKey (h : s.lockdown = false) (hkey : s.sec.cmdKey = none) :
    s.checkCritical f = (some (replyOf cNO_KEY [] false), s) := by
  rw [State.checkCritical, if_neg (by simp [h]), hkey]

section
variable {key : List Byte} (h : s.lockdown = false) (hkey : s.sec.cmdKey = some key)
include h hkey

theorem State.checkCritical_tag (htag : frameTag key f ≠ slice f 16 16) :
    s.checkCritical f = (some (replyOf cAUTH_FAIL [] false), (s.bump 0x80118 1).tagFailure) := by
  rw [State.checkCritical, if_neg (by simp [h]), hkey]
  exact if_pos htag

theorem State.checkCritical_replay (htag : frameTag key f = slice f 16 16) (hctr : field f 8 8 ≤ s.sec.lastCtr.toNat) :
    s.checkCritical f = (some (replyOf cREPLAY (if field f 8 8 = s.sec.lastCtr.toNat ∧ field f 8 8 ≠ 0 then [s.sec.lastStatus] else []) true),
      (s.bump 0x8011C 1).replayFailure) := by
  rw [State.checkCritical, if_neg (by simp [h]), hkey]
  exact (if_neg (Classical.not_not.mpr htag)).trans (if_pos hctr)

theorem State.checkCritical_accepted (htag : frameTag key f = slice f 16 16) (hctr : s.sec.lastCtr.toNat < field f 8 8) :
    s.checkCritical f = (none, ({ s with sec := { s.sec with lastCtr := BitVec.ofNat 64 (field f 8 8) } }.setRf 0x411C 8 8 0).setRf 0x411C 16 8 0) := by
  rw [State.checkCritical, if_neg (by simp [h]), hkey]
  exact (if_neg (Classical.not_not.mpr htag)).trans (if_neg (by omega))

end

/-- A key that takes over after the response is in force from then on, with its counter at 0 (rule R402). -/
theorem State.keyAfter_some (k : List Byte) : (s.keyAfter (some k)).sec.cmdKey = some k ∧ (s.keyAfter (some k)).sec.lastCtr = 0 := ⟨rfl, rfl⟩

end

/-- Settles O51: the frame of a critical command by its checks in order; the commands differ in their code and in what they run. -/
theorem criticalFrames : Obligations.CriticalFrames := by
  intro s hruns f hbusy hok hver hzero mid kmid c run hc
  have hexec : exec c s = .next (s.vcpRun f run).done ∧ frameCmd f ≠ 3 ∧ vcpCritical (frameCmd f) = true := by
    rcases hc with ⟨row, hrow, rfl, hcmd, rfl⟩ | ⟨rfl, hcmd, rfl⟩
    · obtain ⟨hmem, h1, h3, hcrit⟩ := vcpCriticalRows_code mid row hrow
      refine ⟨?_, hcmd ▸ h3, hcmd ▸ hcrit⟩
      rw [exec_vcpCritical hruns mid row hrow, State.vcpTake, State.vcpTakeKey_taken hbusy (Or.inl hcmd)]
    · refine ⟨?_, by rw [hcmd]; decide, by rw [hcmd]; decide⟩
      show (s.actIn 1 fun s => s.rotateTake kmid) = _
      rw [State.actIn_runs hruns, State.rotateTake, State.vcpTakeKey_taken hbusy (Or.inl hcmd)]
      cases kmid <;> rfl
  obtain ⟨hexec, h3, hcrit⟩ := hexec
  have hversion : frameCmd f = 1 ∨ ¬ (s.sdio.ver ≠ some (field f 4 1) ∨ field f 5 1 ≠ 0) := Or.inr (by simp [hver, hzero])
  refine ⟨fun hlock => ?_, fun hlock hkey => ?_, fun key hlock hkey => ⟨fun htag => ?_, fun htag hctr => ?_, fun htag hctr => ?_⟩⟩
  · rw [hexec, State.vcpRun_refused hok h3 hversion hcrit (State.checkCritical_locked hlock)]
  · rw [hexec, State.vcpRun_refused hok h3 hversion hcrit (State.checkCritical_noKey hlock hkey)]
  · rw [hexec, State.vcpRun_refused hok h3 hversion hcrit (State.checkCritical_tag hlock hkey htag)]
  · refine ⟨if field f 8 8 = s.sec.lastCtr.toNat ∧ field f 8 8 ≠ 0 then [s.sec.lastStatus] else [], ?_, fun heq hne => if_pos ⟨heq, hne⟩,
      fun hlt => if_neg fun h => by omega⟩
    rw [hexec, State.vcpRun_refused hok h3 hversion hcrit (State.checkCritical_replay hlock hkey htag hctr)]
  · intro u q v t
    refine ⟨?_, fun k hk => ?_⟩
    · rw [hexec, State.vcpRun_accepted hok h3 hversion hcrit (State.checkCritical_accepted hlock hkey htag hctr)]
    · show (State.keyAfter _ q.2.2.1).sec.cmdKey = some k ∧ (State.keyAfter _ q.2.2.1).sec.lastCtr = 0
      rw [hk]
      exact State.keyAfter_some k

end Sys2Proof.Machine
end

section

namespace Sys2Proof.Machine

/-! Command bits of the management plane (rules R23, R35, R57, R448, R459, R462). -/

theorem RegsBut.calm {rs : Nat → Prop} {s t : State} (h : RegsBut rs s t) (hcalm : Calm s) : Calm t := by
  obtain ⟨hfold, hcut⟩ := hcalm
  rw [h.1]
  exact ⟨hfold, hcut⟩

theorem RegsBut.respond {rs : Nat → Prop} {s t : State} (h : RegsBut rs s t) (r : Requester) (code : Nat) (w : Word) :
    RegsBut rs (s.respond r code w) (t.respond r code w) := by
  refine ⟨?_, fun a ha => h.2 a ha⟩
  rw [h.1]
  rfl

/-- The end of a command that changed registers of `rs` alone. -/
theorem RegsBut.sameBut_done {rs : Nat → Prop} {s t : State} (h : RegsBut rs s t) (hcalm : Calm s) : SameBut rs s t.done := by
  obtain ⟨hframe, hregs⟩ := State.done_sameBut (h.calm hcalm)
  refine ⟨?_, fun a ha hend => (hregs a id hend).trans (h.2 a ha)⟩
  rw [hframe, h.1]

/-- A table of words written to registers in a row. -/
def State.setRow (s : State) (base n : Nat) (w : Nat → Word) : State := (List.range n).foldl (fun s i => s.setReg (base + 4 * i) (w i)) s

theorem State.reg_setRow (s : State) (base n : Nat) (w : Nat → Word) :
    (∀ i, i < n → (s.setRow base n w).reg (base + 4 * i) = w i) ∧
    ∀ a, a < base ∨ base + 4 * n ≤ a → (s.setRow base n w).reg a = s.reg a := by
  unfold State.setRow
  induction n with
  | zero => exact ⟨fun i hi => absurd hi (by omega), fun a _ => rfl⟩
  | succ n ih =>
    obtain ⟨hin, hout⟩ := ih
    rw [List.range_succ, List.foldl_append]
    refine ⟨fun i hi => ?_, fun a ha => ?_⟩
    · by_cases h : i = n
      · rw [h]
        exact State.reg_setReg_self ..
      · exact (State.reg_setReg_ne _ _ (by omega)).trans (hin i (by omega))
    · exact (State.reg_setReg_ne _ _ (by omega)).trans (hout a (by omega))

theorem State.reg_setRow_in (s : State) (base : Nat) {n i : Nat} (w : Nat → Word) (h : i < n) : (s.setRow base n w).reg (base + 4 * i) = w i :=
  (s.reg_setRow base n w).1 i h

theorem State.reg_setRow_out (s : State) {base n a : Nat} (w : Nat → Word) (h : a < base ∨ base + 4 * n ≤ a) : (s.setRow base n w).reg a = s.reg a :=
  (s.reg_setRow base n w).2 a h

theorem RegsBut.setRow {rs : Nat → Prop} {s t : State} (h : RegsBut rs s t) {base n : Nat} (w : Nat → Word) (hrs : ∀ i, i < n → rs (base + 4 * i)) :
    RegsBut rs s (t.setRow base n w) :=
  h.foldl _ fun i hi _ => RegsBut.refl.setReg (hrs i (List.mem_range.mp hi)) _

theorem State.telSnap_eq (s : State) : s.telSnap =
    (((s.setRow 0x72108 4 fun i => s.fabric.tel.getD i 0).setRow 0x72200 0x49 fun e => s.fabric.tel.getD (4 + e) 0).bumpWrap 0x72104 1).intRaise
      .tel 0 := rfl

theorem State.telSnap_regsBut (s : State) : RegsBut (fun a => 0x72000 ≤ a ∧ a < 0x73000) s s.telSnap := by
  rw [State.telSnap_eq]
  exact (((RegsBut.refl.setRow _ (by omega)).setRow _ (by omega)).bumpWrap (by omega) 1).intRaise (by decide) 0

theorem State.telSnap_seq (s : State) : s.telSnap.reg 0x72104 = s.reg 0x72104 + 1 := by
  rw [State.telSnap_eq, State.reg_intRaise_off _ _ _ (by decide), State.bumpWrap, State.reg_setReg_self, State.reg_setRow_out _ _ (by omega),
    State.reg_setRow_out _ _ (by omega)]
  rfl

theorem State.telSnap_low (s : State) {i : Nat} (hi : i < 4) : s.telSnap.reg (0x72108 + 4 * i) = s.fabric.tel.getD i 0 := by
  rw [State.telSnap_eq, State.reg_intRaise_off _ _ _ (by omega), State.bumpWrap, State.reg_setReg_ne _ _ (by omega),
    State.reg_setRow_out _ _ (by omega), State.reg_setRow_in _ _ _ hi]

theorem State.telSnap_high (s : State) {e : Nat} (he : e < 0x49) : s.telSnap.reg (0x72200 + 4 * e) = s.fabric.tel.getD (4 + e) 0 := by
  rw [State.telSnap_eq, State.reg_intRaise_off _ _ _ (by omega), State.bumpWrap, State.reg_setReg_ne _ _ (by omega),
    State.reg_setRow_in _ _ _ he]

theorem State.telSnap_event (s : State) : bit (s.telSnap.reg 0x72014) 0 = true := by
  rw [State.telSnap_eq]
  exact State.intRaise_self _ .tel 0 (by decide)

/-- A write of MGMT_WD with KICK that leaves the other fields (rule R462). -/
theorem State.storeReg_kick {s : State} (h : s.reg 0x5128 = s.reg 0x5128 &&& 0xFF0) :
    s.storeReg .fault 0x128 (setBit (s.reg 0x5128) 0 true) = s.setReg 0x5128 (s.reg 0x5128) := by
  have hword : ∀ w : Word, w = w &&& 0xFF0 →
      (((w &&& ~~~ w32 0xFF0) ||| (setBit w 0 true &&& w32 0xFF0)) &&& ~~~ (setBit w 0 true &&& w32 0)) ||| (setBit w 0 true &&& w32 0) = w := by
    intro w hw
    have hset : setBit w 0 true &&& w32 0xFF0 = w &&& w32 0xFF0 := by
      refine BitVec.eq_of_getLsbD_eq fun i hi => ?_
      simp only [BitVec.getLsbD_and]
      by_cases h0 : i = 0
      · subst h0
        rw [show (w32 0xFF0).getLsbD 0 = false from rfl, Bool.and_false, Bool.and_false]
      · rw [show (setBit w 0 true).getLsbD i = w.getLsbD i from bit_setBit_ne w true hi h0]
    have hkept : w &&& w32 0xFF0 = w := hw.symm
    have hgone : w &&& ~~~ w32 0xFF0 = 0#32 := by
      rw [hw, BitVec.and_assoc]
      exact (congrArg (w &&& ·) (by decide : (0xFF0 : Word) &&& ~~~ w32 0xFF0 = 0#32)).trans (BitVec.and_zero ..)
    rw [hset, hkept, hgone, show w32 0 = 0#32 from rfl, BitVec.and_zero, BitVec.not_zero, BitVec.and_allOnes, BitVec.or_zero, BitVec.zero_or]
  show s.setReg 0x5128 _ = _
  exact congrArg (s.setReg 0x5128) (hword _ h)

/-- Settles O12: each register by what its block does with the write or the read. -/
theorem planeRegisters : Obligations.PlaneRegisters := by
  refine ⟨fun s r => ⟨fun h => ?_, fun h hlimit hkeep => ?_, fun h => ?_, fun h => ?_, fun h => ?_⟩, fun s r h hcalm => ?_⟩
  · show (s.act fun s => s.regWrite r (wordAccess (Page.base .rate + 0x134)) 1) = _
    rw [act_pageWrite 1 (by decide) rfl h]
    rfl
  · have hlimit' : 2 ≤ fld (setBit (s.reg 0x5128) 0 true) 4 8 := by
      rw [setBit, fld_setFld_apart _ _ (Or.inr (by decide))]
      exact hlimit
    have hkick : bit (setBit (s.reg 0x5128) 0 true) 0 = true := bit_setBit_self _ _ (by decide)
    have hwrite : s.writeFault .mgmt 0x128 (setBit (s.reg 0x5128) 0 true) = (cOK, (s.setReg 0x5128 (s.reg 0x5128)).kick) := by
      have hstore : s.mgmtStore .mgmt .fault 0x128 (setBit (s.reg 0x5128) 0 true) (fld (setBit (s.reg 0x5128) 0 true) 4 8 < 2) =
          (cOK, s.setReg 0x5128 (s.reg 0x5128)) := by
        rw [State.mgmtStore, if_neg (by simp; omega), State.store, State.storeReg_kick hkeep]
      show Prod.map id (fun t : State => if Requester.mgmt = .mgmt ∧ 2 ≤ fld (setBit (s.reg 0x5128) 0 true) 4 8 ∧
        bit (setBit (s.reg 0x5128) 0 true) 0 = true then t.kick else t)
          (s.mgmtStore .mgmt .fault 0x128 (setBit (s.reg 0x5128) 0 true) (fld (setBit (s.reg 0x5128) 0 true) 4 8 < 2)) = _
      rw [hstore, Prod.map_apply, if_pos ⟨rfl, hlimit', hkick⟩, id]
    have hserve : s.serveWrite .mgmt .fault 0x128 (setBit (s.reg 0x5128) 0 true) = s.writeFault .mgmt 0x128 (setBit (s.reg 0x5128) 0 true) := rfl
    show (s.act fun s => s.kickWrite .mgmt) = _
    rw [State.act_up h.1]
    show Host.Outcome.next (s.regWrite .mgmt (wordAccess (Page.base .fault + 0x128)) (setBit (s.reg 0x5128) 0 true)).done = _
    rw [← State.act_up h.1 fun s' => s'.regWrite .mgmt (wordAccess (Page.base .fault + 0x128)) (setBit (s.reg 0x5128) 0 true),
      act_pageWrite _ (by decide) rfl h, hserve, hwrite]
    rfl
  · show (s.act fun s => s.regWrite r (wordAccess (Page.base .fault + 0x12C)) 1) = _
    rw [act_pageWrite 1 (by decide) rfl h]
    rfl
  · show (s.act fun s => s.regWrite r (wordAccess (Page.base .acl + 0x10C)) 1) = _
    rw [act_pageWrite 1 (by decide) rfl h]
    rfl
  · show (s.act fun s => s.regRead r (wordAccess (Page.base .fault + 0x104))) = _
    rw [act_pageRead (by decide) rfl h]
    rfl
  · have hframe := s.telSnap_regsBut
    have hexec : exec (.telSnap r) s = .next ((s.telSnap.respond r cOK 0).done) := by
      show (s.act fun s => s.regWrite r (wordAccess (Page.base .tel + 0x100)) 1) = _
      rw [act_pageWrite 1 (by decide) rfl h]
      rfl
    have hcalm' : Calm (s.telSnap.respond r cOK 0) := (hframe.respond r cOK 0).calm hcalm
    have hreg : ∀ a, a ∉ endRegs → (s.telSnap.respond r cOK 0).done.reg a = s.telSnap.reg a := fun a ha =>
      (State.done_reg hcalm' ha).trans (State.respond_reg ..)
    refine ⟨_, hexec, (hframe.respond r cOK 0).sameBut_done hcalm, ?_, fun i hi => ?_, fun e he => ?_, ?_⟩
    · rw [hreg _ (by decide), State.telSnap_seq]
    · rw [hreg (0x72108 + 4 * i) (by simp only [endRegs, List.mem_cons, List.not_mem_nil, or_false]; omega), s.telSnap_low hi]
    · rw [hreg (0x72200 + 4 * e) (by simp only [endRegs, List.mem_cons, List.not_mem_nil, or_false]; omega), s.telSnap_high he]
    · rw [hreg _ (by decide), State.telSnap_event]

end Sys2Proof.Machine
end

section

namespace Sys2Proof.Machine

/-! The management tick and its watchdog (rules R21–R23, R352, R440, R459). -/

/-- An event is counted, and its class is pending (rule R453). -/
def State.faultNoted (s : State) (cls : Nat) : State :=
  let s := s.bump 0x5110 1
  s.setReg 0x5118 (s.reg 0x5118 ||| w32 (2 ^ cls))

/-- The newest record, at `newest`, takes a repeated event (rule R453). -/
def State.faultMerged (s : State) (newest : Nat) (tc : Tc) (hi : Nat) (total : Word) : State :=
  let s := s.setReg (newest + 16) s.stamp
  let s := s.setReg (newest + 20) (w32 tc.sec.toNat)
  let rep := satAdd 0xFFFF (s.rf (newest + 24) 16 16) 1
  let s := s.setReg (newest + 24) (w32 (hi + rep * 65536))
  s.setReg (newest + 28) total

/-- A new record at HEAD, whose overwriting of another counts (rule R453). -/
def State.faultRecord (s : State) (head : Nat) (w0 id addr detail : Word) (tc : Tc) (hi : Nat) (total : Word) : State :=
  let a := 0x5800 + 32 * head
  let s := if s.reg (a + 28) ≠ 0 then (s.bump 0x5114 1).intRaise .fault 1 else s
  let s := s.setReg a w0
  let s := s.setReg (a + 4) id
  let s := s.setReg (a + 8) addr
  let s := s.setReg (a + 12) detail
  let s := s.setReg (a + 16) s.stamp
  let s := s.setReg (a + 20) (w32 tc.sec.toNat)
  let s := s.setReg (a + 24) (w32 hi)
  let s := s.setReg (a + 28) total
  let s := s.setReg 0x510C (w32 ((head + 1) % 64))
  s.intRaise .fault 0

theorem State.faultEvent_cases (s : State) (p : Page) (cls code source ctx addr detail : Nat) :
    (∃ hi total tc, s.faultEvent p cls code source ctx addr detail =
      (s.faultNoted cls).faultMerged (0x5800 + 32 * (((s.faultNoted cls).rf 0x510C 0 6 + 63) % 64)) tc hi total) ∨
    ∃ w0 id hi total tc, s.faultEvent p cls code source ctx addr detail =
      (s.faultNoted cls).faultRecord ((s.faultNoted cls).rf 0x510C 0 6) w0 id (w32 addr) (w32 detail) tc hi total := by
  unfold State.faultEvent State.faultMerged State.faultRecord State.faultNoted
  dsimp only
  split
  · exact Or.inl ⟨_, _, _, rfl⟩
  · exact Or.inr ⟨_, _, _, _, _, rfl⟩

theorem State.faultNoted_regsBut (s : State) (cls : Nat) : RegsBut (fun a => 0x5000 ≤ a ∧ a < 0x6000) s (s.faultNoted cls) :=
  (RegsBut.refl.bump (by decide) _).setReg (by decide) _

theorem State.faultMerged_regsBut (s : State) {newest : Nat} (tc : Tc) (hi : Nat) (total : Word) (h : 0x5800 ≤ newest ∧ newest + 32 ≤ 0x6000) :
    RegsBut (fun a => 0x5000 ≤ a ∧ a < 0x6000) s (s.faultMerged newest tc hi total) :=
  (((RegsBut.refl.setReg (by omega) _).setReg (by omega) _).setReg (by omega) _).setReg (by omega) _

theorem State.faultRecord_regsBut (s : State) {head : Nat} (w0 id addr detail : Word) (tc : Tc) (hi : Nat) (total : Word) (h : head < 64) :
    RegsBut (fun a => 0x5000 ≤ a ∧ a < 0x6000) s (s.faultRecord head w0 id addr detail tc hi total) := by
  have hfirst : RegsBut (fun a => 0x5000 ≤ a ∧ a < 0x6000) s
      (if s.reg (0x5800 + 32 * head + 28) ≠ 0 then (s.bump 0x5114 1).intRaise .fault 1 else s) :=
    .ite ((RegsBut.refl.bump (by decide) _).intRaise (by decide) _) .refl
  exact ((((((((((hfirst.setReg (by omega) _).setReg (by omega) _).setReg (by omega) _).setReg (by omega) _).setReg (by omega) _).setReg
    (by omega) _).setReg (by omega) _).setReg (by omega) _).setReg (by decide) _).intRaise (by decide) _)

/-- An event on the fault alarm path touches its own page alone (rules R452, R453). -/
theorem State.faultEvent_regsBut (s : State) (p : Page) (cls code source ctx addr detail : Nat) :
    RegsBut (fun a => 0x5000 ≤ a ∧ a < 0x6000) s (s.faultEvent p cls code source ctx addr detail) := by
  have hhead : (s.faultNoted cls).rf 0x510C 0 6 < 64 := fld_lt ..
  rcases s.faultEvent_cases p cls code source ctx addr detail with ⟨hi, total, tc, heq⟩ | ⟨w0, id, hi, total, tc, heq⟩
  · rw [heq]
    exact (s.faultNoted_regsBut cls).trans (State.faultMerged_regsBut _ tc hi total (by omega))
  · rw [heq]
    exact (s.faultNoted_regsBut cls).trans (State.faultRecord_regsBut _ w0 id _ _ tc hi total hhead)

/-- The class of an event is pending after it (rule R453). -/
theorem State.faultEvent_pend (s : State) (p : Page) {cls : Nat} (code source ctx addr detail : Nat) (hcls : cls < 32) :
    bit ((s.faultEvent p cls code source ctx addr detail).reg 0x5118) cls = true := by
  have hhead : (s.faultNoted cls).rf 0x510C 0 6 < 64 := fld_lt ..
  have hnoted : bit ((s.faultNoted cls).reg 0x5118) cls = true := by
    rw [State.faultNoted, State.reg_setReg_self, bit_or, bit_w32_pow cls hcls]
    simp
  rcases s.faultEvent_cases p cls code source ctx addr detail with ⟨hi, total, tc, heq⟩ | ⟨w0, id, hi, total, tc, heq⟩
  · rw [heq, State.faultMerged]
    simp (disch := omega) only [State.reg_setReg_ne, hnoted]
  · have hkeeps : ((s.faultNoted cls).faultRecord ((s.faultNoted cls).rf 0x510C 0 6) w0 id (w32 addr) (w32 detail) tc hi total).reg 0x5118 =
        (s.faultNoted cls).reg 0x5118 := by
      generalize s.faultNoted cls = u at *
      rw [State.faultRecord, State.reg_intRaise_off _ _ _ (by decide)]
      simp (disch := omega) only [State.reg_setReg_ne]
      split
      · rw [State.reg_intRaise_off _ _ _ (by decide), State.bump, State.reg_setReg_ne _ _ (by decide)]
      · rfl
    rw [heq, hkeeps, hnoted]

/-! What a tick's work leaves alone. -/

/-- What only the start and the end of a tick's work change. -/
def State.tickPart (s : State) : TimeBase × List Nat × Cells (Option Running) × List Word × Nat :=
  (s.time, s.foldDue, s.head.running, s.fabric.tel, s.fabric.wd)

theorem RegsBut.tickPart {rs : Nat → Prop} {s t : State} (h : RegsBut rs s t) : t.tickPart = s.tickPart := by rw [h.1]; rfl

/-- The bits of a 64-bit counter after it was raised. -/
theorem State.bump64_value (s : State) (a n : Nat) :
    ((s.bump64 a n).reg a).toNat + 2 ^ 32 * ((s.bump64 a n).reg (a + 4)).toNat =
      ((s.reg a).toNat + 2 ^ 32 * (s.reg (a + 4)).toNat + n) % 2 ^ 64 := by
  unfold State.bump64
  dsimp only
  rw [State.reg_setReg_ne _ _ (by omega), State.reg_setReg_self, State.reg_setReg_self, w32, w32, BitVec.toNat_ofNat, BitVec.toNat_ofNat]
  omega

theorem State.bump64_regsBut (s : State) (a n : Nat) : RegsBut (fun b => b = a ∨ b = a + 4) s (s.bump64 a n) :=
  (RegsBut.refl.setReg (Or.inl rfl) _).setReg (Or.inr rfl) _

/-- The energy of a domain enters its meter, the contexts' accounts and what nobody claims: registers and accounts (rules R352, R440). -/
theorem State.energyOf_fixes {β : Type} (g : State → β) (hreg : ∀ (t : State) a v, g (t.setReg a v) = g t)
    (hhg : ∀ (t : State) c o v, g (t.setHg c o v) = g t) (s : State) (d e : Nat) : g (s.energyOf d e) = g s := by
  unfold State.energyOf State.bump State.bump64
  dsimp only
  rw [hreg]
  refine (foldl_fixes g (by intro t x; exact (hhg _ _ _ _).trans (hhg _ _ _ _)) _ _).trans ?_
  rw [hreg, hreg]

/-- What domain `d` was charged over the tick: the measured energy, unless the domain was OFF all through it. -/
def State.charged (s : State) (d e : Nat) : Nat := if s.power.fed.getLsbD d then e else 0

/-- A domain's meter after its energy entered it, and the other registers. -/
theorem State.energyOf_regs (s : State) (d e : Nat) : ∀ a, a ≠ 0x10214 → (s.energyOf d e).reg a = (s.bump64 (0x73200 + 8 * d) (s.charged d e)).reg a := by
  intro a ha
  unfold State.energyOf State.bump
  dsimp only
  rw [State.reg_setReg_ne _ _ ha]
  exact foldl_fixes (State.reg · a) (by intro t x; rfl) _ _

/-- The meters after the energies of `n` domains entered them. -/
theorem State.energies_meters (s : State) (e : Nat → Nat) (n : Nat) :
    ((List.range n).foldl (fun s d => s.energyOf d (e d)) s).power = s.power ∧
    (∀ a, a ≠ 0x10214 → (∀ d, d < n → a ≠ 0x73200 + 8 * d ∧ a ≠ 0x73204 + 8 * d) →
      ((List.range n).foldl (fun s d => s.energyOf d (e d)) s).reg a = s.reg a) ∧
    ∀ d, d < n → (((List.range n).foldl (fun s d => s.energyOf d (e d)) s).reg (0x73200 + 8 * d)).toNat +
        2 ^ 32 * (((List.range n).foldl (fun s d => s.energyOf d (e d)) s).reg (0x73204 + 8 * d)).toNat =
      ((s.reg (0x73200 + 8 * d)).toNat + 2 ^ 32 * (s.reg (0x73204 + 8 * d)).toNat + s.charged d (e d)) % 2 ^ 64 := by
  induction n with
  | zero => exact ⟨rfl, fun a _ _ => rfl, fun d hd => absurd hd (by omega)⟩
  | succ n ih =>
    rw [List.range_succ, List.foldl_append]
    generalize (List.range n).foldl (fun s d => s.energyOf d (e d)) s = u at ih ⊢
    obtain ⟨hpower, hother, hmeter⟩ := ih
    show (u.energyOf n (e n)).power = _ ∧ _
    have hcharged : u.charged n (e n) = s.charged n (e n) := by rw [State.charged, hpower, State.charged]
    have hother' : ∀ a, a ≠ 0x10214 → a ≠ 0x73200 + 8 * n → a ≠ 0x73204 + 8 * n → (u.energyOf n (e n)).reg a = u.reg a := fun a h1 h2 h3 => by
      rw [State.energyOf_regs u n (e n) a h1]
      exact (u.bump64_regsBut _ _).2 a (by omega)
    refine ⟨(State.energyOf_fixes State.power (fun _ _ _ => rfl) (fun _ _ _ _ => rfl) u n (e n)).trans hpower, fun a ha hd => ?_, fun d hd => ?_⟩
    · obtain ⟨hlo, hhi⟩ := hd n (by omega)
      exact (hother' a ha hlo hhi).trans (hother a ha fun d hd' => hd d (by omega))
    · by_cases hdn : d = n
      · subst hdn
        have hold : u.reg (0x73200 + 8 * d) = s.reg (0x73200 + 8 * d) ∧ u.reg (0x73204 + 8 * d) = s.reg (0x73204 + 8 * d) :=
          ⟨hother _ (by omega) (by omega), hother _ (by omega) (by omega)⟩
        have hval := u.bump64_value (0x73200 + 8 * d) (u.charged d (e d))
        rw [show 0x73200 + 8 * d + 4 = 0x73204 + 8 * d by omega, hold.1, hold.2, hcharged] at hval
        show ((u.energyOf d (e d)).reg _).toNat + 2 ^ 32 * ((u.energyOf d (e d)).reg _).toNat = _
        rw [State.energyOf_regs u d (e d) _ (by omega), State.energyOf_regs u d (e d) _ (by omega), hcharged, hval]
      · show ((u.energyOf n (e n)).reg _).toNat + 2 ^ 32 * ((u.energyOf n (e n)).reg _).toNat = _
        rw [hother' _ (by omega) (by omega) (by omega), hother' _ (by omega) (by omega) (by omega)]
        exact hmeter d (by omega)

/-! PMBus reads (rules R418, R421, R443). -/

/-- The four PMBus reads of a tick. -/
def State.pmbReads (s : State) (t : TickInputs) : State :=
  let ok := fun i : Nat => !t.nack.getLsbD i
  let s := ((s.pmbGet (ok 0) 0x74104 t.statusWord.toNat).pmbGet (ok 1) 0x74108 t.voutMv.toNat).pmbGet (ok 2) 0x7410C t.ioutMa.toNat
  if ok 3 then s else (s.bump 0x74110 1).intRaise .pmb 1

/-- The check of READ_VOUT that follows a level change. -/
def State.pmbChecked (s : State) (due : Bool) (v : Nat) : State :=
  let s := { s with power := { s.power with smbalert := false, checkVout := s.power.checkVout && !due } }
  let aim := s.rf (0x73100 + 4 * s.power.vcore) 0 10
  if due ∧ aim * 2 < 100 * (max v aim - min v aim) then s.pmbFault else s

theorem State.pmbRead_eq (s : State) (t : TickInputs) : s.pmbRead t =
    (s.pmbReads t).pmbChecked ((s.pmbReads t).power.checkVout && (s.pmbReads t).power.seq.isNone && !t.nack.getLsbD 1) t.voutMv.toNat := rfl

theorem State.pmbGet_regsBut (s : State) (ok : Bool) {a : Nat} (v : Nat) :
    RegsBut (fun b => b = a ∨ b = 0x74110 ∨ b = 0x74014) s (s.pmbGet ok a v) := by
  unfold State.pmbGet
  exact .ite (RegsBut.refl.setReg (Or.inl rfl) _) ((RegsBut.refl.bump (by omega) _).intRaise (Or.inr (Or.inr rfl)) _)

theorem State.pmbGet_ok (s : State) {ok : Bool} (a v : Nat) (h : ok = true) : (s.pmbGet ok a v).reg a = w32 v := by
  rw [State.pmbGet, if_pos h, State.reg_setReg_self]

/-- What the four reads leave in the registers of the first two. -/
theorem State.pmbReads_spec (s : State) (t : TickInputs) :
    RegsBut (fun a => 0x74000 ≤ a ∧ a < 0x75000) s (s.pmbReads t) ∧
    (t.nack.getLsbD 0 = false → (s.pmbReads t).reg 0x74104 = w32 t.statusWord.toNat) ∧
    (t.nack.getLsbD 1 = false → (s.pmbReads t).reg 0x74108 = w32 t.voutMv.toNat) := by
  have h0 := s.pmbGet_regsBut (!t.nack.getLsbD 0) (a := 0x74104) t.statusWord.toNat
  have hread0 := s.pmbGet_ok (ok := !t.nack.getLsbD 0) 0x74104 t.statusWord.toNat
  unfold State.pmbReads
  dsimp only
  generalize s.pmbGet (!t.nack.getLsbD 0) 0x74104 t.statusWord.toNat = s0 at *
  have h1 := s0.pmbGet_regsBut (!t.nack.getLsbD 1) (a := 0x74108) t.voutMv.toNat
  have hread1 := s0.pmbGet_ok (ok := !t.nack.getLsbD 1) 0x74108 t.voutMv.toNat
  generalize s0.pmbGet (!t.nack.getLsbD 1) 0x74108 t.voutMv.toNat = s1 at *
  have h2 := s1.pmbGet_regsBut (!t.nack.getLsbD 2) (a := 0x7410C) t.ioutMa.toNat
  generalize s1.pmbGet (!t.nack.getLsbD 2) 0x7410C t.ioutMa.toNat = s2 at *
  have h3 : RegsBut (fun b => b = 0x74110 ∨ b = 0x74014) s2 (if (!t.nack.getLsbD 3) = true then s2 else (s2.bump 0x74110 1).intRaise .pmb 1) :=
    .ite .refl ((RegsBut.refl.bump (Or.inl rfl) _).intRaise (Or.inr rfl) _)
  refine ⟨((h0.mono ?_).trans (h1.mono ?_)).trans ((h2.mono ?_).trans (h3.mono ?_)), fun hok => ?_, fun hok => ?_⟩
  · omega
  · omega
  · omega
  · omega
  · rw [h3.2 _ (by omega), h2.2 _ (by omega), h1.2 _ (by omega), hread0 (by rw [hok]; rfl)]
  · rw [h3.2 _ (by omega), h2.2 _ (by omega), hread1 (by rw [hok]; rfl)]

theorem State.pmbChecked_spec (s : State) (due : Bool) (v : Nat) : (s.pmbChecked due v).tickPart = s.tickPart ∧
    ∀ a, a ≠ 0x74010 → a ≠ 0x74014 → a < 0x5000 ∨ 0x6000 ≤ a → (s.pmbChecked due v).reg a = s.reg a := by
  have hpower : ∀ p : Power, State.tickPart { s with power := p } = s.tickPart ∧ ∀ a, State.reg { s with power := p } a = s.reg a :=
    fun p => ⟨rfl, fun _ => rfl⟩
  have hfault : ∀ u : State, RegsBut (fun a => a = 0x74010 ∨ a = 0x74014 ∨ (0x5000 ≤ a ∧ a < 0x6000)) u u.pmbFault := fun u =>
    ((RegsBut.refl.intRaise (Or.inr (Or.inl rfl)) 0).lastCode (Or.inl rfl) cDEGRADED).trans
      ((State.faultEvent_regsBut _ _ _ _ _ _ _ _).mono fun a ha => Or.inr (Or.inr ha))
  unfold State.pmbChecked
  dsimp only
  obtain ⟨hpart, hregs⟩ := hpower { s.power with smbalert := false, checkVout := s.power.checkVout && !due }
  split
  · exact ⟨(hfault _).tickPart.trans hpart, fun a h1 h2 h3 => ((hfault _).2 a (by omega)).trans (hregs a)⟩
  · exact ⟨hpart, fun a _ _ _ => hregs a⟩

/-! Throttling (rule R420). -/

theorem State.levelStart_spec (s : State) (new : Nat) :
    (s.levelStart new).tickPart = s.tickPart ∧ ∀ a, a ≠ 0x73124 → (s.levelStart new).reg a = s.reg a := by
  unfold State.levelStart
  dsimp only
  split
  · exact ⟨rfl, fun _ _ => rfl⟩
  · split
    · exact ⟨rfl, fun a ha => State.reg_setReg_ne _ _ ha⟩
    · exact ⟨rfl, fun a ha => (State.reg_setReg_ne _ _ ha).trans (State.reg_setReg_ne _ _ ha)⟩

theorem State.levelRequest_spec (s : State) (new : Nat) :
    (s.levelRequest new).tickPart = s.tickPart ∧ ∀ a, a ≠ 0x73124 → (s.levelRequest new).reg a = s.reg a := by
  unfold State.levelRequest
  split
  · exact ⟨rfl, fun _ _ => rfl⟩
  · exact s.levelStart_spec new

theorem State.throttle_spec (s : State) (tj : Int) :
    (s.throttle tj).tickPart = s.tickPart ∧ ∀ a, a ≠ 0x73014 → a ≠ 0x73124 → (s.throttle tj).reg a = s.reg a := by
  unfold State.throttle
  dsimp only
  split
  · split
    · obtain ⟨hpart, hregs⟩ := State.levelRequest_spec { s.intRaise .perf 2 with power := { s.power with throttled := true } } (inForce s - 1)
      exact ⟨hpart, fun a h1 h2 => (hregs a h2).trans (State.reg_setReg_ne _ _ h1)⟩
    · exact ⟨rfl, fun _ _ _ => rfl⟩
  · split
    · obtain ⟨hpart, hregs⟩ := s.levelRequest_spec (inForce s + 1)
      exact ⟨hpart, fun a _ h2 => hregs a h2⟩
    · exact ⟨rfl, fun _ _ _ => rfl⟩

/-! The tick as a whole. -/

/-- The tick's count, its lateness and its telemetry (rules R22, R23). -/
def State.tickNoted (s : State) (t : TickInputs) : State :=
  let s := s.bump64 0x70104 1
  let s := if t.late then (s.bump 0x7010C 1).intRaise .mbox 0 else s
  { s with fabric := { s.fabric with tel := s.telemetry t } }

def State.tickEnergies (s : State) (t : TickInputs) : State := (List.range 36).foldl (fun s d => s.energyOf d (t.energy.getD d 0).toNat) s

theorem State.mgmtTick_eq {s : State} (t : TickInputs) (h : s.mgmtRuns = true) : s.mgmtTick t =
    (((((s.tickNoted t).tickEnergies t).setReg 0x73130 (w32 t.tj.toNat)).pmbRead t).throttle (sext 16 t.tj.toNat)).tickEnd.tickMarks := by
  rw [State.mgmtTick, if_neg (by simp [h])]
  rfl

theorem State.telemetry_congr {s u : State} (htime : u.time = s.time) (hhead : u.head = s.head) (hlevel : inForce u = inForce s) (t : TickInputs) :
    u.telemetry t = s.telemetry t := by
  have htc : ∀ n, u.now n = s.now n := fun n => by rw [State.now, State.tc_congr htime, State.now]
  have hwork : u.workTime = s.workTime := by
    funext w
    simp only [State.workTime, htc, hhead]
  simp only [State.telemetry, State.stamp, State.engBusy, State.works, hwork, htc, hhead, hlevel]

theorem State.tickNoted_spec (s : State) (t : TickInputs) :
    ((s.tickNoted t).time = s.time ∧ (s.tickNoted t).foldDue = s.foldDue ∧ (s.tickNoted t).head = s.head ∧ (s.tickNoted t).power = s.power ∧
      (s.tickNoted t).fabric.tel = s.telemetry t ∧ (s.tickNoted t).fabric.wd = s.fabric.wd) ∧
    (∀ a, a < 0x70000 ∨ 0x71000 ≤ a → (s.tickNoted t).reg a = s.reg a) ∧
    ((s.tickNoted t).reg 0x70104).toNat + 2 ^ 32 * ((s.tickNoted t).reg 0x70108).toNat =
      ((s.reg 0x70104).toNat + 2 ^ 32 * (s.reg 0x70108).toNat + 1) % 2 ^ 64 := by
  have hcount := s.bump64_regsBut 0x70104 1
  have hvalue := s.bump64_value 0x70104 1
  unfold State.tickNoted
  generalize s.bump64 0x70104 1 = u at *
  have hlate : RegsBut (fun a => a = 0x7010C ∨ a = 0x70014) u (if t.late then (u.bump 0x7010C 1).intRaise .mbox 0 else u) :=
    .ite ((RegsBut.refl.bump (Or.inl rfl) _).intRaise (Or.inr rfl) _) .refl
  dsimp only
  generalize (if t.late then (u.bump 0x7010C 1).intRaise .mbox 0 else u) = v at *
  have hall : RegsBut (fun a => 0x70000 ≤ a ∧ a < 0x71000) s v := (hcount.mono (by omega)).trans (hlate.mono (by omega))
  have htime : v.time = s.time := by rw [hall.1]
  have hhead : v.head = s.head := by rw [hall.1]
  have htel : v.telemetry t = s.telemetry t := State.telemetry_congr htime hhead (by rw [inForce, State.rf, hall.2 _ (by decide)]; rfl) t
  refine ⟨⟨htime, by rw [hall.1], hhead, by rw [hall.1], htel, by rw [hall.1]⟩, fun a ha => hall.2 a (by omega), ?_⟩
  · show (v.reg 0x70104).toNat + 2 ^ 32 * (v.reg 0x70108).toNat = _
    rw [hlate.2 _ (by decide), hlate.2 _ (by decide), ← hvalue]

/-- The energies of a tick enter the meters of all domains. -/
theorem State.tickEnergies_regs (s : State) (t : TickInputs) {a : Nat} (h : a ≠ 0x10214)
    (hmeter : ∀ d, d < 36 → a ≠ 0x73200 + 8 * d ∧ a ≠ 0x73204 + 8 * d) : (s.tickEnergies t).reg a = s.reg a :=
  (s.energies_meters (fun d => (t.energy.getD d 0).toNat) 36).2.1 a h hmeter

theorem State.tickEnergies_meter (s : State) (t : TickInputs) {d : Nat} (hd : d < 36) :
    ((s.tickEnergies t).reg (0x73200 + 8 * d)).toNat + 2 ^ 32 * ((s.tickEnergies t).reg (0x73204 + 8 * d)).toNat =
      ((s.reg (0x73200 + 8 * d)).toNat + 2 ^ 32 * (s.reg (0x73204 + 8 * d)).toNat + s.charged d (t.energy.getD d 0).toNat) % 2 ^ 64 :=
  (s.energies_meters (fun d => (t.energy.getD d 0).toNat) 36).2.2 d hd

theorem State.tickEnergies_tickPart (s : State) (t : TickInputs) : (s.tickEnergies t).tickPart = s.tickPart :=
  foldl_fixes State.tickPart (by intro u d; exact State.energyOf_fixes State.tickPart (fun _ _ _ => rfl) (fun _ _ _ _ => rfl) u d _) _ _

/-- A tick of running firmware: its own part, and the registers that it writes (rules R22, R23, R440, R443). -/
theorem State.mgmtTick_spec {s : State} (t : TickInputs) (h : s.mgmtRuns = true) :
    ((s.mgmtTick t).foldDue = s.foldDue ∧ (s.mgmtTick t).head.running = s.head.running ∧ (s.mgmtTick t).head.flits = [] ∧
      (s.mgmtTick t).head.tickAt = s.now 7 ∧ (s.mgmtTick t).fabric.tel = s.telemetry t ∧ (s.mgmtTick t).fabric.wd = s.fabric.wd + 1) ∧
    ((s.mgmtTick t).reg 0x70104).toNat + 2 ^ 32 * ((s.mgmtTick t).reg 0x70108).toNat =
      ((s.reg 0x70104).toNat + 2 ^ 32 * (s.reg 0x70108).toNat + 1) % 2 ^ 64 ∧
    (∀ d, d < 36 → ((s.mgmtTick t).reg (0x73200 + 8 * d)).toNat + 2 ^ 32 * ((s.mgmtTick t).reg (0x73204 + 8 * d)).toNat =
      ((s.reg (0x73200 + 8 * d)).toNat + 2 ^ 32 * (s.reg (0x73204 + 8 * d)).toNat + s.charged d (t.energy.getD d 0).toNat) % 2 ^ 64) ∧
    (s.mgmtTick t).reg 0x73130 = w32 t.tj.toNat ∧ (t.nack.getLsbD 0 = false → (s.mgmtTick t).reg 0x74104 = w32 t.statusWord.toNat) ∧
    (t.nack.getLsbD 1 = false → (s.mgmtTick t).reg 0x74108 = w32 t.voutMv.toNat) := by
  obtain ⟨⟨htime, hfold, hhead, hpower, htel, hwd⟩, hnotes, hcount⟩ := s.tickNoted_spec t
  have hpart1 := (s.tickNoted t).tickEnergies_tickPart t
  have henergies := fun {a : Nat} => (s.tickNoted t).tickEnergies_regs t (a := a)
  have hmeters := fun {d : Nat} => (s.tickNoted t).tickEnergies_meter t (d := d)
  rw [State.mgmtTick_eq t h]
  generalize (s.tickNoted t).tickEnergies t = e at *
  obtain ⟨hreads, hstatus, hvout⟩ := (e.setReg 0x73130 (w32 t.tj.toNat)).pmbReads_spec t
  rw [State.pmbRead_eq]
  generalize (e.setReg 0x73130 (w32 t.tj.toNat)).pmbReads t = p at *
  obtain ⟨hpart2, hchecked⟩ := p.pmbChecked_spec (p.power.checkVout && p.power.seq.isNone && !t.nack.getLsbD 1) t.voutMv.toNat
  generalize p.pmbChecked (p.power.checkVout && p.power.seq.isNone && !t.nack.getLsbD 1) t.voutMv.toNat = q at *
  obtain ⟨hpart3, hthrottled⟩ := q.throttle_spec (sext 16 t.tj.toNat)
  generalize q.throttle (sext 16 t.tj.toNat) = u at *
  have hpart : u.tickPart = (s.tickNoted t).tickPart := by
    have hset : RegsBut (fun _ => True) e (e.setReg 0x73130 (w32 t.tj.toNat)) := RegsBut.refl.setReg trivial _
    rw [hpart3, hpart2, hreads.tickPart, hset.tickPart, hpart1]
  have hreg : ∀ a, 0x10214 < a → a ≠ 0x73014 → a ≠ 0x73124 → a ≠ 0x73130 → a < 0x74000 → u.reg a = e.reg a := fun a h1 h2 h3 h4 h5 => by
    rw [hthrottled a h2 h3, hchecked a (by omega) (by omega) (by omega), hreads.2 a (by omega), State.reg_setReg_ne _ _ h4]
  simp only [State.tickPart, Prod.mk.injEq] at hpart
  obtain ⟨hutime, hufold, hurun, hutel, huwd⟩ := hpart
  refine ⟨⟨hufold.trans hfold, hurun.trans (congrArg _ hhead), rfl, ?_, hutel.trans htel, ?_⟩, ?_, fun d hd => ?_, ?_, fun hok => ?_,
    fun hok => ?_⟩
  · show u.now 7 = s.now 7
    rw [State.now, State.tc_congr (hutime.trans htime), State.now]
  · exact congrArg (· + 1) (huwd.trans hwd)
  · show (u.reg 0x70104).toNat + 2 ^ 32 * (u.reg 0x70108).toNat = _
    rw [hreg _ (by decide) (by decide) (by decide) (by decide) (by decide), hreg _ (by decide) (by decide) (by decide) (by decide) (by decide),
      henergies (by decide) (by omega), henergies (by decide) (by omega), hcount]
  · show (u.reg (0x73200 + 8 * d)).toNat + 2 ^ 32 * (u.reg (0x73204 + 8 * d)).toNat = _
    rw [hreg (0x73200 + 8 * d) (by omega) (by omega) (by omega) (by omega) (by omega),
      hreg (0x73204 + 8 * d) (by omega) (by omega) (by omega) (by omega) (by omega), hmeters hd, hnotes _ (by omega), hnotes _ (by omega),
      State.charged, hpower, State.charged]
  · show u.reg 0x73130 = _
    rw [hthrottled _ (by decide) (by decide), hchecked _ (by decide) (by decide) (by decide), hreads.2 _ (by decide), State.reg_setReg_self]
  · show u.reg 0x74104 = _
    rw [hthrottled _ (by decide) (by decide), hchecked _ (by decide) (by decide) (by decide), hstatus hok]
  · show u.reg 0x74108 = _
    rw [hthrottled _ (by decide) (by decide), hchecked _ (by decide) (by decide) (by decide), hvout hok]

/-! The management watchdog (rule R459). -/

theorem State.reg_resetPages (s : State) (d : Nat) {a : Nat} (h : regDomain a ≠ d) : (s.resetPages d).reg a = s.reg a := by
  have hget := Cells.get_filter (regInit a) s.regs (fun k => decide (regDomain k ≠ d) || keptOff k) a
  rw [if_pos (by simp [h])] at hget
  exact hget

/-- What the watchdog's expiry does before domain 1 starts anew: the stop line, and a record of class 3. -/
def State.dogNoted (s : State) : State := s.raiseStop.faultEvent .mbox 3 cDEGRADED (s.rf 0x70024 8 8) 0xFF (s.reg 0x70028).toNat 0

theorem State.raiseStop_frame (s : State) : s.raiseStop = { s with stopLine := true, f1Int := s.raiseStop.f1Int } := by
  unfold State.raiseStop
  split
  case isTrue h => rw [← h]
  case isFalse => rfl

theorem RegsBut.after_stop {rs : Nat → Prop} {s u t : State} (hu : u = { s with stopLine := true, f1Int := u.f1Int }) (h : RegsBut rs u t) :
    t = { s with stopLine := true, f1Int := t.f1Int, regs := t.regs } := by
  rw [h.1, hu]

theorem State.dogNoted_frame (s : State) :
    s.dogNoted = { s with stopLine := true, f1Int := s.dogNoted.f1Int, regs := s.dogNoted.regs } :=
  (State.faultEvent_regsBut s.raiseStop .mbox 3 cDEGRADED (s.rf 0x70024 8 8) 0xFF (s.reg 0x70028).toNat 0).after_stop s.raiseStop_frame

/-- Domain 1 starts anew: what it held is lost and its pages are at reset. -/
def State.dogReset (s : State) : State :=
  let s := (s.loseDomain 1).resetPages 1
  { s with fabric := { s.fabric with wd := 0 }, boot := { s.boot with resetting := true } }

theorem State.mgmtDog_eq {s : State} (hstep : s.boot.step = 3) (hwd : s.rf 0x5128 4 8 ≤ s.fabric.wd) : s.mgmtDog = s.dogNoted.dogReset := by
  rw [State.mgmtDog, if_neg (by omega)]
  rfl

theorem State.dogReset_spec (s : State) : s.dogReset.sdio = Machine.sdioReset ∧ s.dogReset.boot.step = 0 ∧ s.dogReset.fabric.wd = 0 ∧
    s.dogReset = { s with
      regs := s.dogReset.regs, perReq := s.dogReset.perReq, sdio := s.dogReset.sdio, f1Int := 0, evtMask := 0, evtPend := 0
      boot := s.dogReset.boot, fabric := s.dogReset.fabric, power := s.dogReset.power } := ⟨rfl, rfl, rfl, rfl⟩

theorem State.reg_dogReset (s : State) {a : Nat} (ha : a ≠ 0x73124) (hd : regDomain a ≠ 1) : s.dogReset.reg a = s.reg a :=
  (State.reg_resetPages _ 1 hd).trans (State.reg_setReg_ne _ _ ha)

/-- Settles O14: a tick by its stages, and the watchdog's event with the reset of domain 1. -/
theorem managementPlane : Obligations.ManagementPlane := by
  refine ⟨fun s i hup hmgmt hcalm => ?_, fun s hup hstep hwd hcalm => ?_⟩
  · obtain ⟨⟨hfold, hrunning, hflits, hat, htel, hwd⟩, hcount, hmeters, htj, hstatus, hvout⟩ := State.mgmtTick_spec i hmgmt
    have hexec : exec (.managementTick i) s = .next (s.mgmtTick i).done := by
      show (s.act fun s => s.mgmtTick i) = _
      rw [State.act_up hup]
    obtain ⟨hfoldDue, hcut⟩ := hcalm
    have hcalm' : Calm (s.mgmtTick i) := ⟨hfold.trans hfoldDue, by rw [hrunning]; exact hcut⟩
    refine ⟨_, hexec, ?_, fun d hd => ?_, ?_, fun hok => ?_, fun hok => ?_, ?_, ?_, ?_, ?_⟩
    · rw [State.done_reg hcalm' (by decide), State.done_reg hcalm' (by decide), hcount]
    · rw [State.done_reg (a := 0x73200 + 8 * d) hcalm' (by simp only [endRegs, List.mem_cons, List.not_mem_nil, or_false]; omega),
        State.done_reg (a := 0x73204 + 8 * d) hcalm' (by simp only [endRegs, List.mem_cons, List.not_mem_nil, or_false]; omega), hmeters d hd]
      rfl
    · rw [State.done_reg hcalm' (by decide), htj]
    · rw [State.done_reg hcalm' (by decide), hstatus hok]
    · rw [State.done_reg hcalm' (by decide), hvout hok]
    · rw [State.done_fabric hcalm', htel]
    · rw [State.done_head hcalm', hflits]
    · rw [State.done_head hcalm', hat]
    · rw [State.done_fabric hcalm', hwd]
  · have hexec : exec .mgmtWatchdog s = .next s.dogNoted.dogReset.done := by
      show s.act State.mgmtDog = _
      rw [State.act_up hup, State.mgmtDog_eq hstep hwd]
    obtain ⟨hsdio, hboot, hwd0, hframe⟩ := s.dogNoted.dogReset_spec
    have hnoted := s.dogNoted_frame
    have hpend : bit (s.dogNoted.dogReset.reg 0x5118) 3 = true := by
      rw [State.reg_dogReset _ (by decide) (by decide)]
      exact State.faultEvent_pend _ _ _ _ _ _ _ (by decide)
    have hcalm' : Calm s.dogNoted.dogReset := by rw [hframe, hnoted]; exact hcalm
    refine ⟨_, hexec, ?_, ?_, ?_, ?_, ?_, ?_, ?_, ?_, ?_, ?_, ?_, ?_⟩
    · rw [State.done_stopLine hcalm', hframe, hnoted]
    · rw [State.done_reg hcalm' (by decide), hpend]
    · rw [State.done_boot hcalm', hboot]
    · rw [State.done_fabric hcalm', hwd0]
    · rw [State.done_sdio hcalm', hsdio]
    · rw [State.done_head hcalm', hframe, hnoted]
    · rw [State.done_gates hcalm', hframe, hnoted]
    · rw [State.done_loops hcalm', hframe, hnoted]
    · rw [State.done_edge hcalm', hframe, hnoted]
    · rw [State.done_dram hcalm', hframe, hnoted]
    · rw [State.done_sram hcalm', hframe, hnoted]
    · rw [State.done_time hcalm', hframe, hnoted]

end Sys2Proof.Machine
end

section
/-! Cameras (rules R129–R131). -/

namespace Sys2Proof.Machine

theorem State.csiClose_none {s : State} {r vc : Nat} (flags : Nat) (h : s.csiFrame r vc = none) : s.csiClose r vc flags = s := by
  simp only [State.csiClose, h]

theorem State.csiClose_some {s : State} {r vc : Nat} {f : CsiFrame} (flags : Nat) (h : s.csiFrame r vc = some f) :
    s.csiClose r vc flags = (s.setCsi r vc none).ringUnit (4 * r + vc)
      { kind := 0, start := f.start, stop := s.stamp, payload := f.bytes, flags := flags + f.crcErr.toNat * 2, errs := f.errs,
        w8 := w32 (f.longest % 65536 + f.lines % 65536 * 65536),
        w9 := w32 ((f.dt.getD 0x12).toNat + vc * 64 + r * 256 + f.num.toNat * 65536), w10 := 0 } := by
  simp only [State.csiClose, h]
  rfl

/-- The data type of a packet is supported and selected for its channel (CSI_DT). -/
def State.csiTyped (s : State) (r vc : Nat) (dt : BitVec 6) (j : Nat) : Prop :=
  csiType dt.toNat = some j ∧ bit (s.reg (csiBase r + 0x108)) (8 * vc + j) = true

theorem State.csiLong_off {s : State} {r : Nat} (h : HdrEcc) (vc : Nat) (dt : BitVec 6) (data : List Byte) (crc : Bool)
    (hoff : s.csiOn r = false) : s.csiLong r h vc dt data crc = s := by
  simp [State.csiLong, hoff]

theorem State.csiLong_bad {s : State} {r vc : Nat} {f : CsiFrame} (dt : BitVec 6) (data : List Byte) (crc : Bool)
    (hon : s.csiOn r = true) (hf : s.csiFrame r vc = some f) :
    s.csiLong r .bad vc dt data crc = s.setCsi r vc (some { f with errs := satInc f.errs 1 }) := by
  simp [State.csiLong, hon, hf]

/-- A packet with a readable header is routed by its type and channel. -/
theorem State.csiLong_read {s : State} {r : Nat} {h : HdrEcc} (vc : Nat) (dt : BitVec 6) (data : List Byte) (crc : Bool)
    (hh : h ≠ .bad) : s.csiLong r h vc dt data crc = s.csiLong r .good vc dt data crc := by
  cases h with
  | bad => exact absurd rfl hh
  | good => rfl
  | corrected => rfl

theorem State.csiLong_unrouted {s : State} {r : Nat} {h : HdrEcc} {vc : Nat} {dt : BitVec 6} (data : List Byte) (crc : Bool)
    (hon : s.csiOn r = true) (hh : h ≠ .bad) (hno : ∀ j, s.csiTyped r vc dt j → s.csiRouted r vc = false) :
    s.csiLong r h vc dt data crc = s.csiUnrouted r := by
  rw [State.csiLong_read vc dt data crc hh]
  cases hj : csiType dt.toNat with
  | none => simp [State.csiLong, hon, hj]
  | some j =>
    by_cases hsel : bit (s.reg (csiBase r + 0x108)) (8 * vc + j) = true
    · simp [State.csiLong, hon, hj, hno j ⟨hj, hsel⟩]
    · simp [State.csiLong, hon, hj, hsel]

theorem State.csiLong_line {s : State} {r : Nat} {h : HdrEcc} {vc : Nat} {dt : BitVec 6} {j : Nat} {f : CsiFrame} (data : List Byte) (crc : Bool)
    (hh : h ≠ .bad) (hj : s.csiTyped r vc dt j) (hr : s.csiRouted r vc = true) (hf : s.csiFrame r vc = some f) :
    s.csiLong r h vc dt data crc = s.setCsi r vc (some { f with
      lines := f.lines + 1
      longest := max f.longest (csiLine (bit (s.reg (csiBase r + 0x100)) 15) dt.toNat data).length
      dt := if f.dt = none ∧ dt ≠ 0x12 then some dt else f.dt
      errs := if crc = true then f.errs else satInc f.errs 1
      crcErr := f.crcErr || !crc
      bytes := f.bytes ++ csiLine (bit (s.reg (csiBase r + 0x100)) 15) dt.toNat data }) := by
  obtain ⟨htype, hsel⟩ := hj
  have hon : s.csiOn r = true := by
    simp only [State.csiRouted, Bool.and_eq_true] at hr
    exact hr.1.1
  rw [State.csiLong_read vc dt data crc hh]
  simp [State.csiLong, hon, htype, hsel, hr, hf]

theorem Bool.toNat_mul_two (b : Bool) : 0 + b.toNat * 2 = if b = true then 2 else 0 := by
  cases b <;> rfl

/-- Settles O21: each packet by the branch of the receiver that takes it. -/
theorem cameraFrames : Obligations.CameraFrames := by
  intro s r vc num h dt data crc hruns i cfg typed
  refine ⟨?_, fun hoff => ?_, fun f hon hf => ?_, fun hon hh hno => ?_, fun j f hj hr hh hf => ?_, fun f hf => ?_, ?_, ?_, fun hdis => ?_⟩
  · intro u on
    have hexec : exec (.frameStart r vc num) s = .next (s.csiStart r.val vc.val num).done := by
      show (s.actIn 31 fun s => s.csiStart r.val vc.val num) = _
      exact State.actIn_runs hruns _
    have hon : (u.csiOn r.val && bit (u.reg (csiBase r.val + 0x100)) (16 + vc.val) && u.ringOn i) = true ↔ on := by
      simp only [Bool.and_eq_true, and_assoc, on]
    refine ⟨State.csiClose_none 4, fun ho => ?_, fun hn => ?_⟩
    · rw [hexec, State.csiStart, if_pos (hon.mpr ho)]
    · rw [hexec, State.csiStart, if_neg (mt hon.mp hn)]
  · show (s.actIn 31 fun s => s.csiLong r.val h vc.val dt data crc) = _
    rw [State.actIn_runs hruns, State.csiLong_off _ _ _ _ _ hoff]
  · show (s.actIn 31 fun s => s.csiLong r.val .bad vc.val dt data crc) = _
    rw [State.actIn_runs hruns, State.csiLong_bad _ _ _ hon hf]
  · show (s.actIn 31 fun s => s.csiLong r.val h vc.val dt data crc) = _
    rw [State.actIn_runs hruns, State.csiLong_unrouted _ _ hon hh hno, State.csiUnrouted]
  · show (s.actIn 31 fun s => s.csiLong r.val h vc.val dt data crc) = _
    rw [State.actIn_runs hruns, State.csiLong_line _ _ hh hj hr hf]
  · show (s.actIn 31 fun s => s.csiClose r.val vc.val 0) = _
    rw [State.actIn_runs hruns, State.csiClose_some 0 hf, Bool.toNat_mul_two]
  · show (s.actIn 31 fun s => s.csiLoss r.val) = _
    exact State.actIn_runs hruns _
  · intro hdis
    show (s.actIn 31 fun s => s.csiResync r.val) = _
    rw [State.actIn_runs hruns, State.csiResync, if_pos hdis]
  · show (s.actIn 31 fun s => s.csiResync r.val) = _
    rw [State.actIn_runs hruns, State.csiResync, if_neg (by rw [hdis]; decide)]
    rfl

end Sys2Proof.Machine
end

section
/-! Ethernet (rules R107, R132–R135). -/

namespace Sys2Proof.Machine

theorem State.bumpWrap_one (s : State) (a : Nat) : s.bumpWrap a 1 = s.setReg a (s.reg a + 1) := rfl

/-- The registers that a received frame's branches read lie apart from RX_FRAMES. -/
theorem State.reg_bumpWrap_ne {s : State} {a b : Nat} (n : Nat) (h : b ≠ a) : (s.bumpWrap a n).reg b = s.reg b := State.reg_setReg_ne _ _ h

/-- The record of a frame that the management controller gets or sends (rules R107, R135). -/
def State.keepFrame (s : State) (p : Fin 2) (frame : List Byte) (sent : Bool) (x : Int) (whole : List Byte) : State :=
  { s with edge := { s.edge with eth := s.edge.eth ++
      [{ port := p, sent := sent, stamp := if ethEvent frame = true then some x else none, frame := whole }] } }

section
variable {s : State} {p : Fin 2} {frame : List Byte} {dur : Nat}

theorem State.ethReceive_badFcs (hon : bit (s.reg (ethBase p.val + 0x118)) 0 = true) :
    s.ethReceive p frame false dur = s.bumpWrap (ethBase p.val + 0x104) 1 := by
  simp [State.ethReceive, hon]

theorem State.ethReceive_pause (hon : bit (s.reg (ethBase p.val + 0x118)) 0 = true) (htype : be16 frame (ethTypeAt frame) = 0x8808) :
    s.ethReceive p frame true dur = (s.bumpWrap (ethBase p.val + 0x100) 1).bumpWrap (ethBase p.val + 0x10C) 1 := by
  simp [State.ethReceive, hon, htype]

theorem State.ethReceive_managed (hon : bit (s.reg (ethBase p.val + 0x118)) 0 = true) (htype : be16 frame (ethTypeAt frame) ≠ 0x8808)
    (hm : ethManaged (s.reg (ethBase p.val + 0x114)).toNat frame = true) :
    s.ethReceive p frame true dur = (s.bumpWrap (ethBase p.val + 0x100) 1).keepFrame p frame false
      ((s.now (s.ethTsel p.val) : Int) - dur - sext 16 (s.rf (0x12C0 + 4 * p.val) 16 16)) frame := by
  have hbase : 0x56000 ≤ ethBase p.val := Nat.le_add_right ..
  have haddr : (s.bumpWrap (ethBase p.val + 0x100) 1).reg (ethBase p.val + 0x114) = s.reg (ethBase p.val + 0x114) :=
    State.reg_bumpWrap_ne 1 (by omega)
  have hsel : (s.bumpWrap (ethBase p.val + 0x100) 1).ethTsel p.val = s.ethTsel p.val :=
    congrArg (fld · (4 * p.val) 3) (State.reg_bumpWrap_ne 1 (by omega))
  have hcorr : (s.bumpWrap (ethBase p.val + 0x100) 1).rf (0x12C0 + 4 * p.val) 16 16 = s.rf (0x12C0 + 4 * p.val) 16 16 :=
    congrArg (fld · 16 16) (State.reg_bumpWrap_ne 1 (by omega))
  simp only [State.ethReceive, hon, Bool.not_true, Bool.false_eq_true, if_false, htype, haddr, hm, if_true, hsel, hcorr]
  rfl

/-- A frame that is neither a pause frame nor the management controller's goes to a filter, or is unclaimed. -/
theorem State.ethReceive_data (hon : bit (s.reg (ethBase p.val + 0x118)) 0 = true) (htype : be16 frame (ethTypeAt frame) ≠ 0x8808)
    (hm : ethManaged (s.reg (ethBase p.val + 0x114)).toNat frame = false) :
    s.ethReceive p frame true dur = (((ipOf frame).bind udpOf).bind fun u =>
      ((List.range 16).find? fun f => (s.bumpWrap (ethBase p.val + 0x100) 1).filterMatches f p.val (ethVid frame) u).map fun f =>
        (s.bumpWrap (ethBase p.val + 0x100) 1).ethFlow f p.val dur frame u).getD
      ((s.bumpWrap (ethBase p.val + 0x100) 1).bumpWrap (ethBase p.val + 0x108) 1) := by
  have haddr : (s.bumpWrap (ethBase p.val + 0x100) 1).reg (ethBase p.val + 0x114) = s.reg (ethBase p.val + 0x114) :=
    State.reg_bumpWrap_ne 1 (by omega)
  simp only [State.ethReceive, hon, Bool.not_true, Bool.false_eq_true, if_false, htype, haddr, hm]
  cases (ipOf frame).bind udpOf with
  | none => rfl
  | some u =>
    simp only [Option.bind_some]
    cases (List.range 16).find? fun f => (s.bumpWrap (ethBase p.val + 0x100) 1).filterMatches f p.val (ethVid frame) u with
    | none => rfl
    | some f => rfl

theorem State.ethTransmit_on (hon : bit (s.reg (ethBase p.val + 0x118)) 0 = true) :
    s.ethTransmit p frame = s.keepFrame p frame true
      ((s.now (s.ethTsel p.val) : Int) + sext 16 (s.rf (0x12C0 + 4 * p.val) 0 16)) (s.withStation p.val frame) := by
  simp only [State.ethTransmit, hon, Bool.not_true, Bool.false_eq_true, if_false]
  rfl

end

/-- The first number below `n` that passes a test. -/
theorem List.find?_range_first {q : Nat → Bool} {n f : Nat} (hf : f < n) (hq : q f = true) (hfirst : ∀ g, g < f → q g = false) :
    (List.range n).find? q = some f := by
  rw [List.find?_range_eq_some]
  exact ⟨hq, List.mem_range.mpr hf, fun g hg => by rw [hfirst g hg]; rfl⟩

theorem List.find?_range_none {q : Nat → Bool} {n : Nat} (h : ∀ f, f < n → q f = false) : (List.range n).find? q = none := by
  rw [List.find?_eq_none]
  intro f hf
  rw [h f (List.mem_range.mp hf)]
  decide

/-! MDIO (rule R135). -/

theorem ethBase_eq (p : Fin 2) : ethBase p.val = Page.base (.eth p.val) := by
  revert p; decide

theorem pageAt_eth (p : Fin 2) : pageAt (Page.base (.eth p.val)) = some (.eth p.val) := by
  revert p; decide

theorem mdioGo_bit (cmd : BitVec 13) : bit (w32 (cmd.toNat + 2 ^ 13)) 10 = bit (w32 cmd.toNat) 10 := by
  rw [bit_w32, bit_w32, Nat.add_comm, Nat.testBit_two_pow_add_gt (by decide)]

theorem mdioGo_go (cmd : BitVec 13) : bit (w32 (cmd.toNat + 2 ^ 13)) 13 = true := by
  rw [bit_w32, Nat.add_comm, Nat.testBit_two_pow_add_eq, Nat.testBit_lt_two_pow cmd.isLt]
  rfl

theorem mdioGo_op (cmd : BitVec 13) : fld (w32 (cmd.toNat + 2 ^ 13)) 11 2 = fld (w32 cmd.toNat) 11 2 := by
  have := cmd.isLt
  rw [fld_w32 (by omega), fld_w32 (by omega)]
  omega

theorem mdioGo_rest (cmd : BitVec 13) : w32 (cmd.toNat + 2 ^ 13) &&& 0x1FFF = w32 cmd.toNat := by
  have := cmd.isLt
  apply BitVec.eq_of_toNat_eq
  rw [BitVec.toNat_and, w32, w32, BitVec.toNat_ofNat, BitVec.toNat_ofNat]
  show _ &&& (2 ^ 13 - 1) = _
  rw [Nat.and_two_pow_sub_one_eq_mod]
  omega

/-- The flow filters lie past the ports' own registers. -/
theorem ethBase_filterGroup (p : Fin 2) (f : Nat) : ethBase p.val + 0x1000 ≤ filterGroup f := by
  unfold ethBase filterGroup
  omega

section
variable {s : State} {p : Nat} (cmd : BitVec 13)

theorem State.writeMdioCmd_go (hidle : bit (s.reg (ethBase p + 0x128)) 14 = false)
    (hfits : bit (w32 cmd.toNat) 10 = true ∨ (fld (w32 cmd.toNat) 11 2 ≠ 0 ∧ fld (w32 cmd.toNat) 11 2 ≠ 3)) :
    s.writeMdioCmd p (w32 (cmd.toNat + 2 ^ 13)) = (cOK, ({ s with edge := { s.edge with
      mdioOp := Cells.put 0 s.edge.mdioOp p (fld (w32 cmd.toNat) 11 2) } } : State).setReg (ethBase p + 0x128) (w32 cmd.toNat ||| 0x4000)) := by
  have hop : (!bit (w32 cmd.toNat) 10 && (fld (w32 cmd.toNat) 11 2 == 0 || fld (w32 cmd.toNat) 11 2 == 3)) = false := by
    rcases hfits with hb | ⟨h0, h3⟩
    · rw [hb]; rfl
    · rw [beq_false_of_ne h0, beq_false_of_ne h3, Bool.or_false, Bool.and_false]
  simp only [State.writeMdioCmd, mdioGo_bit, mdioGo_go, mdioGo_op, mdioGo_rest, hop, hidle, Bool.false_eq_true, if_false, Bool.and_false, if_true,
    Bool.true_or]

theorem State.writeMdioCmd_refused (h : bit (s.reg (ethBase p + 0x128)) 14 = true ∨
    ¬ (bit (w32 cmd.toNat) 10 = true ∨ (fld (w32 cmd.toNat) 11 2 ≠ 0 ∧ fld (w32 cmd.toNat) 11 2 ≠ 3))) :
    s.writeMdioCmd p (w32 (cmd.toNat + 2 ^ 13)) = (cARG, s) := by
  simp only [State.writeMdioCmd, mdioGo_bit, mdioGo_go, mdioGo_op, Bool.true_and]
  split
  · rfl
  · next hop =>
    rw [if_pos]
    refine h.resolve_right fun hn => hop ?_
    obtain ⟨hb, hn⟩ := not_or.mp hn
    rw [Bool.eq_false_iff.mpr hb, Bool.not_false, Bool.true_and, Bool.or_eq_true, beq_iff_eq, beq_iff_eq]
    exact Classical.or_iff_not_imp_left.mpr fun h0 => Classical.byContradiction fun h3 => hn ⟨h0, h3⟩

end

/-- Settles O22: a frame by the branch of the port that takes it, a link event and an MDIO command by its registers. -/
theorem ethernetPorts : Obligations.EthernetPorts := by
  intro s p frame dur speed data hruns b rx keep
  refine ⟨fun hon => ⟨?_, fun htype => ?_, fun htype hm => ?_, fun htype hm hudp => ?_, fun u htype hm hudp => ⟨fun hno => ?_, fun f hf hq hfirst => ?_⟩,
    fun hmgmt => ?_⟩, ?_, ?_, fun r cmd hreach => ?_, fun hbusy => ?_⟩
  · show (s.actIn 31 fun s => s.ethReceive p frame false dur.toNat) = _
    rw [State.actIn_runs hruns, State.ethReceive_badFcs hon]
  · show (s.actIn 31 fun s => s.ethReceive p frame true dur.toNat) = _
    rw [State.actIn_runs hruns, State.ethReceive_pause hon htype]
  · show (s.actIn 31 fun s => s.ethReceive p frame true dur.toNat) = _
    rw [State.actIn_runs hruns, State.ethReceive_managed hon htype hm]
    rfl
  · show (s.actIn 31 fun s => s.ethReceive p frame true dur.toNat) = _
    rw [State.actIn_runs hruns, State.ethReceive_data hon htype hm, hudp]
    rfl
  · show (s.actIn 31 fun s => s.ethReceive p frame true dur.toNat) = _
    rw [State.actIn_runs hruns, State.ethReceive_data hon htype hm, hudp, Option.bind_some, List.find?_range_none hno]
    rfl
  · show (s.actIn 31 fun s => s.ethReceive p frame true dur.toNat) = _
    rw [State.actIn_runs hruns, State.ethReceive_data hon htype hm, hudp, Option.bind_some, List.find?_range_first hf hq hfirst]
    rfl
  · show (s.actIn 31 fun s => if s.mgmtRuns then s.ethTransmit p frame else s) = _
    rw [State.actIn_runs hruns, if_pos hmgmt, State.ethTransmit_on hon]
    rfl
  · show (s.actIn 31 fun s => s.ethLinkDown p.val) = _
    exact State.actIn_runs hruns _
  · intro cfg rate u
    have hretry : (s.setReg (b + 0x124) (w32 (1 + rate * 2))).reg (b + 0x110) = s.reg (b + 0x110) :=
      State.reg_setReg_ne _ _ (by omega)
    have hfilters : ∀ f, u.reg (filterGroup f) = s.reg (filterGroup f) := fun f =>
      have hport := ethBase_filterGroup p f
      (State.reg_setReg_ne _ _ (by omega)).trans (State.reg_setReg_ne _ _ (by omega))
    show (s.actIn 31 fun s => s.ethLinkRetry p.val speed) = _
    simp only [State.actIn_runs hruns, State.ethLinkRetry, State.bumpWrap_one]
    rw [hretry]
    simp only [← hfilters]
    rfl
  · intro fits
    have hserve : ∀ v, s.serveWrite r (.eth p.val) 0x128 v = s.writeMdioCmd p.val v := fun _ => rfl
    have hexec : exec (.mdioGo r p cmd) s = .next ((s.writeMdioCmd p.val (w32 (cmd.toNat + 2 ^ 13))).2.respond r
        (s.writeMdioCmd p.val (w32 (cmd.toNat + 2 ^ 13))).1 0).done := by
      show (s.act fun s => s.regWrite r (wordAccess (ethBase p.val + 0x128)) (w32 (cmd.toNat + 2 ^ 13))) = _
      rw [← hserve, ethBase_eq]
      exact act_pageWrite _ (by decide) (pageAt_eth p) (ethBase_eq p ▸ hreach)
    refine ⟨fun hidle hfits => ?_, fun hno => ?_⟩
    · rw [hexec, State.writeMdioCmd_go cmd hidle hfits]
    · rw [hexec, State.writeMdioCmd_refused cmd hno]
  · show (s.actIn 31 fun s => s.mdioDone p.val data) = _
    rw [State.actIn_runs hruns, State.mdioDone, hbusy]
    rfl

end Sys2Proof.Machine
end

section
/-! Low-rate streams (rules R125, R126, R136, R137). -/

namespace Sys2Proof.Machine

/-- A trigger of SPI controller `k` that its control register selects (rule R136). -/
def State.spiBegins (s : State) (k : Fin 4) (trig : Nat) : State :=
  if (s.spiBusy k.val).isSome = true then (s.bump (0x58300 + 4 * k.val) 1).intRaise .serial 0
  else
    let n := (s.reg (spiBase k.val + 8)).toNat
    let t := (s.unitBegin (40 + k.val)).setSpi k.val (some { start := s.stamp, trig := trig, len := n, cs := s.rf (spiBase k.val) 4 2 })
    { t with edge := { t.edge with spiSent := t.edge.spiSent ++ [(k, s.template (0x58200 + 0x40 * k.val) 64 n)] } }

theorem State.spiTrigger_selected {s : State} {k : Fin 4} {trig : Nat} (hon : bit (s.reg (spiBase k.val)) 0 = true)
    (hsel : fld (s.reg (spiBase k.val)) 6 2 = trig) : s.spiTrigger k.val trig = s.spiBegins k trig := by
  have hk : Fin.ofNat 4 k.val = k := Fin.ext (Nat.mod_eq_of_lt k.isLt)
  simp only [State.spiTrigger, hon, hsel, bne_self_eq_false, Bool.not_true, Bool.or_self, Bool.false_eq_true, if_false, hk]
  rfl

/-! A UART byte, in the order of the model: its errors are counted, it joins its message, and the message may end. -/

/-- The errors of a byte in its stream's counters. -/
def State.uartErrs (s : State) (u : Nat) (pe fe : Bool) : State :=
  let a := 0x58320 + 4 * u
  let s1 := if pe = true then s.bumpFld a 0 16 else s
  let s2 := if fe = true then s1.bumpFld a 16 16 else s1
  if pe = true ∨ fe = true then s2.intRaise .serial 1 else s2

/-- The message that a byte joins. -/
def State.uartOpen (s : State) (u dur : Nat) : UartMsg :=
  (s.uartMsg u).getD { start := i32 ((s.now 0 : Int) - dur), bytes := [], errs := 0 }

def UartMsg.take (m : UartMsg) (b : Byte) (bad : Prop) [Decidable bad] : UartMsg :=
  { m with bytes := m.bytes ++ [b], errs := satInc m.errs (if bad then 1 else 0) }

def State.uartJoined (s : State) (u : Nat) (b : Byte) (pe fe : Bool) (dur : Nat) : State :=
  (if (s.uartMsg u).isSome = true then s.uartErrs u pe fe else (s.uartErrs u pe fe).unitBegin (44 + u)).setUart u
    (some ((s.uartOpen u dur).take b (pe = true ∨ fe = true)))

theorem State.uartErrs_regsBut (s : State) (u : Nat) (pe fe : Bool) :
    RegsBut (fun a => a = 0x58014 ∨ a = 0x58320 + 4 * u) s (s.uartErrs u pe fe) := by
  have hbase : Page.base .serial + 0x14 = 0x58014 := rfl
  have h1 : RegsBut (fun a => a = 0x58014 ∨ a = 0x58320 + 4 * u) s (if pe = true then s.bumpFld (0x58320 + 4 * u) 0 16 else s) :=
    .ite (RegsBut.refl.bumpFld (.inr rfl) ..) .refl
  have h2 : RegsBut (fun a => a = 0x58014 ∨ a = 0x58320 + 4 * u) s (if fe = true then
      (if pe = true then s.bumpFld (0x58320 + 4 * u) 0 16 else s).bumpFld (0x58320 + 4 * u) 16 16
      else if pe = true then s.bumpFld (0x58320 + 4 * u) 0 16 else s) :=
    .ite (h1.bumpFld (.inr rfl) ..) h1
  exact .ite (h2.intRaise (p := .serial) (.inl hbase) 1) h2

theorem State.uartErrs_edge (s : State) (u : Nat) (pe fe : Bool) : (s.uartErrs u pe fe).edge = s.edge :=
  (congrArg State.edge (s.uartErrs_regsBut u pe fe).1).trans rfl

theorem State.uartErrs_time (s : State) (u : Nat) (pe fe : Bool) : (s.uartErrs u pe fe).time = s.time :=
  (congrArg State.time (s.uartErrs_regsBut u pe fe).1).trans rfl

theorem State.uartJoined_reg (s : State) {u : Nat} (hu : u < 2) (b : Byte) (pe fe : Bool) (dur : Nat) :
    (s.uartJoined u b pe fe dur).reg (uartBase u + 8) = s.reg (uartBase u + 8) := by
  have herr : (s.uartErrs u pe fe).reg (uartBase u + 8) = s.reg (uartBase u + 8) :=
    (s.uartErrs_regsBut u pe fe).2 _ (by unfold uartBase; omega)
  unfold State.uartJoined
  split
  · exact herr
  · exact herr

/-- Where a message ends after a byte (rule R126). -/
def State.uartEnds (t : State) (u : Nat) (b : Byte) (mode n : Nat) (x : Word) : State :=
  if mode = 1 ∧ b.toNat = fld x 8 8 then t.uartClose u 1 else if mode = 2 ∧ fld x 16 13 ≤ n then t.uartClose u 2 else t

theorem State.uartByte_on {s : State} {u : Nat} (hu : u < 2) (b : Byte) (pe fe : Bool) (dur : Nat) (hon : bit (s.reg (uartBase u)) 0 = true) :
    s.uartByte u b pe fe dur = (s.uartJoined u b pe fe dur).uartEnds u b (fld (s.reg (uartBase u)) 5 2)
      ((s.uartOpen u dur).take b (pe = true ∨ fe = true)).bytes.length (s.reg (uartBase u + 8)) := by
  rw [← s.uartJoined_reg hu b pe fe dur]
  have hmsg : (s.uartErrs u pe fe).uartMsg u = s.uartMsg u := by rw [State.uartMsg, State.uartErrs_edge]; rfl
  have hnow : (s.uartErrs u pe fe).now 0 = s.now 0 := congrArg Tc.total (State.tc_congr (s.uartErrs_time u pe fe) 0)
  unfold State.uartByte
  simp only [hon, Bool.not_true, Bool.false_eq_true, if_false, Bool.or_eq_true]
  rw [show (if pe = true ∨ fe = true then _ else _) = s.uartErrs u pe fe from rfl, hmsg, hnow]
  unfold State.uartJoined State.uartOpen
  cases s.uartMsg u with
  | none => rfl
  | some m => rfl

theorem State.spiEnd_some {s : State} {k : Nat} {x : SpiRun} (data : List Byte) (hx : s.spiBusy k = some x) :
    s.spiEnd k data = (s.setSpi k none).ringUnit (40 + k)
      { kind := 2, start := x.start, stop := s.stamp, payload := data.take x.len, flags := 0, errs := 0,
        w8 := w32 (x.cs + x.trig * 4), w9 := 0, w10 := 0 } := by
  simp only [State.spiEnd, hx]

theorem State.uartGap_some {s : State} {u : Nat} {m : UartMsg} (hmode : s.rf (uartBase u) 5 2 = 0) (hm : s.uartMsg u = some m) :
    s.uartGap u = (s.setUart u none).ringUnit (44 + u)
      { kind := 3, start := m.start, stop := i32 ((s.now 0 : Int) - (s.rf (uartBase u + 8) 0 8 * (s.reg (uartBase u + 4)).toNat * 100 / 128 : Nat)),
        payload := m.bytes, flags := if m.errs = 0 then 0 else 0x40, errs := m.errs, w8 := 0, w9 := 0, w10 := 0 } := by
  rw [State.uartGap, if_neg (Classical.not_not.mpr hmode)]
  simp only [hm]

/-- Settles O23: a trigger by its controller's selection, a byte by the three stages it passes. -/
theorem serialStreams : Obligations.SerialStreams := by
  intro s k u rising pe fe b data dur hruns begins
  refine ⟨fun hon hsel hedge => ?_, fun hon hsel => ?_, fun x hx => ?_, fun hon => ?_, fun m hmode hm => ?_⟩
  · show (s.actIn 31 fun s => s.drdy k.val rising) = _
    rw [State.actIn_runs hruns, State.drdy, if_pos hedge, State.spiTrigger_selected hon hsel]
    rfl
  · show (s.actIn 31 fun s => s.spiTrigger k.val 2) = _
    rw [State.actIn_runs hruns, State.spiTrigger_selected hon hsel]
    rfl
  · show (s.actIn 31 fun s => s.spiEnd k.val data) = _
    rw [State.actIn_runs hruns, State.spiEnd_some data hx]
  · intro c x a s1 s2 s3 m m' t delim full
    have hexec : exec (.uartByte u b pe fe dur) s = .next (t.uartEnds u.val b (fld c 5 2) m'.bytes.length x).done := by
      show (s.actIn 31 fun s => s.uartByte u.val b pe fe dur.toNat) = _
      rw [State.actIn_runs hruns, State.uartByte_on u.isLt b pe fe dur.toNat hon]
      rfl
    refine ⟨fun hd => ?_, fun hf => ?_, fun hd hf => ?_⟩
    · rw [hexec, State.uartEnds, if_pos hd]
    · have hd : ¬ delim := fun hd => absurd (hd.1.symm.trans hf.1) (by decide)
      rw [hexec, State.uartEnds, if_neg hd, if_pos hf]
    · rw [hexec, State.uartEnds, if_neg hd, if_neg hf]
  · intro gap
    show (s.actIn 31 fun s => s.uartGap u.val) = _
    rw [State.actIn_runs hruns, State.uartGap_some hmode hm]

end Sys2Proof.Machine
end

section
/-! Encoders and sigma-delta inputs (rules R139–R141). -/

namespace Sys2Proof.Machine

theorem State.encAccepts_iff {s : State} {e held : Nat} : s.encAccepts e held = true ↔ fld (s.reg (encBase e)) 3 8 + 1 ≤ held :=
  decide_eq_true_iff

theorem State.encSt_setEnc_self (s : State) (e : Nat) (x : EncSt) : (s.setEnc e x).encSt e = x := Cells.get_put_self ..

theorem State.calm_setEnc {s : State} (h : Calm s) (e : Nat) (x : EncSt) : Calm (s.setEnc e x) := h

section
variable {s : State} {e : Nat} {a b : Bool}

theorem State.encEdge_off (hmode : fld (s.reg (encBase e)) 0 2 = 0) : s.encEdge e a b = s.setEnc e { s.encSt e with a := a, b := b } := by
  rw [State.encEdge, if_pos hmode]

theorem State.encEdge_both (hmode : fld (s.reg (encBase e)) 0 2 ≠ 0) (ha : a ≠ (s.encSt e).a) (hb : b ≠ (s.encSt e).b) :
    s.encEdge e a b = (s.setEnc e { s.encSt e with a := a, b := b }).bumpFld (encBase e + 16) 0 16 := by
  rw [State.encEdge, if_neg hmode, if_pos ⟨ha, hb⟩]

/-- A change that COUNT does not count is noted alone. -/
theorem State.encEdge_still (hone : ¬ (a ≠ (s.encSt e).a ∧ b ≠ (s.encSt e).b))
    (hstill : (a = (s.encSt e).a ∧ b = (s.encSt e).b) ∨
      quadStep (fld (s.reg (encBase e)) 0 2) (bit (s.reg (encBase e)) 2) (s.encSt e).a (s.encSt e).b a b = 0) :
    s.encEdge e a b = s.setEnc e { s.encSt e with a := a, b := b } := by
  by_cases hmode : fld (s.reg (encBase e)) 0 2 = 0
  · exact State.encEdge_off hmode
  · rw [State.encEdge, if_neg hmode, if_neg hone, if_pos hstill]

/-- COUNT moves by `d`, and PERIOD takes the time since the edge before (rule R141). -/
def State.encCounted (s : State) (e : Nat) (d : Int) (since : Option Nat) : State :=
  let w := s.setReg (encBase e + 4) (s.reg (encBase e + 4) + i32 d)
  (since.map fun n => w.setReg (encBase e + 12) (w32 (min 0xFFFFFFFF (s.time.ns - n)))).getD w

theorem State.encCounted_eq (s : State) (e : Nat) (d : Int) (since : Option Nat) :
    s.encCounted e d since =
      let w := s.setReg (encBase e + 4) (s.reg (encBase e + 4) + i32 d)
      match since with
      | some n => w.setReg (encBase e + 12) (w32 (Nat.min 0xFFFFFFFF (w.time.ns - n)))
      | none => w := by
  cases since with
  | none => rfl
  | some n => rfl

theorem State.encCounted_regsBut (s : State) (e : Nat) (d : Int) (since : Option Nat) :
    RegsBut (fun y => y = encBase e + 4 ∨ y = encBase e + 12) s (s.encCounted e d since) := by
  cases since with
  | none => exact RegsBut.refl.setReg (.inl rfl) _
  | some n => exact (RegsBut.refl.setReg (.inl rfl) _).setReg (.inr rfl) _

theorem State.encEdge_counted (hmode : fld (s.reg (encBase e)) 0 2 ≠ 0) (hone : a ≠ (s.encSt e).a ↔ b = (s.encSt e).b)
    (hd : quadStep (fld (s.reg (encBase e)) 0 2) (bit (s.reg (encBase e)) 2) (s.encSt e).a (s.encSt e).b a b ≠ 0) :
    s.encEdge e a b = ((s.setEnc e { s.encSt e with a := a, b := b }).encCounted e
      (quadStep (fld (s.reg (encBase e)) 0 2) (bit (s.reg (encBase e)) 2) (s.encSt e).a (s.encSt e).b a b) (s.encSt e).edgeAt).setEnc e
        { a := a, b := b, edgeAt := some s.time.ns } := by
  have hboth : ¬ (a ≠ (s.encSt e).a ∧ b ≠ (s.encSt e).b) := fun h => h.2 (hone.mp h.1)
  have hnone : ¬ ((a = (s.encSt e).a ∧ b = (s.encSt e).b) ∨
      quadStep (fld (s.reg (encBase e)) 0 2) (bit (s.reg (encBase e)) 2) (s.encSt e).a (s.encSt e).b a b = 0) :=
    not_or.mpr ⟨fun h => hone.mpr h.2 h.1, hd⟩
  have htime : ∀ (w : State) d since, (w.encCounted e d since).time = w.time := fun w d since =>
    (congrArg State.time (w.encCounted_regsBut e d since).1).trans rfl
  rw [← State.setEnc_time s e { s.encSt e with a := a, b := b }, ← htime _
    (quadStep (fld (s.reg (encBase e)) 0 2) (bit (s.reg (encBase e)) 2) (s.encSt e).a (s.encSt e).b a b) (s.encSt e).edgeAt,
    State.encEdge, if_neg hmode, if_neg hboth, if_neg hnone, State.encCounted_eq] <;> rfl

theorem State.encCounted_count (s : State) (e : Nat) (d : Int) (since : Option Nat) :
    (s.encCounted e d since).reg (encBase e + 4) = s.reg (encBase e + 4) + i32 d := by
  cases since with
  | none => exact State.reg_setReg_self ..
  | some n => exact (State.reg_setReg_ne _ _ (by omega)).trans (State.reg_setReg_self ..)

theorem State.encCounted_period (s : State) (e : Nat) (d : Int) (since : Option Nat) :
    (s.encCounted e d since).reg (encBase e + 12) =
      (since.map fun n => w32 (min 0xFFFFFFFF (s.time.ns - n))).getD (s.reg (encBase e + 12)) := by
  cases since with
  | none => exact State.reg_setReg_ne _ _ (by omega)
  | some n => exact State.reg_setReg_self ..

/-- No edge touches an encoder's configuration. -/
theorem State.encEdge_cfg (s : State) (e : Nat) (a b : Bool) : (s.encEdge e a b).reg (encBase e) = s.reg (encBase e) := by
  by_cases hmode : fld (s.reg (encBase e)) 0 2 = 0
  · rw [State.encEdge_off hmode, State.setEnc_reg]
  · by_cases hboth : a ≠ (s.encSt e).a ∧ b ≠ (s.encSt e).b
    · rw [State.encEdge_both hmode hboth.1 hboth.2]
      exact State.reg_setReg_ne _ _ (by omega)
    · by_cases hstill : (a = (s.encSt e).a ∧ b = (s.encSt e).b) ∨
          quadStep (fld (s.reg (encBase e)) 0 2) (bit (s.reg (encBase e)) 2) (s.encSt e).a (s.encSt e).b a b = 0
      · rw [State.encEdge_still hboth hstill, State.setEnc_reg]
      · have hone : a ≠ (s.encSt e).a ↔ b = (s.encSt e).b := by
          exact ⟨fun ha => Classical.byContradiction fun hb => hboth ⟨ha, hb⟩, fun hb ha => hstill (.inl ⟨ha, hb⟩)⟩
        rw [State.encEdge_counted hmode hone (fun h => hstill (.inr h)), State.setEnc_reg]
        exact (State.encCounted_regsBut _ e _ _).2 _ (by omega)

end

theorem State.encIndex_eq (s : State) (e : Nat) (step : Option (Bool × Bool)) :
    let u := (step.map fun p => s.encEdge e p.1 p.2).getD s
    s.encIndex e step = if !bit (s.reg (encBase e)) 11 then u
      else if bit (s.reg (encBase e)) 12 then (u.setReg (encBase e + 8) (u.reg (encBase e + 4))).setReg (encBase e + 4) 0
      else u.setReg (encBase e + 8) (u.reg (encBase e + 4)) := by
  cases step with
  | none => rfl
  | some p =>
    show s.encIndex e (some (p.1, p.2)) = _
    rw [← s.encEdge_cfg e p.1 p.2]
    rfl

theorem exec_encoderEdge {s : State} (hruns : Runs s 31) {e : Fin 8} {held : BitVec 9} (a b : Bool)
    (hheld : fld (s.reg (encBase e.val)) 3 8 + 1 ≤ held.toNat) : exec (.encoderEdge e a b held) s = .next (s.encEdge e.val a b).done := by
  show (s.actIn 31 fun s => if s.encAccepts e.val held.toNat then s.encEdge e.val a b else s) = _
  rw [State.actIn_runs hruns, if_pos (State.encAccepts_iff.mpr hheld)]

theorem exec_indexEdge {s : State} (hruns : Runs s 31) {e : Fin 8} {held : BitVec 9} (step : Option (Bool × Bool))
    (hheld : fld (s.reg (encBase e.val)) 3 8 + 1 ≤ held.toNat) : exec (.indexEdge e step held) s = .next (s.encIndex e.val step).done := by
  show (s.actIn 31 fun s => if s.encAccepts e.val held.toNat then s.encIndex e.val step else s) = _
  rw [State.actIn_runs hruns, if_pos (State.encAccepts_iff.mpr hheld)]

theorem encBase_notin_endRegs {e : Nat} (he : e < 8) {ofs : Nat} (hofs : ofs < 0x20) : encBase e + ofs ∉ endRegs := by
  unfold encBase
  simp only [endRegs, List.mem_cons, List.not_mem_nil, or_false]
  omega

/-- The counted edge, to the end of its command. -/
theorem exec_encoderEdge_counted {s : State} (hruns : Runs s 31) (hcalm : Calm s) {e : Fin 8} {held : BitVec 9} {a b : Bool}
    (hheld : fld (s.reg (encBase e.val)) 3 8 + 1 ≤ held.toNat) {d : Int} (hmode : fld (s.reg (encBase e.val)) 0 2 ≠ 0)
    (hone : a ≠ (s.encSt e.val).a ↔ b = (s.encSt e.val).b)
    (hstep : quadStep (fld (s.reg (encBase e.val)) 0 2) (bit (s.reg (encBase e.val)) 2) (s.encSt e.val).a (s.encSt e.val).b a b = d)
    (hd : d ≠ 0) : ∃ t, exec (.encoderEdge e a b held) s = .next t ∧ t.encSt e.val = { a := a, b := b, edgeAt := some s.time.ns } ∧
      t.reg (encBase e.val + 4) = s.reg (encBase e.val + 4) + i32 d ∧
      t.reg (encBase e.val + 12) = ((s.encSt e.val).edgeAt.map fun n => w32 (min 0xFFFFFFFF (s.time.ns - n))).getD (s.reg (encBase e.val + 12)) ∧
      ∀ y, y ≠ encBase e.val + 4 → y ≠ encBase e.val + 12 → y ∉ endRegs → t.reg y = s.reg y := by
  subst hstep
  have hregs := State.encCounted_regsBut (s.setEnc e.val { s.encSt e.val with a := a, b := b }) e.val
    (quadStep (fld (s.reg (encBase e.val)) 0 2) (bit (s.reg (encBase e.val)) 2) (s.encSt e.val).a (s.encSt e.val).b a b) (s.encSt e.val).edgeAt
  have hcalm' := State.calm_setEnc (hregs.calm (State.calm_setEnc hcalm _ _)) e.val { a := a, b := b, edgeAt := some s.time.ns }
  refine ⟨_, exec_encoderEdge hruns a b hheld, ?_, ?_, ?_, fun y h4 h12 hy => ?_⟩
  · rw [State.encEdge_counted hmode hone hd, State.encSt, State.done_edge hcalm']
    exact State.encSt_setEnc_self ..
  · rw [State.encEdge_counted hmode hone hd, State.done_reg hcalm' (encBase_notin_endRegs e.isLt (by decide)), State.setEnc_reg,
      State.encCounted_count, State.setEnc_reg]
  · rw [State.encEdge_counted hmode hone hd, State.done_reg hcalm' (encBase_notin_endRegs e.isLt (by decide)), State.setEnc_reg,
      State.encCounted_period]
    rfl
  · rw [State.encEdge_counted hmode hone hd, State.done_reg hcalm' hy, State.setEnc_reg, hregs.2 y (not_or.mpr ⟨h4, h12⟩), State.setEnc_reg]

/-- Settles O25: an edge by its filter and the branch of its change, an index by the step before it, the sigma-delta inputs by EN. -/
theorem fieldInputs : Obligations.FieldInputs := by
  refine ⟨fun s e a b step held hruns => ?_, fun s d bits hruns => ?_⟩
  · intro base x cfg
    refine ⟨fun hshort => ?_, fun hheld => ⟨fun hmode => ?_, fun hmode ha hb => ?_, ?_, ?_, ?_⟩⟩
    · have hno : ¬ s.encAccepts e.val held.toNat = true := fun h => absurd (State.encAccepts_iff.mp h) (Nat.not_le.mpr hshort)
      refine ⟨?_, ?_⟩
      · show (s.actIn 31 fun s => if s.encAccepts e.val held.toNat then s.encEdge e.val a b else s) = _
        rw [State.actIn_runs hruns, if_neg hno]
      · show (s.actIn 31 fun s => if s.encAccepts e.val held.toNat then s.encIndex e.val step else s) = _
        rw [State.actIn_runs hruns, if_neg hno]
    · rw [exec_encoderEdge hruns a b hheld, State.encEdge_off hmode]
    · rw [exec_encoderEdge hruns a b hheld, State.encEdge_both hmode ha hb]
    · rw [exec_encoderEdge hruns x.a x.b hheld, State.encEdge_still (fun h => h.1 rfl) (.inl ⟨rfl, rfl⟩)]
    · intro d hone hmode
      refine ⟨fun hquad hinv => ?_, fun hd => ?_, fun hd hcalm => exec_encoderEdge_counted hruns hcalm hheld hmode hone rfl hd⟩
      · simp only [d, hquad, hinv, quadStep]
        rfl
      · rw [exec_encoderEdge hruns a b hheld, State.encEdge_still (fun h => h.2 (hone.mp h.1)) (.inr hd)]
    · intro u
      refine ⟨fun hidx => ?_, fun hidx => ?_⟩
      · rw [exec_indexEdge hruns step hheld, State.encIndex_eq, if_pos (by rw [hidx]; rfl)]
      · rw [exec_indexEdge hruns step hheld, State.encIndex_eq, if_neg (by rw [hidx]; decide)]
  · intro base k all keep
    refine ⟨fun hon => ⟨?_, ?_, ?_⟩, fun hoff => ⟨?_, ?_, ?_⟩⟩
    · show (s.actIn 31 fun s => s.sdOutput d.val bits) = _
      rw [State.actIn_runs hruns, State.sdOutput, if_neg (by rw [hon]; decide)]
      rfl
    · show (s.actIn 31 fun s => s.sdStuck d.val true) = _
      rw [State.actIn_runs hruns, State.sdStuck, if_pos hon]
      rfl
    · show (s.actIn 31 fun s => s.sdStuck d.val false) = _
      rw [State.actIn_runs hruns, State.sdStuck, if_pos hon]
      rfl
    · show (s.actIn 31 fun s => s.sdOutput d.val bits) = _
      rw [State.actIn_runs hruns, State.sdOutput, if_pos (by rw [hoff]; rfl)]
    · show (s.actIn 31 fun s => s.sdStuck d.val true) = _
      rw [State.actIn_runs hruns, State.sdStuck, if_neg (by rw [hoff]; decide)]
    · show (s.actIn 31 fun s => s.sdStuck d.val false) = _
      rw [State.actIn_runs hruns, State.sdStuck, if_neg (by rw [hoff]; decide)]

end Sys2Proof.Machine
end

section
/-! PWM outputs and ACT_EN (rules R142–R145). -/

namespace Sys2Proof.Machine

/-- The TAP holds the pads while an ACT_EN bit is 1: the state at which a refused write of ACT_EN is not without effect. -/
def tapAtEnable : State := { State.reset with
  regs := [(0x5A600, 1)]
  power := { powerReset with held := false, pen := 7, pg := 7 }
  testing := false
  dom := [(31, 2)]
  boot := { bootReset with step := 3, tested := true, tap := 1 } }

theorem tapAtEnable_reaches : Reaches tapAtEnable .host 0x5A600 true := by decide

theorem calm_tapAtEnable_bypass : Calm ((tapAtEnable.serveWrite .host .field 0x600 0).2.respond .host cARG 0) := by
  decide

/-- Refutes O26: a write of ACT_EN by another requester answers ARG, but the model still looks at the TAP after it: where the TAP holds the pads
while an ACT_EN bit is 1, the refused write returns the TAP to BYPASS. -/
theorem not_actuators : ¬ Obligations.Actuators := by
  unfold Obligations.Actuators
  intro h
  obtain ⟨-, -, hact, -⟩ := h
  obtain ⟨hother, -⟩ := hact tapAtEnable .host 0 tapAtEnable_reaches
  have hrefused := hother (by decide)
  have hwrite : exec (.registerWrite .host (wordAccess 0x5A600) 0) tapAtEnable =
      .next (((tapAtEnable.serveWrite .host .field 0x600 0).2.respond .host cARG 0).done) :=
    act_pageWrite (p := .field) (off := 0x600) 0 (by decide) (by decide) tapAtEnable_reaches
  have htap := congrArg Boot.tap (congrArg State.boot (Host.Outcome.next.inj (hwrite.symm.trans hrefused)))
  rw [State.done_boot calm_tapAtEnable_bypass, State.done_boot (by decide)] at htap
  exact absurd htap (by decide)

end Sys2Proof.Machine
end

section
/-! CAN (rule R138). -/

namespace Sys2Proof.Machine

/-! The registers of a controller. -/

theorem canBase_notin_endRegs (c : Fin 4) {ofs : Nat} (hofs : ofs < 0x20) : canBase c.val + ofs ∉ endRegs := by
  unfold canBase
  simp only [endRegs, List.mem_cons, List.not_mem_nil, or_false]
  omega

theorem State.canPassive_regsBut (s : State) (c : Nat) : RegsBut (· = canBase c + 0x10) s (s.canPassive c) :=
  .ite .refl ((RegsBut.refl (rs := fun x => x = canBase c + 0x10)).setRf rfl ..)

/-- The state that an active or passive controller's counters give it. -/
theorem State.canPassive_state {s : State} {c : Nat} (h : s.rf (canBase c + 0x10) 0 2 ≠ 2) :
    (s.canPassive c).rf (canBase c + 0x10) 0 2 =
      if 127 < s.rf (canBase c + 0x10) 8 8 ∨ 127 < s.rf (canBase c + 0x10) 16 8 then 1 else 0 := by
  rw [State.canPassive, if_neg h]
  exact State.rf_setRf_self _ _ (by decide) (by split <;> decide)

theorem State.canPassive_counters (s : State) (c : Nat) {lo n : Nat} (h : 2 ≤ lo) :
    (s.canPassive c).rf (canBase c + 0x10) lo n = s.rf (canBase c + 0x10) lo n := by
  unfold State.canPassive
  dsimp only
  split
  · rfl
  · exact State.rf_setRf_apart _ _ _ (.inr h)

theorem State.canNote_edge (s : State) (c : Nat) : (s.canNote c).edge = { s.edge with canWon := (s.canNote c).edge.canWon } := rfl

/-! Reception. -/

/-- A good frame lowers REC. -/
def State.canHeard (s : State) (c : Nat) : State :=
  (s.setRf (canBase c + 0x10) 16 8 (if 127 < s.rf (canBase c + 0x10) 16 8 then 127 else s.rf (canBase c + 0x10) 16 8 - 1)).canPassive c

theorem State.canHeard_regsBut (s : State) (c : Nat) : RegsBut (· = canBase c + 0x10) s (s.canHeard c) :=
  ((RegsBut.refl (rs := fun x => x = canBase c + 0x10)).setRf rfl ..).trans (State.canPassive_regsBut _ c)

theorem State.canHeard_filter (s : State) (c : Fin 4) {f : Nat} (hf : f < 32) (ide : Bool) (id : Nat) :
    (s.canHeard c.val).canFilter c.val f ide id = s.canFilter c.val f ide id := by
  have hreg : ∀ k, k < 8 → (s.canHeard c.val).reg (0x59100 + 0x100 * c.val + 8 * f + k) = s.reg (0x59100 + 0x100 * c.val + 8 * f + k) :=
    fun k hk => (s.canHeard_regsBut c.val).2 _ (by unfold canBase; omega)
  have hword := hreg 0 (by decide)
  have hmask := hreg 4 (by decide)
  rw [Nat.add_zero] at hword
  simp only [State.canFilter, State.rf, hword, hmask]

/-- The unit that a received frame makes. -/
def canUnit (s : State) (f : CanFrame) : RingUnit :=
  { kind := 5, start := i32 ((s.now 0 : Int) - f.dur.toNat), stop := s.stamp, payload := f.data, flags := 0, errs := 0,
    w8 := w32 (f.id.toNat + f.ide.toNat * 2 ^ 29 + f.fdf.toNat * 2 ^ 30 + f.brs.toNat * 2 ^ 31),
    w9 := w32 (f.dlc.toNat + f.esi.toNat * 16), w10 := 0 }

theorem State.canReceive_on {s : State} {c : Fin 4} {f : CanFrame} (hon : bit (s.reg (canBase c.val)) 0 = true)
    (hfd : f.fdf = true → bit (s.reg (canBase c.val)) 3 = true) (hbus : s.rf (canBase c.val + 0x10) 0 2 ≠ 2) :
    s.canReceive c.val f =
      if !(List.range 32).any (fun i => s.canFilter c.val i f.ide f.id.toNat) then (s.canHeard c.val).bump (canBase c.val + 0x18) 1
      else ((s.canHeard c.val).unitBegin (48 + c.val)).ringUnit (48 + c.val) (canUnit s f) := by
  have hgate : (!bit (s.reg (canBase c.val)) 0 || (f.fdf && !bit (s.reg (canBase c.val)) 3) || s.rf (canBase c.val + 0x10) 0 2 == 2) = false := by
    have hfdf : (f.fdf && !bit (s.reg (canBase c.val)) 3) = false := by
      cases hf : f.fdf with
      | false => rfl
      | true => rw [hfd hf]; rfl
    rw [hon, hfdf, beq_false_of_ne hbus]
    rfl
  have hany : (List.range 32).any (fun i => (s.canHeard c.val).canFilter c.val i f.ide f.id.toNat) =
      (List.range 32).any (fun i => s.canFilter c.val i f.ide f.id.toNat) := by
    refine Bool.eq_iff_iff.mpr ?_
    simp only [List.any_eq_true, List.mem_range]
    exact exists_congr fun i => and_congr_right fun hi => by rw [s.canHeard_filter c hi]
  have hunit : canUnit ((s.canHeard c.val).unitBegin (48 + c.val)) f = canUnit s f := by
    have htc : ((s.canHeard c.val).unitBegin (48 + c.val)).tc 0 = s.tc 0 :=
      State.tc_congr ((congrArg State.time (s.canHeard_regsBut c.val).1).trans rfl) 0
    simp only [canUnit, State.now, State.stamp, htc]
  rw [State.canReceive, if_neg (by rw [hgate]; decide), ← hany, ← hunit]
  rfl

/-! Requests. -/

theorem canTxReg (c : Fin 4) : findReg .can (0x680 + 4 * c.val) = some { name := "TX_REQ", off := 0x680, w1s := 0xFFFF, n := 4 } := by
  revert c; decide

theorem State.writeCan_txReq (s : State) (r : Requester) (c : Fin 4) (bufs : BitVec 16) :
    s.writeCan r (0x680 + 4 * c.val) (w32 bufs.toNat) = if mayTransmit r then
      (cOK, (s.setReg (0x59680 + 4 * c.val) (s.reg (0x59680 + 4 * c.val) ||| w32 bufs.toNat)).canNotes) else (cARG, s.canNotes) := by
  have hbufs : w32 bufs.toNat &&& w32 0xFFFF = w32 bufs.toNat := by
    have := bufs.isLt
    apply BitVec.eq_of_toNat_eq
    rw [BitVec.toNat_and, w32, w32, BitVec.toNat_ofNat, BitVec.toNat_ofNat]
    show _ &&& (2 ^ 16 - 1) = _
    rw [Nat.and_two_pow_sub_one_eq_mod]
    omega
  have hstore : s.storeReg .can (0x680 + 4 * c.val) (w32 bufs.toNat) =
      s.setReg (0x59680 + 4 * c.val) (s.reg (0x59680 + 4 * c.val) ||| w32 bufs.toNat) := by
    have haddr : Page.base .can + (0x680 + 4 * c.val) = 0x59680 + 4 * c.val := by
      show 0x59000 + _ = _
      omega
    have hzero : w32 0 = 0#32 := rfl
    simp only [State.storeReg, canTxReg, haddr, hzero, hbufs, BitVec.and_zero, BitVec.not_zero, BitVec.or_zero, BitVec.and_allOnes]
  have hreg : s.writeCanReg r (0x680 + 4 * c.val) (w32 bufs.toNat) =
      if mayTransmit r then s.store .can (0x680 + 4 * c.val) (w32 bufs.toNat) else (cARG, s) := by
    rw [State.writeCanReg, if_neg (by omega), if_neg (by omega), if_neg (by omega), if_neg (by omega), if_pos (by omega)]
  rw [State.writeCan, hreg, State.store, hstore]
  split <;> rfl

theorem mayTransmit_iff (r : Requester) : mayTransmit r = true ↔ r = .mgmt ∨ r = .slot := by
  cases r <;> decide

theorem State.txAbort_may {s : State} {r : Requester} (hr : mayTransmit r = true) (c : Nat) (bufs begun : BitVec 16) :
    s.txAbort r c bufs.toNat begun.toNat = (cOK, (s.setReg (0x59680 + 4 * c) (s.reg (0x59680 + 4 * c) &&&
      ~~~ (w32 bufs.toNat &&& ~~~ (w32 begun.toNat &&& Cells.get 0 s.edge.canWon c)))).canNote c) := by
  rw [State.txAbort, if_neg (by rw [hr]; decide), Nat.mod_eq_of_lt bufs.isLt]

theorem exec_txAbort {s : State} {r : Requester} {c : Fin 4} (bufs begun : BitVec 16) (h : Reaches s r (0x59690 + 4 * c.val) true) :
    exec (.txAbort r c bufs begun) s = .next ((s.txAbort r c.val bufs.toNat begun.toNat).2.respond r
      (s.txAbort r c.val bufs.toNat begun.toNat).1 0).done := by
  obtain ⟨hup, hsettled⟩ := h
  show (s.act fun s => s.abortWrite r c.val bufs.toNat begun.toNat) = _
  rw [State.act_up hup, State.abortWrite]
  simp only [hsettled]

theorem State.txDone_won {s : State} {c b : Nat} (hreq : bit (s.reg (0x59680 + 4 * c)) b = true)
    (hwon : bit (Cells.get 0 s.edge.canWon c) b = true) (hc : c < 4) :
    let w := (s.setReg (0x59680 + 4 * c) (setBit (s.reg (0x59680 + 4 * c)) b false)).setReg (0x596A0 + 4 * c)
      (setBit (s.reg (0x596A0 + 4 * c)) b true)
    s.txDone c b = (((w.setRf (canBase c + 0x10) 8 8 (s.rf (canBase c + 0x10) 8 8 - 1)).canPassive c).intRaise .can 2).canNote c := by
  intro w
  have hdone : (s.setReg (0x59680 + 4 * c) (setBit (s.reg (0x59680 + 4 * c)) b false)).reg (0x596A0 + 4 * c) = s.reg (0x596A0 + 4 * c) :=
    State.reg_setReg_ne _ _ (by omega)
  have htec : w.rf (canBase c + 0x10) 8 8 = s.rf (canBase c + 0x10) 8 8 :=
    congrArg (fld · 8 8) ((State.reg_setReg_ne _ _ (by unfold canBase; omega)).trans (State.reg_setReg_ne _ _ (by unfold canBase; omega)))
  rw [State.txDone, if_neg (by rw [hreq, hwon]; decide), ← htec]
  dsimp only
  rw [hdone]

/-! Errors. -/

section
variable (s : State) (c : Fin 4) (tec rec_ : Nat)

/-- The counters after a protocol error, before the controller's state follows them. -/
def State.canErrored : State :=
  let a := canBase c.val + 0x10
  ((s.setRf a 8 8 (min 255 (s.rf a 8 8 + tec))).setRf a 16 8 (min 255 (s.rf a 16 8 + rec_))).setRf (a + 4) 16 16 (min 65535 (s.rf (a + 4) 16 16 + 1))

theorem State.canErrored_regsBut :
    RegsBut (fun x => x = canBase c.val + 0x10 ∨ x = canBase c.val + 0x10 + 4) s (s.canErrored c tec rec_) :=
  ((RegsBut.refl.setRf (.inl rfl) ..).setRf (.inl rfl) ..).setRf (.inr rfl) ..

theorem State.canErrored_state : (s.canErrored c tec rec_).rf (canBase c.val + 0x10) 0 2 = s.rf (canBase c.val + 0x10) 0 2 := by
  have h1 : ∀ (t : State) v, (t.setRf (canBase c.val + 0x10 + 4) 16 16 v).rf (canBase c.val + 0x10) 0 2 = t.rf (canBase c.val + 0x10) 0 2 :=
    fun t v => congrArg (fld · 0 2) (State.reg_setReg_ne _ _ (by omega))
  rw [State.canErrored, h1, State.rf_setRf_apart _ _ _ (.inl (by decide)), State.rf_setRf_apart _ _ _ (.inl (by decide))]

theorem State.canErrored_tec : (s.canErrored c tec rec_).rf (canBase c.val + 0x10) 8 8 = min 255 (s.rf (canBase c.val + 0x10) 8 8 + tec) := by
  have h1 : ∀ (t : State) v, (t.setRf (canBase c.val + 0x10 + 4) 16 16 v).rf (canBase c.val + 0x10) 8 8 = t.rf (canBase c.val + 0x10) 8 8 :=
    fun t v => congrArg (fld · 8 8) (State.reg_setReg_ne _ _ (by omega))
  rw [State.canErrored, h1, State.rf_setRf_apart _ _ _ (.inl (by decide)), State.rf_setRf_self _ _ (by decide) (by omega)]

theorem State.canErrored_rec :
    (s.canErrored c tec rec_).rf (canBase c.val + 0x10) 16 8 = min 255 (s.rf (canBase c.val + 0x10) 16 8 + rec_) := by
  have h1 : ∀ (t : State) v, (t.setRf (canBase c.val + 0x10 + 4) 16 16 v).rf (canBase c.val + 0x10) 16 8 = t.rf (canBase c.val + 0x10) 16 8 :=
    fun t v => congrArg (fld · 16 8) (State.reg_setReg_ne _ _ (by omega))
  rw [State.canErrored, h1, State.rf_setRf_self _ _ (by decide) (by omega)]

theorem State.canErrored_errs :
    (s.canErrored c tec rec_).rf (canBase c.val + 0x10 + 4) 16 16 = min 65535 (s.rf (canBase c.val + 0x10 + 4) 16 16 + 1) :=
  State.rf_setRf_self _ _ (by decide) (by omega)

variable {s c}

theorem State.canError_on (hon : bit (s.reg (canBase c.val)) 0 = true) :
    s.canError c.val tec rec_ = (s.canErrored c tec rec_).canPassive c.val := by
  have hrec : (s.setRf (canBase c.val + 0x10) 8 8 (min 255 (s.rf (canBase c.val + 0x10) 8 8 + tec))).rf (canBase c.val + 0x10) 16 8 =
      s.rf (canBase c.val + 0x10) 16 8 := State.rf_setRf_apart _ _ _ (.inr (by decide))
  have herrs : ((s.setRf (canBase c.val + 0x10) 8 8 (min 255 (s.rf (canBase c.val + 0x10) 8 8 + tec))).setRf (canBase c.val + 0x10) 16 8
      (min 255 (s.rf (canBase c.val + 0x10) 16 8 + rec_))).rf (canBase c.val + 0x10 + 4) 16 16 = s.rf (canBase c.val + 0x10 + 4) 16 16 :=
    congrArg (fld · 16 16) ((State.reg_setReg_ne _ _ (by omega)).trans (State.reg_setReg_ne _ _ (by omega)))
  simp only [State.canError, hon, Bool.not_true, Bool.false_eq_true, if_false, satAdd_eq_min, State.bumpFld_eq, hrec]
  rw [State.canErrored, herrs] <;> rfl

end

theorem exec_canProtocolError {s : State} (hruns : Runs s 31) (hcalm : Calm s) {c : Fin 4} (tec rec_ : BitVec 9)
    (hon : bit (s.reg (canBase c.val)) 0 = true) : ∃ t, exec (.canProtocolError c tec rec_) s = .next t ∧
      SameBut (fun x => x = canBase c.val + 0x10 ∨ x = canBase c.val + 0x10 + 4) s t ∧
      t.rf (canBase c.val + 0x10) 8 8 = min 255 (s.rf (canBase c.val + 0x10) 8 8 + tec.toNat) ∧
      t.rf (canBase c.val + 0x10) 16 8 = min 255 (s.rf (canBase c.val + 0x10) 16 8 + rec_.toNat) ∧
      t.rf (canBase c.val + 0x10 + 4) 16 16 = min 65535 (s.rf (canBase c.val + 0x10 + 4) 16 16 + 1) ∧
      (s.rf (canBase c.val + 0x10) 0 2 ≠ 2 → t.rf (canBase c.val + 0x10) 0 2 =
        if 127 < t.rf (canBase c.val + 0x10) 8 8 ∨ 127 < t.rf (canBase c.val + 0x10) 16 8 then 1 else 0) := by
  have hregs : RegsBut (fun x => x = canBase c.val + 0x10 ∨ x = canBase c.val + 0x10 + 4) s ((s.canErrored c tec.toNat rec_.toNat).canPassive c.val) :=
    (s.canErrored_regsBut c _ _).trans ((State.canPassive_regsBut _ c.val).mono fun _ => .inl)
  have hrf : ∀ lo n, ((s.canErrored c tec.toNat rec_.toNat).canPassive c.val).done.rf (canBase c.val + 0x10) lo n =
      ((s.canErrored c tec.toNat rec_.toNat).canPassive c.val).rf (canBase c.val + 0x10) lo n := fun lo n =>
    congrArg (fld · lo n) (State.done_reg (hregs.calm hcalm) (canBase_notin_endRegs c (by decide)))
  have hpassive : ((s.canErrored c tec.toNat rec_.toNat).canPassive c.val).reg (canBase c.val + 0x10 + 4) =
      (s.canErrored c tec.toNat rec_.toNat).reg (canBase c.val + 0x10 + 4) := (State.canPassive_regsBut _ c.val).2 _ (by omega)
  refine ⟨((s.canErrored c tec.toNat rec_.toNat).canPassive c.val).done, ?_, hregs.sameBut_done hcalm, ?_, ?_, ?_, fun hbus => ?_⟩
  · show (s.actIn 31 fun s => s.canError c.val tec.toNat rec_.toNat) = _
    rw [State.actIn_runs hruns, State.canError_on _ _ hon]
  · rw [hrf, State.canPassive_counters _ _ (by decide), State.canErrored_tec]
  · rw [hrf, State.canPassive_counters _ _ (by decide), State.canErrored_rec]
  · rw [State.rf, State.done_reg (a := canBase c.val + 0x14) (hregs.calm hcalm) (canBase_notin_endRegs c (by decide)), hpassive]
    exact State.canErrored_errs s c _ _
  · rw [hrf, hrf, hrf, State.canPassive_state (by rw [State.canErrored_state]; exact hbus), State.canPassive_counters _ _ (by decide),
      State.canPassive_counters _ _ (by decide)]

/-- The controller off the bus, before its requests are looked at again. -/
def State.canLeft (s : State) (c : Nat) : State :=
  ((s.setRf (canBase c + 0x10) 0 2 2).bumpFld (canBase c + 0x14) 0 16).intRaise .can 0

theorem State.canLeft_regsBut (s : State) (c : Nat) :
    RegsBut (fun x => x = canBase c + 0x10 ∨ x = canBase c + 0x10 + 4 ∨ x = 0x59014) s (s.canLeft c) :=
  ((RegsBut.refl.setRf (.inl rfl) ..).bumpFld (.inr (.inl rfl)) ..).intRaise (p := .can) (.inr (.inr rfl)) 0

theorem State.canLeft_state (s : State) (c : Fin 4) : (s.canLeft c.val).rf (canBase c.val + 0x10) 0 2 = 2 := by
  have hraise : (s.canLeft c.val).reg (canBase c.val + 0x10) = (s.setRf (canBase c.val + 0x10) 0 2 2).reg (canBase c.val + 0x10) :=
    (State.reg_intRaise_off _ _ _ (by unfold canBase; omega)).trans (State.reg_setReg_ne _ _ (by omega))
  rw [State.rf, hraise]
  exact State.rf_setRf_self _ _ (by decide) (by decide)

theorem State.canLeft_count (s : State) (c : Fin 4) :
    (s.canLeft c.val).rf (canBase c.val + 0x14) 0 16 = min 65535 (s.rf (canBase c.val + 0x14) 0 16 + 1) := by
  have hraise : (s.canLeft c.val).reg (canBase c.val + 0x14) =
      ((s.setRf (canBase c.val + 0x10) 0 2 2).bumpFld (canBase c.val + 0x14) 0 16).reg (canBase c.val + 0x14) :=
    State.reg_intRaise_off _ _ _ (by unfold canBase; omega)
  have hcount : (s.setRf (canBase c.val + 0x10) 0 2 2).rf (canBase c.val + 0x14) 0 16 = s.rf (canBase c.val + 0x14) 0 16 :=
    congrArg (fld · 0 16) (State.reg_setReg_ne _ _ (by omega))
  rw [State.rf, hraise, ← State.rf, State.bumpFld_eq, State.rf_setRf_self _ _ (by decide) (by omega), hcount] <;> rfl

theorem exec_busOff {s : State} (hruns : Runs s 31) (hcalm : Calm s) {c : Fin 4} (hon : bit (s.reg (canBase c.val)) 0 = true)
    (hbus : s.rf (canBase c.val + 0x10) 0 2 ≠ 2) : ∃ t, exec (.busOff c) s = .next t ∧
      SameBut (fun x => x = canBase c.val + 0x10 ∨ x = canBase c.val + 0x10 + 4 ∨ x = 0x59014) ({ s with edge := t.edge } : State) t ∧
      t.edge = { s.edge with canWon := t.edge.canWon } ∧ t.rf (canBase c.val + 0x10) 0 2 = 2 ∧
      t.rf (canBase c.val + 0x10 + 4) 0 16 = min 65535 (s.rf (canBase c.val + 0x10 + 4) 0 16 + 1) ∧ bit (t.reg 0x59014) 0 = true := by
  have hleft := s.canLeft_regsBut c.val
  have hcalm' : Calm ((s.canLeft c.val).canNote c.val) := hleft.calm hcalm
  have hedge : ((s.canLeft c.val).canNote c.val).done.edge = ((s.canLeft c.val).canNote c.val).edge := State.done_edge hcalm'
  have hregs : RegsBut (fun x => x = canBase c.val + 0x10 ∨ x = canBase c.val + 0x10 + 4 ∨ x = 0x59014)
      ({ s with edge := ((s.canLeft c.val).canNote c.val).edge } : State) ((s.canLeft c.val).canNote c.val) :=
    ⟨congrArg (State.canNote · c.val) hleft.1 |>.trans rfl, hleft.2⟩
  have hreg : ∀ ofs, ofs < 0x20 → ((s.canLeft c.val).canNote c.val).done.reg (canBase c.val + ofs) = (s.canLeft c.val).reg (canBase c.val + ofs) :=
    fun ofs hofs => State.done_reg hcalm' (canBase_notin_endRegs c hofs)
  refine ⟨((s.canLeft c.val).canNote c.val).done, ?_, ?_, ?_, ?_, ?_, ?_⟩
  · show (s.actIn 31 fun s => s.canBusOff c.val) = _
    rw [State.actIn_runs hruns, State.canBusOff, if_neg (by rw [hon]; exact not_or.mpr ⟨by decide, hbus⟩)]
    rfl
  · rw [hedge]
    exact hregs.sameBut_done hcalm
  · rw [hedge, State.canNote_edge, (congrArg State.edge hleft.1).trans rfl]
  · rw [State.rf, hreg 0x10 (by decide)]
    exact State.canLeft_state s c
  · rw [State.rf, Nat.add_assoc, hreg 0x14 (by decide)]
    exact State.canLeft_count s c
  · exact State.done_mono hcalm' (by decide) 0 (State.intRaise_self _ .can 0 (by decide))

/-- Settles O24: a received frame by what filters it, a request by its requester, an error by the counters that follow it. -/
theorem canPorts : Obligations.CanPorts := by
  refine ⟨fun s c f b r bufs begun => ?_, fun s c tec rec_ hruns hcalm => ?_⟩
  · intro base e heard passes
    refine ⟨fun hruns hon hfd hbus => ?_, fun hreach => ?_, fun hreach => ?_, fun hruns hreq hwon => ?_⟩
    · have hexec : exec (.canFrameReceive c f) s = .next (s.canReceive c.val f).done := by
        show (s.actIn 31 fun s => s.canReceive c.val f) = _
        exact State.actIn_runs hruns _
      have hany : (!(List.range 32).any fun i => s.canFilter c.val i f.ide f.id.toNat) = true ↔ ¬ passes := by
        simp [passes]
      refine ⟨fun hno => ?_, fun hyes => ?_⟩
      · rw [hexec, State.canReceive_on hon hfd hbus, if_pos (hany.mpr hno)]
        rfl
      · rw [hexec, State.canReceive_on hon hfd hbus, if_neg fun h => hany.mp h hyes]
        rfl
    · have haddr : Page.base .can + (0x680 + 4 * c.val) = 0x59680 + 4 * c.val := by
        show 0x59000 + _ = _
        omega
      have hserve : s.serveWrite r .can (0x680 + 4 * c.val) (w32 bufs.toNat) = s.writeCan r (0x680 + 4 * c.val) (w32 bufs.toNat) := by
        show (if 0x680 + 4 * c.val < 0x100 then _ else _) = _
        rw [if_neg (by omega)]
        rfl
      have hexec : exec (.txReq r c bufs) s = .next ((s.writeCan r (0x680 + 4 * c.val) (w32 bufs.toNat)).2.respond r
          (s.writeCan r (0x680 + 4 * c.val) (w32 bufs.toNat)).1 0).done := by
        show (s.act fun s => s.regWrite r (wordAccess (0x59680 + 4 * c.val)) (w32 bufs.toNat)) = _
        rw [← hserve, ← haddr]
        exact act_pageWrite (p := .can) (off := 0x680 + 4 * c.val) _ (by omega) (by decide) (haddr ▸ hreach)
      refine ⟨fun hr => ?_, fun hr => ?_⟩
      · rw [hexec, State.writeCan_txReq, if_pos ((mayTransmit_iff r).mpr hr)]
      · rw [hexec, State.writeCan_txReq, if_neg (mt (mayTransmit_iff r).mp hr)]
    · refine ⟨fun hr => ?_, fun hr => ?_⟩
      · rw [exec_txAbort bufs begun hreach, State.txAbort_may ((mayTransmit_iff r).mpr hr)]
      · rw [exec_txAbort bufs begun hreach, State.txAbort, if_pos (by rw [Bool.eq_false_iff.mpr (mt (mayTransmit_iff r).mp hr)]; rfl)]
    · intro u w
      show (s.actIn 31 fun s => s.txDone c.val b.val) = _
      rw [State.actIn_runs hruns, State.txDone_won hreq hwon c.isLt]
  · intro a
    refine ⟨exec_canProtocolError hruns hcalm tec rec_, exec_busOff hruns hcalm, fun hauto hbus => ?_, fun hauto => ?_⟩
    · show (s.actIn 31 fun s => s.canRecover c.val) = _
      rw [State.actIn_runs hruns, State.canRecover, if_pos ⟨hauto, hbus⟩]
    · show (s.actIn 31 fun s => s.canRecover c.val) = _
      rw [State.actIn_runs hruns, State.canRecover, if_neg fun h => absurd (hauto.symm.trans h.1) (by decide)]

end Sys2Proof.Machine
end

section
/-! LPDDR6 without errors, and the words of a record. -/

namespace Sys2Proof.Machine

theorem State.readLine_clean {s : State} (h : s.dramBad = []) (line : Nat) (ctx : Option Nat) (scrub : Bool) :
    s.readLine line ctx scrub = (false, s) := by
  have hline : s.lineBad line = 0 := by rw [State.lineBad, h]; rfl
  unfold State.readLine
  exact if_pos hline

theorem State.setLineBad_clean {s : State} (h : s.dramBad = []) (line : Nat) : s.setLineBad line 0 = s := by
  rw [State.setLineBad, h, show Cells.put (0 : Nat) [] line 0 = [] by simp [Cells.put], ← h]

/-- A store finds no error where the memory holds none. -/
theorem State.dramWrite_clean {s : State} (h : s.dramBad = []) (ctx : Option Nat) (a : Nat) (bs : List Byte) :
    s.dramWrite ctx a bs = (false, { s with dram := s.dram.store a bs }) := by
  rw [State.dramWrite]
  dsimp only
  rw [foldl_eq_of_fixed fun line => by
    simp only [State.setLineBad_clean h, State.readLine_clean h, Bool.or_self, Bool.false_eq_true, if_false, ite_self]]

/-- Word `k` of a list of words. -/
theorem wordBytes_word (ws : List Word) {k : Nat} (hk : k < ws.length) : ((wordBytes ws).drop (4 * k)).take 4 = leBytes 4 (ws.getD k 0).toNat := by
  induction ws generalizing k with
  | nil => exact absurd hk (by simp)
  | cons w ws ih =>
    have hlen : (leBytes 4 w.toNat).length = 4 := by rw [leBytes_four]; rfl
    rw [wordBytes_cons]
    cases k with
    | zero => exact List.take_left' hlen
    | succ k =>
      rw [Nat.mul_succ, Nat.add_comm, ← List.drop_drop, List.drop_left' hlen, ih (by simpa using hk)]
      rfl

/-- Word `k` of words stored at `a`. -/
theorem Mem.leNat_word (m : Mem) (a : Nat) {ws : List Word} {k : Nat} (hk : k < ws.length) :
    leNat ((m.store a (wordBytes ws)).bytes (a + 4 * k) 4) = (ws.getD k 0).toNat := by
  rw [Mem.bytes_store_part _ _ _ _ (by rw [length_wordBytes]; omega), wordBytes_word ws hk, leNat_leBytes]
  exact Nat.mod_eq_of_lt (ws.getD k 0).isLt

end Sys2Proof.Machine
end

section
/-! The ring writer (rules R118–R124, R146, R147), where LPDDR6 holds no error: a record enters memory, the ring counts it, events and the ring's
signal follow. -/

namespace Sys2Proof.Machine

theorem State.ringSt_setRing_self (s : State) (i : Nat) (r : RingSt) : (s.setRing i r).ringSt i = r := Cells.get_put_self ..

/-- Where ring `i` writes its next record. -/
def State.ringSlot (s : State) (i : Nat) : Nat :=
  s.ringBase i + (s.reg (ringGroup i + 0x18)).toNat % s.ringSlots i * s.ringSlotBytes i

/-- What of a unit's payload fits its slot. -/
def State.ringPayload (s : State) (i : Nat) (u : RingUnit) : List Byte := u.payload.take (s.ringSlotBytes i - 64)

/-- The header of a record without an error of the memory (rule R124). -/
def State.ringHeader (s : State) (i : Nat) (u : RingUnit) : List Word :=
  let r := s.ringSt i
  let flags := u.flags + (decide (s.ringSlotBytes i - 64 < u.payload.length)).toNat + (r.retryPrev || r.retryCur).toNat * 0x10 +
    r.gap.toNat * 0x20 + 0
  [w32 (i + u.kind * 256 + flags * 65536), s.reg (ringGroup i + 0x20), u.start, u.stop, w32 (s.ringPayload i u).length,
    w32 u.payload.length, r.drops, u.errs, u.w8, u.w9, u.w10, 0, 0, 0, 0, 0]

def State.ringRecorded (s : State) (i : Nat) (u : RingUnit) : State :=
  State.setRing { s with dram := (s.dram.store (s.ringSlot i + 64) (s.ringPayload i u)).store (s.ringSlot i) (wordBytes (s.ringHeader i u)) } i
    { s.ringSt i with drops := 0, gap := false }

def State.ringCounted (s : State) (i : Nat) (start : Word) : State :=
  ((s.bumpWrap (ringGroup i + 0x18) 1).bumpWrap (ringGroup i + 0x20) 1).setReg (ringGroup i + 0x2C) start

def State.ringRaised (s : State) (trunc err : Prop) [Decidable trunc] [Decidable err] : State :=
  let s := if trunc then s.intRaise .ingest 2 else s
  if err then s.intRaise .ingest 3 else s

def State.ringSignals (s : State) (i : Nat) : State :=
  if bit (s.reg (ringGroup i + 0x10)) 2 then s.signal (s.rf (ringGroup i + 0x14) 0 17) 1 else s

/-- A second store, behind a first one. -/
theorem State.dramWrite_again {s : State} (h : s.dramBad = []) (m : Mem) (ctx : Option Nat) (a : Nat) (bs : List Byte) :
    ({ s with dram := m } : State).dramWrite ctx a bs = (false, { s with dram := m.store a bs }) :=
  State.dramWrite_clean (s := { s with dram := m }) h ctx a bs

theorem State.ringWrite_clean {s : State} (h : s.dramBad = []) (i : Nat) (u : RingUnit) :
    s.ringWrite i u = (((s.ringRecorded i u).ringCounted i u.start).ringRaised
      (decide (s.ringSlotBytes i - 64 < u.payload.length) = true) (u.flags &&& 0x4E ≠ 0 ∨ false = true)).ringSignals i := by
  unfold State.ringWrite
  dsimp only
  rw [State.dramWrite_clean h]
  dsimp only
  rw [if_neg Bool.false_ne_true, State.dramWrite_again h]
  rfl

/-! What each stage leaves unchanged. -/

theorem State.ringCounted_regsBut (s : State) (i : Nat) (start : Word) :
    RegsBut (fun x => x = ringGroup i + 0x18 ∨ x = ringGroup i + 0x20 ∨ x = ringGroup i + 0x2C) s (s.ringCounted i start) :=
  ((RegsBut.refl.bumpWrap (.inl rfl) _).bumpWrap (.inr (.inl rfl)) _).setReg (.inr (.inr rfl)) _

theorem State.ringRaised_regsBut (s : State) (trunc err : Prop) [Decidable trunc] [Decidable err] :
    RegsBut (fun x => x = 0x5B014) s (s.ringRaised trunc err) := by
  have htrunc : RegsBut (fun x => x = 0x5B014) s (if trunc then s.intRaise .ingest 2 else s) :=
    .ite ((RegsBut.refl (rs := fun x => x = 0x5B014)).intRaise (p := .ingest) rfl 2) .refl
  exact .ite (htrunc.intRaise (p := .ingest) rfl 3) htrunc

theorem State.ringRaised_mono (s : State) (trunc err : Prop) [Decidable trunc] [Decidable err] {j : Nat} (h : bit (s.reg 0x5B014) j = true) :
    bit ((s.ringRaised trunc err).reg 0x5B014) j = true := by
  have htrunc : bit ((if trunc then s.intRaise .ingest 2 else s).reg 0x5B014) j = true := by
    split
    · exact State.intRaise_mono _ _ _ _ _ h
    · exact h
  unfold State.ringRaised
  dsimp only
  split
  · exact State.intRaise_mono _ _ _ _ _ htrunc
  · exact htrunc

/-- A signal changes its gate, and raises the headgate's saturation event. -/
theorem State.signal_cases (s : State) (g n : Nat) :
    s.signal g n = s ∨ ∃ x, s.signal g n = s.setGate g x ∨ s.signal g n = (s.setGate g x).intRaise .headgate 9 := by
  unfold State.signal
  dsimp only
  split
  · exact .inl rfl
  · split
    · exact .inr ⟨_, .inr rfl⟩
    · exact .inr ⟨_, .inl rfl⟩

theorem State.ringSignals_reg (s : State) (i : Nat) {x : Nat} (hx : x ≠ 0x10014) : (s.ringSignals i).reg x = s.reg x := by
  unfold State.ringSignals
  split
  · rcases s.signal_cases (s.rf (ringGroup i + 0x14) 0 17) 1 with heq | ⟨y, heq | heq⟩
    · rw [heq]
    · rw [heq]; rfl
    · rw [heq]; exact State.reg_setReg_ne _ _ hx
  · rfl

theorem State.ringSignals_off {s : State} {i : Nat} (h : bit (s.reg (ringGroup i + 0x10)) 2 = false) : s.ringSignals i = s := by
  rw [State.ringSignals, if_neg (by rw [h]; decide)]

/-! A record written. -/

theorem ringGroup_bounds {i : Nat} (hi : i < 52) : 0x5B100 ≤ ringGroup i ∧ ringGroup i ≤ 0x5BDC0 := by
  unfold ringGroup
  omega

section
variable {s : State} {i : Nat} (u : RingUnit) (h : s.dramBad = []) (hi : i < 52)
include h hi

omit hi in
/-- Registers that the writer leaves unchanged. -/
theorem State.ringWrite_reg {x : Nat} (h18 : x ≠ ringGroup i + 0x18) (h20 : x ≠ ringGroup i + 0x20) (h2C : x ≠ ringGroup i + 0x2C)
    (hraw : x ≠ 0x5B014) (hsat : x ≠ 0x10014) : (s.ringWrite i u).reg x = s.reg x := by
  rw [State.ringWrite_clean h, State.ringSignals_reg _ _ hsat, (State.ringRaised_regsBut _ _ _).2 x hraw,
    (State.ringCounted_regsBut _ _ _).2 x (by omega)]
  rfl

theorem State.ringWrite_wcount : (s.ringWrite i u).reg (ringGroup i + 0x18) = s.reg (ringGroup i + 0x18) + 1 := by
  have := ringGroup_bounds hi
  rw [State.ringWrite_clean h, State.ringSignals_reg _ _ (by omega), (State.ringRaised_regsBut _ _ _).2 _ (by omega), State.ringCounted,
    State.reg_setReg_ne _ _ (by omega), State.reg_bumpWrap_ne _ (by omega)]
  exact State.reg_setReg_self ..

theorem State.ringWrite_seq : (s.ringWrite i u).reg (ringGroup i + 0x20) = s.reg (ringGroup i + 0x20) + 1 := by
  have := ringGroup_bounds hi
  rw [State.ringWrite_clean h, State.ringSignals_reg _ _ (by omega), (State.ringRaised_regsBut _ _ _).2 _ (by omega), State.ringCounted,
    State.reg_setReg_ne _ _ (by omega), State.bumpWrap_one, State.reg_setReg_self, State.reg_bumpWrap_ne _ (by omega)]
  rfl

theorem State.ringWrite_start : (s.ringWrite i u).reg (ringGroup i + 0x2C) = u.start := by
  have := ringGroup_bounds hi
  rw [State.ringWrite_clean h, State.ringSignals_reg _ _ (by omega), (State.ringRaised_regsBut _ _ _).2 _ (by omega)]
  exact State.reg_setReg_self ..

omit hi in
theorem State.ringWrite_raised {j : Nat} (hbit : bit (s.reg 0x5B014) j = true) (hi : i < 52) : bit ((s.ringWrite i u).reg 0x5B014) j = true := by
  have := ringGroup_bounds hi
  rw [State.ringWrite_clean h, State.ringSignals_reg _ _ (by decide)]
  refine State.ringRaised_mono _ _ _ ?_
  rw [(State.ringCounted_regsBut _ _ _).2 _ (by omega)]
  exact hbit

/-- Without a signal, the memory and the ring's own state are those of the record. -/
theorem State.ringWrite_frame (hquiet : bit (s.reg (ringGroup i + 0x10)) 2 = false) :
    (s.ringWrite i u).dram = (s.ringRecorded i u).dram ∧ (s.ringWrite i u).edge = (s.ringRecorded i u).edge := by
  have hg := ringGroup_bounds hi
  have hcounted := State.ringCounted_regsBut (s.ringRecorded i u) i u.start
  have hraised := State.ringRaised_regsBut ((s.ringRecorded i u).ringCounted i u.start)
    (decide (s.ringSlotBytes i - 64 < u.payload.length) = true) (u.flags &&& 0x4E ≠ 0 ∨ false = true)
  have hctrl : (((s.ringRecorded i u).ringCounted i u.start).ringRaised (decide (s.ringSlotBytes i - 64 < u.payload.length) = true)
      (u.flags &&& 0x4E ≠ 0 ∨ false = true)).reg (ringGroup i + 0x10) = s.reg (ringGroup i + 0x10) := by
    rw [hraised.2 _ (by omega), hcounted.2 _ (by omega)]
    rfl
  rw [State.ringWrite_clean h, State.ringSignals_off (by rw [hctrl]; exact hquiet), hraised.1]
  refine ⟨?_, ?_⟩
  · exact (congrArg State.dram hcounted.1).trans rfl
  · exact (congrArg State.edge hcounted.1).trans rfl

end

/-! A completed unit, by what its ring does with it (rules R120, R121, R123). -/

section
variable {s : State} {i : Nat} (u : RingUnit)

theorem State.ringUnit_none (h : s.ringTakes i = false) : s.ringUnit i u = s := by
  rw [State.ringUnit, if_pos (by rw [h]; rfl)]

theorem State.ringUnit_drop (htakes : s.ringTakes i = true) (h : s.ringBarred i = true ∨
    ((s.reg (ringGroup i + 0x18) - s.reg (ringGroup i + 0x1C)).toNat = s.ringSlots i ∧ bit (s.reg (ringGroup i + 0x10)) 1 = false)) :
    s.ringUnit i u = (s.ringDrop i).ringUnbusy i := by
  rw [State.ringUnit, if_neg (by rw [htakes]; decide)]
  dsimp only
  rcases h with hbar | ⟨hfull, hover⟩
  · rw [if_pos hbar]
  · rw [hfull, beq_self_eq_true, if_pos rfl, hover, if_neg Bool.false_ne_true, ite_self]

theorem State.ringUnit_write (htakes : s.ringTakes i = true) (hbar : s.ringBarred i = false)
    (hroom : ¬ (s.reg (ringGroup i + 0x18) - s.reg (ringGroup i + 0x1C)).toNat = s.ringSlots i) :
    s.ringUnit i u = (s.ringWrite i u).ringUnbusy i := by
  rw [State.ringUnit, if_neg (by rw [htakes]; decide)]
  dsimp only
  rw [if_neg (by rw [hbar]; decide), if_neg (by rw [beq_iff_eq]; exact hroom)]

/-- A full ring with OVERWRITE gives up its oldest record. -/
def State.ringGiveUp (s : State) (i : Nat) : State := ((s.bumpWrap (ringGroup i + 0x1C) 1).bump (ringGroup i + 0x28) 1).intRaise .ingest 1

theorem State.ringUnit_overwrite (htakes : s.ringTakes i = true) (hbar : s.ringBarred i = false)
    (hfull : (s.reg (ringGroup i + 0x18) - s.reg (ringGroup i + 0x1C)).toNat = s.ringSlots i)
    (hover : bit (s.reg (ringGroup i + 0x10)) 1 = true) : s.ringUnit i u = ((s.ringGiveUp i).ringWrite i u).ringUnbusy i := by
  rw [State.ringUnit, if_neg (by rw [htakes]; decide)]
  dsimp only
  rw [if_neg (by rw [hbar]; decide), if_pos (by rw [hfull, beq_self_eq_true]), if_pos hover]
  rfl

theorem State.ringUnbusy_reg (s : State) (i : Nat) {x : Nat} (hx : x ≠ ringGroup i + 0x10) : (s.ringUnbusy i).reg x = s.reg x :=
  State.reg_setReg_ne _ _ hx

end

/-- A unit that is lost (rule R121). -/
theorem State.ringUnit_drops (s : State) {i : Nat} (hi : i < 52) :
    let g := ringGroup i
    let t := (s.ringDrop i).ringUnbusy i
    t.dram = s.dram ∧ t.reg (g + 0x18) = s.reg (g + 0x18) ∧ t.reg (g + 0x1C) = s.reg (g + 0x1C) ∧ t.reg (g + 0x20) = s.reg (g + 0x20) + 1 ∧
      t.reg (g + 0x24) = satInc (s.reg (g + 0x24)) 1 ∧ bit (t.reg 0x5B014) 0 = true ∧
      (t.ringSt i).gap = true ∧ (t.ringSt i).drops = satInc (s.ringSt i).drops 1 := by
  intro g t
  have hg := ringGroup_bounds hi
  have hself : t.ringSt i = { s.ringSt i with drops := satInc (s.ringSt i).drops 1, gap := true } := State.ringSt_setRing_self ..
  have hreg : ∀ x, x ≠ g + 0x10 → x ≠ 0x5B014 → t.reg x = ((s.bumpWrap (g + 0x20) 1).bump (g + 0x24) 1).reg x := fun x hctrl hraw =>
    (State.ringUnbusy_reg _ _ hctrl).trans (State.reg_setReg_ne _ _ hraw)
  refine ⟨rfl, ?_, ?_, ?_, ?_, ?_, by rw [hself], by rw [hself]⟩
  · rw [hreg _ (by omega) (by omega)]
    exact (State.reg_setReg_ne _ _ (by omega)).trans (State.reg_setReg_ne _ _ (by omega))
  · rw [hreg _ (by omega) (by omega)]
    exact (State.reg_setReg_ne _ _ (by omega)).trans (State.reg_setReg_ne _ _ (by omega))
  · rw [hreg _ (by omega) (by omega)]
    exact (State.reg_setReg_ne _ _ (by omega)).trans (State.reg_setReg_self ..)
  · rw [hreg _ (by omega) (by omega)]
    refine (State.reg_setReg_self ..).trans ?_
    rw [State.reg_bumpWrap_ne _ (by omega)]
  · rw [State.ringUnbusy_reg _ _ (by omega)]
    exact State.intRaise_self _ .ingest 0 (by decide)

/-- A unit that is written (rules R119, R122, R124). -/
theorem State.ringUnit_writes {s : State} {i : Nat} (u : RingUnit) (hi : i < 52) (hclean : s.dramBad = [])
    (hquiet : bit (s.reg (ringGroup i + 0x10)) 2 = false) :
    let g := ringGroup i
    let t := (s.ringWrite i u).ringUnbusy i
    let a := s.ringBase i + (s.reg (g + 0x18)).toNat % s.ringSlots i * s.ringSlotBytes i
    let n := min u.payload.length (s.ringSlotBytes i - 64)
    t.reg (g + 0x18) = s.reg (g + 0x18) + 1 ∧ t.reg (g + 0x1C) = s.reg (g + 0x1C) ∧ t.reg (g + 0x20) = s.reg (g + 0x20) + 1 ∧
      t.reg (g + 0x2C) = u.start ∧ (t.ringSt i).gap = false ∧ (t.ringSt i).drops = 0 ∧
      (∀ b, (b < a ∨ a + 64 + n ≤ b) → t.dram.byte b = s.dram.byte b) ∧
      (∀ j, j < n → t.dram.byte (a + 64 + j) = u.payload.getD j 0) ∧
      leNat (t.dram.bytes (a + 4) 4) = (s.reg (g + 0x20)).toNat ∧ leNat (t.dram.bytes (a + 8) 4) = u.start.toNat ∧
      leNat (t.dram.bytes (a + 12) 4) = u.stop.toNat ∧ leNat (t.dram.bytes (a + 16) 4) = n % 2 ^ 32 ∧
      leNat (t.dram.bytes (a + 24) 4) = (s.ringSt i).drops.toNat := by
  intro g t a n
  have hg := ringGroup_bounds hi
  obtain ⟨hdram, hedge⟩ := State.ringWrite_frame u hclean hi hquiet
  have hself : t.ringSt i = { s.ringSt i with drops := 0, gap := false } :=
    (congrArg (Cells.get ringReset · i) (congrArg Edge.ring hedge)).trans (State.ringSt_setRing_self ..)
  have hmem : t.dram = (s.dram.store (a + 64) (s.ringPayload i u)).store a (wordBytes (s.ringHeader i u)) := hdram
  have hpay : (s.ringPayload i u).length = n := by rw [State.ringPayload, List.length_take, Nat.min_comm]
  have hhdr : (wordBytes (s.ringHeader i u)).length = 64 := length_wordBytes _
  have hword : ∀ k, k < 16 → leNat (t.dram.bytes (a + 4 * k) 4) = ((s.ringHeader i u).getD k 0).toNat := fun k hk => by
    rw [hmem]
    exact Mem.leNat_word _ _ hk
  refine ⟨?_, ?_, ?_, ?_, by rw [hself], by rw [hself], fun b hb => ?_, fun j hj => ?_, hword 1 (by decide), hword 2 (by decide),
    hword 3 (by decide), ?_, hword 6 (by decide)⟩
  · rw [State.ringUnbusy_reg _ _ (by omega), State.ringWrite_wcount u hclean hi]
  · rw [State.ringUnbusy_reg _ _ (by omega), State.ringWrite_reg u hclean] <;> omega
  · rw [State.ringUnbusy_reg _ _ (by omega), State.ringWrite_seq u hclean hi]
  · rw [State.ringUnbusy_reg _ _ (by omega), State.ringWrite_start u hclean hi]
  · rw [hmem, Mem.byte_store, if_neg (by omega), Mem.byte_store, if_neg (by omega)]
  · rw [hmem, Mem.byte_store, if_neg (by omega), Mem.byte_store, if_pos (by omega), Nat.add_sub_cancel_left, State.ringPayload,
      List.getD_eq_getElem?_getD, List.getElem?_take_of_lt (by omega), ← List.getD_eq_getElem?_getD]
  · rw [hword 4 (by decide)]
    show (w32 (s.ringPayload i u).length).toNat = _
    rw [hpay, w32, BitVec.toNat_ofNat]

/-- A unit that takes the oldest record's place (rule R121). -/
theorem State.ringUnit_overwrites {s : State} {i : Nat} (u : RingUnit) (hi : i < 52) (hclean : s.dramBad = []) :
    let g := ringGroup i
    let t := ((s.ringGiveUp i).ringWrite i u).ringUnbusy i
    t.reg (g + 0x18) = s.reg (g + 0x18) + 1 ∧ t.reg (g + 0x1C) = s.reg (g + 0x1C) + 1 ∧ t.reg (g + 0x28) = satInc (s.reg (g + 0x28)) 1 ∧
      bit (t.reg 0x5B014) 1 = true := by
  intro g t
  have hg := ringGroup_bounds hi
  have hup : ∀ x, x ≠ 0x5B014 → (s.ringGiveUp i).reg x = ((s.bumpWrap (g + 0x1C) 1).bump (g + 0x28) 1).reg x := fun x hx =>
    State.reg_setReg_ne _ _ hx
  have hclean' : (s.ringGiveUp i).dramBad = [] := hclean
  refine ⟨?_, ?_, ?_, ?_⟩
  · rw [State.ringUnbusy_reg _ _ (by omega), State.ringWrite_wcount u hclean' hi, hup _ (by omega)]
    exact congrArg (· + 1) ((State.reg_setReg_ne _ _ (by omega)).trans (State.reg_setReg_ne _ _ (by omega)))
  · rw [State.ringUnbusy_reg _ _ (by omega), State.ringWrite_reg u hclean' (by omega) (by omega) (by omega) (by omega) (by omega), hup _ (by omega)]
    exact (State.reg_setReg_ne _ _ (by omega)).trans (State.reg_setReg_self ..)
  · rw [State.ringUnbusy_reg _ _ (by omega), State.ringWrite_reg u hclean' (by omega) (by omega) (by omega) (by omega) (by omega), hup _ (by omega)]
    refine (State.reg_setReg_self ..).trans ?_
    rw [State.reg_bumpWrap_ne _ (by omega)]
  · rw [State.ringUnbusy_reg _ _ (by omega)]
    exact State.ringWrite_raised u hclean' (State.intRaise_self _ .ingest 1 (by decide)) hi

/-! Ring control (rules R120, R123, R147). -/

theorem ringGroup_page (i : Nat) (ofs : Nat) : ringGroup i + ofs = Page.base .ingest + (0x100 + 0x40 * i + ofs) := by
  show 0x5B100 + 0x40 * i + ofs = 0x5B000 + _
  omega

theorem act_ringWrite {s : State} {r : Requester} {i : Fin 52} {ofs : Nat} (v : Word) (hofs : ofs < 0x40)
    (h : Reaches s r (ringGroup i.val + ofs) true) : (s.act fun s => s.regWrite r (wordAccess (ringGroup i.val + ofs)) v) =
      .next ((s.writeIngest (0x100 + 0x40 * i.val + ofs) v).2.respond r (s.writeIngest (0x100 + 0x40 * i.val + ofs) v).1 0).done := by
  have hserve : s.serveWrite r .ingest (0x100 + 0x40 * i.val + ofs) v = s.writeIngest (0x100 + 0x40 * i.val + ofs) v := by
    show (if 0x100 + 0x40 * i.val + ofs < 0x100 then _ else _) = _
    rw [if_neg (by omega)]
    rfl
  rw [ringGroup_page, act_pageWrite v (by omega) (by decide) (ringGroup_page i.val ofs ▸ h), hserve]

theorem State.writeIngest_ctrl (s : State) (i : Fin 52) (v : Word) : s.writeIngest (0x100 + 0x40 * i.val + 0x10) v = s.writeRingCtrl i.val v := by
  have hidx : (0x100 + 0x40 * i.val + 0x10 - 0x100) / 0x40 = i.val := by omega
  have hmod : (0x100 + 0x40 * i.val + 0x10) % 0x40 = 0x10 := by omega
  rw [State.writeIngest, if_neg (by omega), hidx]
  simp only [hmod]

theorem State.writeIngest_rcount (s : State) (i : Fin 52) (v : Word) : s.writeIngest (0x100 + 0x40 * i.val + 0x1C) v = s.writeRcount i.val v := by
  have hidx : (0x100 + 0x40 * i.val + 0x1C - 0x100) / 0x40 = i.val := by omega
  have hmod : (0x100 + 0x40 * i.val + 0x1C) % 0x40 = 0x1C := by omega
  rw [State.writeIngest, if_neg (by omega), hidx]
  simp only [hmod]

theorem ringCtrl_enable (en : Bool) (c : BitVec 3) : bit (ringCtrl en c) 0 = en := bit_setBit_self _ _ (by decide)

theorem exec_ringEnable {s : State} {r : Requester} {i : Fin 52} (c : BitVec 3) (h : Reaches s r (ringGroup i.val + 0x10) true) :
    exec (.ringEnable r i c) s = .next ((s.writeRingCtrl i.val (ringCtrl true c)).2.respond r (s.writeRingCtrl i.val (ringCtrl true c)).1 0).done := by
  rw [← State.writeIngest_ctrl]
  exact act_ringWrite _ (by decide) h

theorem exec_ringDisable {s : State} {r : Requester} {i : Fin 52} (c : BitVec 3) (h : Reaches s r (ringGroup i.val + 0x10) true) :
    exec (.ringDisable r i c) s =
      .next ((s.writeRingCtrl i.val (ringCtrl false c)).2.respond r (s.writeRingCtrl i.val (ringCtrl false c)).1 0).done := by
  rw [← State.writeIngest_ctrl]
  exact act_ringWrite _ (by decide) h

theorem exec_rcountWrite {s : State} {r : Requester} {i : Fin 52} (v : Word) (h : Reaches s r (ringGroup i.val + 0x1C) true) :
    exec (.rcountWrite r i v) s = .next ((s.writeRcount i.val v).2.respond r (s.writeRcount i.val v).1 0).done := by
  rw [← State.writeIngest_rcount]
  exact act_ringWrite _ (by decide) h

/-- A write that starts nothing keeps or sets BUSY. -/
theorem State.writeRingCtrl_plain {s : State} {i : Nat} {v : Word} (h : (bit v 0 && !bit (s.reg (ringGroup i + 0x10)) 0) = false) :
    s.writeRingCtrl i v = (cOK, s.setReg (ringGroup i + 0x10) ((v &&& 7) |||
      (if (bit (s.reg (ringGroup i + 0x10)) 0 && !bit v 0 && s.unitOpen i) || bit (s.reg (ringGroup i + 0x10)) 3 then 8 else 0))) := by
  rw [State.writeRingCtrl]
  dsimp only
  rw [if_neg (by rw [h]; decide)]

/-- Settles O20: a unit by what its ring does with it, a control write by the state of EN. -/
theorem rings : Obligations.Rings := by
  refine ⟨fun s i u hi => ?_, fun s r i c v => ?_⟩
  · intro g full
    refine ⟨State.ringUnit_none u, fun htakes hlost => ?_, fun htakes hbar hroom hclean hquiet _ => ?_, fun htakes hbar hfull hclean hover => ?_⟩
    · rw [State.ringUnit_drop u htakes hlost]
      exact State.ringUnit_drops s hi
    · rw [State.ringUnit_write u htakes hbar hroom]
      exact State.ringUnit_writes u hi hclean hquiet
    · rw [State.ringUnit_overwrite u htakes hbar hfull hover]
      exact State.ringUnit_overwrites u hi hclean
  · intro g old
    refine ⟨fun hreach hoff => ⟨fun hno => ?_, fun hdis hspan => ?_⟩, fun hreach hon => ?_, fun hreach => ?_, fun hreach => ?_⟩
    · have hstart : (bit (ringCtrl true c) 0 && !bit old 0) = true := by rw [ringCtrl_enable, hoff]; rfl
      rw [exec_ringEnable c hreach, State.writeRingCtrl, if_pos hstart, if_pos hno]
    · have hstart : (bit (ringCtrl true c) 0 && !bit old 0) = true := by rw [ringCtrl_enable, hoff]; rfl
      rw [exec_ringEnable c hreach, State.writeRingCtrl, if_pos hstart, if_neg (by rw [hdis]; exact not_or.mpr ⟨by decide, Nat.not_lt.mpr hspan⟩)]
      rfl
    · rw [exec_ringEnable c hreach, State.writeRingCtrl_plain (by rw [hon]; exact Bool.and_false _), ringCtrl_enable]
      simp only [Bool.not_true, Bool.and_false, Bool.false_and, Bool.false_or]
      rfl
    · rw [exec_ringDisable c hreach, State.writeRingCtrl_plain (by rw [ringCtrl_enable]; rfl), ringCtrl_enable]
      simp only [Bool.not_false, Bool.and_true, Bool.or_eq_true, Bool.and_eq_true]
      rfl
    · intro rc
      refine ⟨fun hno => ?_, fun hok => ?_⟩
      · rw [exec_rcountWrite v hreach, State.writeRcount, if_pos hno]
      · rw [exec_rcountWrite v hreach, State.writeRcount, if_neg (Nat.not_lt.mpr hok)]

end Sys2Proof.Machine
end

section
/-! The rounding modes on a coarser grid (rules R76, R77). -/

namespace Sys2Proof.Machine

section
variable (s : Bool) (m : Nat) (e : Int) {d : Nat} (hd : 0 < d)
include hd

theorem roundMag_rne : roundMag .rne s m e false (e + d) =
    if 2 ^ (d - 1) < m % 2 ^ d ∨ (m % 2 ^ d = 2 ^ (d - 1) ∧ m / 2 ^ d % 2 = 1) then m / 2 ^ d + 1 else m / 2 ^ d := by
  rw [roundMag, if_neg (by omega), show (e + d - e).toNat = d by omega]
  simp

theorem roundMag_rtz : roundMag .rtz s m e false (e + d) = m / 2 ^ d := by
  rw [roundMag, if_neg (by omega), show (e + d - e).toNat = d by omega]
  simp

theorem roundMag_rdn : roundMag .rdn s m e false (e + d) = if s = true ∧ m % 2 ^ d ≠ 0 then m / 2 ^ d + 1 else m / 2 ^ d := by
  rw [roundMag, if_neg (by omega), show (e + d - e).toNat = d by omega]
  simp

theorem roundMag_rup : roundMag .rup s m e false (e + d) = if s = false ∧ m % 2 ^ d ≠ 0 then m / 2 ^ d + 1 else m / 2 ^ d := by
  rw [roundMag, if_neg (by omega), show (e + d - e).toNat = d by omega]
  simp

theorem roundMag_sr16 (r : Nat) : roundMag (.sr16 r) s m e false (e + d) =
    if 65536 ≤ m % 2 ^ d * 65536 / 2 ^ d + r then m / 2 ^ d + 1 else m / 2 ^ d := by
  rw [roundMag, if_neg (by omega), show (e + d - e).toNat = d by omega]
  simp

end

/-- Rounding away from zero gives the least multiple that is not below. -/
theorem ceil_bounds (m : Nat) {u : Nat} (hu : 0 < u) :
    m ≤ (if m % u ≠ 0 then m / u + 1 else m / u) * u ∧ (if m % u ≠ 0 then m / u + 1 else m / u) * u < m + u := by
  have hdiv := Nat.div_add_mod' m u
  have hrem := Nat.mod_lt m hu
  split
  · rw [Nat.add_one_mul]
    omega
  · omega

/-- Rounding to nearest is off by half a unit at most, and a tie goes to the even multiple. -/
theorem nearest_bounds (m : Nat) {u h : Nat} (hu : u = 2 * h) (hh : 0 < h) :
    let n := if h < m % u ∨ (m % u = h ∧ m / u % 2 = 1) then m / u + 1 else m / u
    2 * (n * u) ≤ 2 * m + u ∧ 2 * m ≤ 2 * (n * u) + u ∧ (2 * (n * u) = 2 * m + u ∨ 2 * m = 2 * (n * u) + u → n % 2 = 0) := by
  intro n
  have hdiv := Nat.div_add_mod' m u
  have hrem := Nat.mod_lt m (show 0 < u by omega)
  by_cases hup : h < m % u ∨ (m % u = h ∧ m / u % 2 = 1)
  · have hmul := Nat.add_one_mul (m / u) u
    rw [show n = m / u + 1 from if_pos hup]
    omega
  · rw [show n = m / u from if_neg hup]
    omega

/-- Settles O28: each mode's increment decides against the remainder below the grid. -/
theorem roundingOfMagnitudes : Obligations.RoundingOfMagnitudes := by
  intro s m d r e hd q u n
  have hu : 0 < u := Nat.two_pow_pos d
  have hhalf : u = 2 * 2 ^ (d - 1) := by rw [← Nat.pow_succ', Nat.succ_eq_add_one, Nat.sub_add_cancel hd]
  have hrne : n .rne = _ := roundMag_rne s m e hd
  have hrtz : n .rtz = m / u := roundMag_rtz s m e hd
  have hrdn : n .rdn = _ := roundMag_rdn s m e hd
  have hrup : n .rup = _ := roundMag_rup s m e hd
  have hsr : n (.sr16 r) = _ := roundMag_sr16 s m e hd r
  refine ⟨?_, ?_, fun hs => ?_, fun hs => ?_, ?_, fun hexact hr => ⟨?_, hrtz, ?_, ?_, ?_⟩⟩
  · rw [hrne]
    exact nearest_bounds m hhalf (Nat.two_pow_pos _)
  · have hdiv := Nat.div_add_mod' m u
    have hrem := Nat.mod_lt m hu
    rw [hrtz]
    omega
  · have hceil := ceil_bounds m hu
    simp only [hrdn, hrup, hrtz, hs, Bool.false_eq_true, false_and, if_false, true_and]
    exact ⟨rfl, hceil⟩
  · have hceil := ceil_bounds m hu
    simp only [hrdn, hrup, hrtz, hs, Bool.true_eq_false, false_and, if_false, true_and]
    exact ⟨rfl, hceil⟩
  · rw [hsr, hrtz]
  · rw [hrne, if_neg]
    have := Nat.two_pow_pos (d - 1)
    have hexact' : m % 2 ^ d = 0 := hexact
    omega
  · rw [hrdn, if_neg fun h => h.2 hexact]
  · rw [hrup, if_neg fun h => h.2 hexact]
  · rw [hsr, if_neg]
    have hexact' : m % 2 ^ d = 0 := hexact
    rw [hexact', Nat.zero_mul, Nat.zero_div]
    omega

end Sys2Proof.Machine
end

section
/-! The bounds of the control law (rule R294). -/

namespace Sys2Proof.Machine

/-- What learning, the detector and a trip make of a channel's state, at the end of a sample (rules R298, R310). -/
def State.lawAfter (s : State) (c k : Nat) (ramp track learn : Bool) (e : Int) (x : LoopSt) : LoopSt :=
  let x2 := if learn then s.repUpdate c x e else x
  let q := if k = 2 ∨ ramp then s.detect c x2 e else (if track then { x2 with cross := 0 } else x2, false)
  if q.2 then s.trip c q.1 else q.1

theorem State.detect_i (s : State) (c : Nat) (x : LoopSt) (e : Int) : (s.detect c x e).1.i = x.i := by
  unfold State.detect
  dsimp only
  split
  · rfl
  · split <;> split <;> rfl

theorem State.trip_i (s : State) (c : Nat) (x : LoopSt) : (s.trip c x).i = x.i := by
  unfold State.trip
  dsimp only
  split <;> rfl

/-- None of it touches the integrator. -/
theorem State.lawAfter_i (s : State) (c k : Nat) (ramp track learn : Bool) (e : Int) (x : LoopSt) :
    (s.lawAfter c k ramp track learn e x).i = x.i := by
  have hlearn : (if learn then s.repUpdate c x e else x).i = x.i := by split <;> rfl
  have htrack : ∀ y : LoopSt, (if track then { y with cross := 0 } else y).i = y.i := fun y => by split <;> rfl
  have hdetect : ∀ y : LoopSt, (if k = 2 ∨ ramp then s.detect c y e else (if track then { y with cross := 0 } else y, false)).1.i = y.i := by
    intro y
    split
    · exact State.detect_i ..
    · exact htrack y
  have htrip : ∀ q : LoopSt × Bool, (if q.2 then s.trip c q.1 else q.1).i = q.1.i := by
    intro q
    split
    · exact State.trip_i ..
    · rfl
  exact (htrip _).trans ((hdetect _).trans hlearn)

theorem State.lawRun_u (s : State) (c k : Nat) (x : LoopSt) (y : Int) (t6 : Word) :
    ∃ v, (s.lawRun c k x y t6).u = clampq v (s.lint c 0x124) (s.lint c 0x128) := ⟨_, rfl⟩

/-- The integrator's next value: clamped, or left where the output saturates in its direction or the channel is GATED. -/
theorem State.lawRun_i (s : State) (c k : Nat) (x : LoopSt) (y : Int) (t6 : Word) :
    ∃ (track : Bool) (a b di v : Int), (s.lawRun c k x y t6).x.i =
      if track then clampq a (s.lint c 0x124 * 65536) (s.lint c 0x128 * 65536)
      else if k = 4 ∨ (s.lint c 0x128 < v ∧ 0 < di) ∨ (v < s.lint c 0x124 ∧ di < 0) then (x.fresh y).i
      else clampq b (s.lint c 0x124 * 65536) (s.lint c 0x128 * 65536) := by
  have hafter : ∃ (ramp track learn : Bool) (e r v : Int) (i : Int), (s.lawRun c k x y t6).x.i =
      (s.lawAfter c k ramp track learn e { x.fresh y with r := r, v := v, i := i }).i ∧ ∃ (a b di v : Int), i =
      if track then clampq a (s.lint c 0x124 * 65536) (s.lint c 0x128 * 65536)
      else if k = 4 ∨ (s.lint c 0x128 < v ∧ 0 < di) ∨ (v < s.lint c 0x124 ∧ di < 0) then (x.fresh y).i
      else clampq b (s.lint c 0x124 * 65536) (s.lint c 0x128 * 65536) :=
    ⟨_, _, _, _, _, _, _, rfl, _, _, _, _, rfl⟩
  obtain ⟨ramp, track, learn, e, r, v, i, heq, a, b, di, w, hi⟩ := hafter
  exact ⟨track, a, b, di, w, by rw [heq, State.lawAfter_i]; exact hi⟩

theorem clampq_bounds {lo hi : Int} (h : lo ≤ hi) (v : Int) : lo ≤ clampq v lo hi ∧ clampq v lo hi ≤ hi := by
  unfold clampq
  omega

/-- Settles O38: output and integrator are clamped where they move. -/
theorem loopOutputBounds : Obligations.LoopOutputBounds := by
  intro s c k x y t6 l lo hi hle
  obtain ⟨v, hu⟩ := s.lawRun_u c k x y t6
  obtain ⟨track, a, b, di, w, hi'⟩ := s.lawRun_i c k x y t6
  have hout := clampq_bounds hle v
  have hint := clampq_bounds (lo := lo * 65536) (hi := hi * 65536) (by omega)
  refine ⟨by rw [hu]; exact hout.1, by rw [hu]; exact hout.2, ?_⟩
  rw [hi']
  split
  · exact .inl (hint a)
  · split
    · exact .inr rfl
    · exact .inl (hint b)

end Sys2Proof.Machine
end

section
/-! Sluice gates (rules R342, R346, R355). -/

namespace Sys2Proof.Machine

theorem sgwBase (w ofs : Nat) : 0x12000 + 0x1000 * w + ofs = Page.base (.sgw w) + ofs := rfl

theorem pageAt_sgw (w : Fin 2) : pageAt (Page.base (.sgw w.val)) = some (.sgw w.val) := by
  revert w; decide

/-- A command that writes a register of the gates' window `w`. -/
theorem act_gateWrite {s : State} {r : Requester} {w : Fin 2} {ofs : Nat} (v : Word) (hlo : 0x100 ≤ ofs) (hhi : ofs < 4096)
    (h : Reaches s r (0x12000 + 0x1000 * w.val + ofs) true) : (s.act fun s => s.regWrite r (wordAccess (0x12000 + 0x1000 * w.val + ofs)) v) =
      .next ((s.writeGates r w.val ofs v).2.respond r (s.writeGates r w.val ofs v).1 0).done := by
  have hserve : s.serveWrite r (.sgw w.val) ofs v = s.writeGates r w.val ofs v := by
    show (if ofs < 0x100 then _ else _) = _
    rw [if_neg (by omega)]
    rfl
  rw [sgwBase, act_pageWrite v hhi (pageAt_sgw w) h, hserve]

section
variable {s : State} {g : Nat} (n : Word)

theorem State.signal_free (h : s.gateOwner g = 0x7E) (n : Nat) : s.signal g n = s := by
  rw [State.signal, if_pos h]

theorem State.signal_count (h : s.gateOwner g ≠ 0x7E) (hle : (s.gate g).count.toNat + n.toNat ≤ 0xFFFFFFFF) :
    s.signal g n.toNat = s.setGate g { s.gate g with count := (s.gate g).count + n } := by
  have hsum : w32 ((s.gate g).count.toNat + n.toNat) = (s.gate g).count + n := BitVec.eq_of_toNat_eq (by
    rw [w32, BitVec.toNat_ofNat, BitVec.toNat_add])
  rw [State.signal, if_neg h, ← hsum]
  exact if_neg (by omega)

theorem State.signal_saturates (h : s.gateOwner g ≠ 0x7E) (hlt : 0xFFFFFFFF < (s.gate g).count.toNat + n.toNat) :
    s.signal g n.toNat = (s.setGate g { s.gate g with count := 0xFFFFFFFF, sat := true }).intRaise .headgate 9 := by
  rw [State.signal, if_neg h]
  exact if_pos hlt

theorem State.gateSignal_ok {r : Requester} (h : ¬ (n = 0 ∨ ((r = .host ∨ r = .debug) ∧ s.gateOwner g ≠ 0x7F))) :
    s.gateSignal r g n = (cOK, s.signal g n.toNat) := by
  rw [State.gateSignal, if_neg (not_or.mp h).1, if_neg (not_or.mp h).2]

end

theorem exec_gSignal {s : State} {r : Requester} {w : Fin 2} (n : Word) (h : Reaches s r (0x12000 + 0x1000 * w.val + 0x114) true) :
    exec (.gSignal r w n) s = .next ((s.gateSignal r (s.gateSel r w.val) n).2.respond r (s.gateSignal r (s.gateSel r w.val) n).1 0).done := by
  show (s.act fun s => s.regWrite r (wordAccess (0x12114 + 0x1000 * w.val)) n) = _
  rw [show 0x12114 + 0x1000 * w.val = 0x12000 + 0x1000 * w.val + 0x114 by omega]
  exact act_gateWrite n (by decide) (by decide) h

theorem exec_alloc {s : State} {r : Requester} {w : Fin 2} (h : Reaches s r (0x12000 + 0x1000 * w.val + 0x11C) true) :
    let q := if r ≠ .mgmt then (cARG, s) else s.gateAlloc (s.gateSel r w.val)
    exec (.alloc r w) s = .next (q.2.respond r q.1 0).done := by
  intro q
  have hwrite : s.writeGates r w.val 0x11C 1 = q := by
    have hbit : bit (1 : Word) 0 = true := rfl
    have hbit1 : bit (1 : Word) 1 = false := rfl
    simp only [State.writeGates, hbit, hbit1, if_true, Bool.false_eq_true, and_false, if_false]
    rfl
  show (s.act fun s => s.regWrite r (wordAccess (0x1211C + 0x1000 * w.val)) 1) = _
  rw [show 0x1211C + 0x1000 * w.val = 0x12000 + 0x1000 * w.val + 0x11C by omega, act_gateWrite 1 (by decide) (by decide) h, hwrite]

theorem exec_free {s : State} {r : Requester} {w : Fin 2} (h : Reaches s r (0x12000 + 0x1000 * w.val + 0x11C) true) :
    let q := if r ≠ .mgmt then (cARG, s) else s.gateFree (s.gateSel r w.val)
    exec (.free r w) s = .next (q.2.respond r q.1 0).done := by
  intro q
  have hwrite : s.writeGates r w.val 0x11C 2 = q := by
    have hbit : bit (2 : Word) 0 = false := rfl
    have hbit1 : bit (2 : Word) 1 = true := rfl
    simp only [State.writeGates, hbit, hbit1, Bool.false_eq_true, if_false, and_self, if_true]
    rfl
  show (s.act fun s => s.regWrite r (wordAccess (0x1211C + 0x1000 * w.val)) 2) = _
  rw [show 0x1211C + 0x1000 * w.val = 0x12000 + 0x1000 * w.val + 0x11C by omega, act_gateWrite 2 (by decide) (by decide) h, hwrite]

/-- Settles O44: a signal by its requester, the gate's owner and its count, ALLOC and FREE by the gate's number and kind. -/
theorem sluiceGates : Obligations.SluiceGates := by
  intro s r w n g x base
  refine ⟨fun hreach => ?_, fun hreach => ⟨fun hno => ⟨?_, ?_⟩, fun hm hg => ⟨fun hsys => ⟨?_, ?_⟩, fun hsys => ⟨?_, ?_⟩⟩⟩⟩
  · intro refused
    refine ⟨fun hr => ?_, fun hok howner => ?_, fun hok howner => ⟨fun hle => ?_, fun hlt => ?_⟩⟩
    · rw [exec_gSignal n hreach]
      rcases hr with hzero | howner
      · rw [State.gateSignal, if_pos hzero]
      · by_cases hzero : n = 0
        · rw [State.gateSignal, if_pos hzero]
        · rw [State.gateSignal, if_neg hzero, if_pos howner]
    · rw [exec_gSignal n hreach, State.gateSignal_ok n hok, State.signal_free howner]
    · rw [exec_gSignal n hreach, State.gateSignal_ok n hok, State.signal_count n howner hle]
    · rw [exec_gSignal n hreach, State.gateSignal_ok n hok, State.signal_saturates n howner hlt]
  · rw [exec_alloc hreach]
    by_cases hm : r ≠ .mgmt
    · rw [if_pos hm]
    · rw [if_neg hm, State.gateAlloc, if_pos (.inl (hno.resolve_left hm))]
  · rw [exec_free hreach]
    by_cases hm : r ≠ .mgmt
    · rw [if_pos hm]
    · rw [if_neg hm, State.gateFree, if_pos (.inl (hno.resolve_left hm))]
  · rw [exec_alloc hreach, if_neg (Classical.not_not.mpr hm), State.gateAlloc, if_pos (.inr hsys)]
  · rw [exec_free hreach, if_neg (Classical.not_not.mpr hm), State.gateFree, if_neg]
    exact not_or.mpr ⟨Nat.not_lt.mpr hg, by rw [show (s.gate (s.gateSel r w.val)).sys = true from hsys]; decide⟩
  · rw [exec_free hreach, if_neg (Classical.not_not.mpr hm), State.gateFree, if_pos (.inr (by rw [show (s.gate (s.gateSel r w.val)).sys = false from hsys]; rfl))]
  · rw [exec_alloc hreach, if_neg (Classical.not_not.mpr hm), State.gateAlloc, if_neg]
    exact not_or.mpr ⟨Nat.not_lt.mpr hg, by rw [show (s.gate (s.gateSel r w.val)).sys = false from hsys]; decide⟩

end Sys2Proof.Machine
end

section
/-! Accounting snapshots (rules R351, R353). -/

namespace Sys2Proof.Machine

theorem State.hg_setHg_self (s : State) (c off : Nat) (v : Word) : (s.setHg c off v).hg c off = v := Cells.get_put_self ..

theorem State.hg_setHg_ne (s : State) {c off off' : Nat} (v : Word) (h : off' ≠ off) : (s.setHg c off v).hg c off' = s.hg c off' :=
  Cells.get_put_ne _ _ _ _ (by omega)

/-- Several of a context's words set to one value. -/
def State.setHgs (s : State) (c : Nat) (offs : List Nat) (v : Word) : State := offs.foldl (fun s off => s.setHg c off v) s

theorem State.setHgs_hg (c : Nat) (offs : List Nat) (v : Word) (off : Nat) (s : State) :
    (s.setHgs c offs v).hg c off = if off ∈ offs then v else s.hg c off := by
  induction offs generalizing s with
  | nil => rfl
  | cons o offs ih =>
    rw [State.setHgs, List.foldl_cons, ← State.setHgs, ih]
    by_cases hin : off ∈ offs
    · rw [if_pos hin, if_pos (List.mem_cons_of_mem _ hin)]
    · by_cases heq : off = o
      · rw [if_neg hin, heq, if_pos List.mem_cons_self, State.hg_setHg_self]
      · rw [if_neg hin, State.hg_setHg_ne _ _ heq, if_neg (by simp [heq, hin])]

theorem State.setHgs_frame (c : Nat) (offs : List Nat) (v : Word) (s : State) :
    ∃ l, s.setHgs c offs v = { s with head := { s.head with hg := l } } := by
  induction offs generalizing s with
  | nil => exact ⟨s.head.hg, rfl⟩
  | cons o offs ih =>
    obtain ⟨l, hl⟩ := ih (s.setHg c o v)
    exact ⟨l, hl⟩

theorem State.clearSums_eq (s : State) (c n : Nat) : s.clearSums c n =
    (s.setHgs c ((List.range n).map fun w => acctOff (20 + w)) 0).setHgs c ((List.range 5).map fun w => 0x200 + 4 * w) 0xFFFFFFFF := by
  simp only [State.clearSums, State.setHgs, List.foldl_map]

/-- Registers that take a context's words one by one take those of the state before. -/
theorem State.setRow_hg (base n : Nat) (off : Nat → Nat) (c : Nat) (s : State) :
    (List.range n).foldl (fun s w => s.setReg (base + 4 * w) (s.hg c (off w))) s = s.setRow base n fun w => s.hg c (off w) := by
  have hfold : ∀ (l : List Nat) (t : State), t.head = s.head → l.foldl (fun s w => s.setReg (base + 4 * w) (s.hg c (off w))) t =
      l.foldl (fun t w => t.setReg (base + 4 * w) (s.hg c (off w))) t := by
    intro l
    induction l with
    | nil => exact fun _ _ => rfl
    | cons w l ih =>
      intro t ht
      have hword : t.hg c (off w) = s.hg c (off w) := by rw [State.hg, ht, ← State.hg]
      rw [List.foldl_cons, List.foldl_cons, hword]
      exact ih _ ht
  exact hfold _ s rfl

/-- The context's words in the snapshot's registers. -/
@[irreducible] def State.acctRows (s : State) (c : Nat) : State :=
  (s.setRow 0x10180 32 fun w => s.hg c (acctOff w)).setRow 0x10200 5 fun w => s.hg c (0x200 + 4 * w)

theorem RegsBut.head {rs : Nat → Prop} {s t : State} (h : RegsBut rs s t) : t.head = s.head := by rw [h.1]

theorem State.acctRows_regsBut (s : State) (c : Nat) : RegsBut (fun _ => True) s (s.acctRows c) := by
  unfold State.acctRows
  exact (RegsBut.refl.setRow _ fun _ _ => trivial).setRow _ fun _ _ => trivial

/-- The snapshot, before a CLEAR. -/
def State.acctShown (s : State) (c : Nat) : State := ((s.setHg c (acctOff 31) s.stamp).acctRows c).bumpWrap 0x10164 1

theorem State.acctSnap_eq (s : State) (c : Nat) (clear : Bool) :
    s.acctSnap c clear = if clear then (s.acctShown c).clearSums c 11 else s.acctShown c := by
  have hrow : ∀ w, ((s.setHg c (acctOff 31) s.stamp).setRow 0x10180 32 fun w => (s.setHg c (acctOff 31) s.stamp).hg c (acctOff w)).hg c
      (0x200 + 4 * w) = (s.setHg c (acctOff 31) s.stamp).hg c (0x200 + 4 * w) := fun w => by
    rw [State.hg, RegsBut.head (RegsBut.refl.setRow (rs := fun _ => True) _ fun _ _ => trivial), ← State.hg]
  unfold State.acctSnap State.acctShown State.acctRows
  dsimp only
  rw [State.setRow_hg 0x10180 32 acctOff c, State.setRow_hg 0x10200 5 (fun w => 0x200 + 4 * w) c]
  simp only [hrow]

section
variable (s : State) (c : Nat)

theorem State.acctShown_regsBut : RegsBut (fun _ => True) (s.setHg c (acctOff 31) s.stamp) (s.acctShown c) :=
  (State.acctRows_regsBut _ c).bumpWrap trivial 1

theorem State.acctShown_frame :
    ∃ l, s.acctShown c = { s with regs := (s.acctShown c).regs, head := { s.head with hg := l } } :=
  ⟨_, (s.acctShown_regsBut c).1⟩

theorem State.acctShown_seq : (s.acctShown c).reg 0x10164 = s.reg 0x10164 + 1 := by
  rw [State.acctShown, State.bumpWrap, State.reg_setReg_self, State.acctRows, State.reg_setRow_out _ _ (by omega),
    State.reg_setRow_out _ _ (by omega)]
  rfl

theorem State.acctShown_word {w : Nat} (hw : w < 32) :
    (s.acctShown c).reg (0x10180 + 4 * w) = (s.setHg c (acctOff 31) s.stamp).hg c (acctOff w) := by
  rw [State.acctShown, State.bumpWrap, State.reg_setReg_ne _ _ (by omega), State.acctRows, State.reg_setRow_out _ _ (by omega),
    State.reg_setRow_in _ _ _ hw]

theorem State.acctShown_capture {w : Nat} (hw : w < 5) :
    (s.acctShown c).reg (0x10200 + 4 * w) = (s.setHg c (acctOff 31) s.stamp).hg c (0x200 + 4 * w) := by
  rw [State.acctShown, State.bumpWrap, State.reg_setReg_ne _ _ (by omega), State.acctRows, State.reg_setRow_in _ _ _ hw]

theorem State.acctShown_hg (off : Nat) : (s.acctShown c).hg c off = (s.setHg c (acctOff 31) s.stamp).hg c off := by
  rw [State.hg, (s.acctShown_regsBut c).head, ← State.hg]

variable (clear : Bool)

/-- A snapshot changes registers and the context's words. -/
theorem State.acctSnap_frame :
    ∃ l, s.acctSnap c clear = { s with regs := (s.acctShown c).regs, head := { s.head with hg := l } } := by
  obtain ⟨l, hl⟩ := s.acctShown_frame c
  rw [State.acctSnap_eq, State.clearSums_eq]
  split
  · obtain ⟨l1, h1⟩ := State.setHgs_frame c ((List.range 11).map fun w => acctOff (20 + w)) 0 (s.acctShown c)
    obtain ⟨l2, h2⟩ := State.setHgs_frame c ((List.range 5).map fun w => 0x200 + 4 * w) 0xFFFFFFFF
      ((s.acctShown c).setHgs c ((List.range 11).map fun w => acctOff (20 + w)) 0)
    refine ⟨l2, ?_⟩
    rw [h2, h1, hl]
  · exact ⟨l, hl⟩

theorem State.acctSnap_reg (a : Nat) : (s.acctSnap c clear).reg a = (s.acctShown c).reg a := by
  obtain ⟨l, hl⟩ := s.acctSnap_frame c clear
  rw [hl]
  rfl

/-- CLEAR zeroes words 20 to 30. -/
theorem State.acctSnap_hg {w : Nat} (hw : w < 31) :
    (s.acctSnap c clear).hg c (acctOff w) = if clear = true ∧ 20 ≤ w then 0 else s.hg c (acctOff w) := by
  have hshown : (s.acctShown c).hg c (acctOff w) = s.hg c (acctOff w) := by
    rw [State.acctShown_hg, State.hg_setHg_ne _ _ (by unfold acctOff; omega)]
  have hcapture : acctOff w ∉ (List.range 5).map fun w => 0x200 + 4 * w := by
    simp only [List.mem_map, List.mem_range, not_exists, not_and]
    unfold acctOff
    omega
  have hsums : acctOff w ∈ (List.range 11).map (fun w => acctOff (20 + w)) ↔ 20 ≤ w := by
    simp only [List.mem_map, List.mem_range]
    refine ⟨fun ⟨k, _, hk⟩ => by unfold acctOff at hk; omega, fun h => ⟨w - 20, by omega, by rw [Nat.add_sub_cancel' h]⟩⟩
  rw [State.acctSnap_eq]
  by_cases hclear : clear = true
  · rw [if_pos hclear, State.clearSums_eq, State.setHgs_hg, if_neg hcapture, State.setHgs_hg, hshown]
    by_cases h20 : 20 ≤ w
    · rw [if_pos (hsums.mpr h20), if_pos ⟨hclear, h20⟩]
    · rw [if_neg (mt hsums.mp h20), if_neg fun h => h20 h.2]
  · rw [if_neg hclear, hshown, if_neg fun h => hclear h.1]

end

theorem exec_acctSnap {s : State} {r : Requester} (clear : Bool) (h : Reaches s r 0x10160 true) :
    exec (.acctSnap r clear) s = .next ((s.acctSnap (s.ctxSel r) clear).respond r cOK 0).done := by
  have hserve : s.serveWrite r .headgate 0x160 (w32 (1 + 2 * clear.toNat)) = (cOK, s.acctSnap (s.ctxSel r) clear) := by
    have hsnap : bit (w32 (1 + 2 * clear.toNat)) 0 = true := by cases clear <;> rfl
    have hclear : bit (w32 (1 + 2 * clear.toNat)) 1 = clear := by cases clear <;> rfl
    show s.writeHeadgate r 0x160 (w32 (1 + 2 * clear.toNat)) = _
    rw [State.writeHeadgate, if_neg (by decide), if_neg (by decide), if_pos rfl, hsnap, hclear, if_pos rfl]
  show (s.act fun s => s.regWrite r (wordAccess (Page.base .headgate + 0x160)) (w32 (1 + 2 * clear.toNat))) = _
  rw [act_pageWrite _ (by decide) (by decide) h, hserve]

theorem exec_acctSnap_shows {s : State} {r : Requester} (clear : Bool) (h : Reaches s r 0x10160 true) (hcalm : Calm s) :
    let c := s.ctxSel r
    ∃ t, exec (.acctSnap r clear) s = .next t ∧ t.reg 0x10164 = s.reg 0x10164 + 1 ∧
      (∀ w, w < 31 → t.reg (0x10180 + 4 * w) = s.hg c (acctOff w)) ∧ t.reg (0x10180 + 4 * 31) = s.stamp ∧
      (∀ w, w < 5 → t.reg (0x10200 + 4 * w) = s.hg c (0x200 + 4 * w)) ∧
      (∀ w, w < 31 → t.hg c (acctOff w) = if clear = true ∧ 20 ≤ w then 0 else s.hg c (acctOff w)) ∧
      t.head = { s.head with hg := t.head.hg } := by
  intro c
  obtain ⟨l, hframe⟩ := s.acctSnap_frame c clear
  have hcalm' : Calm ((s.acctSnap c clear).respond r cOK 0) := by rw [hframe]; exact hcalm
  have hend : ∀ {a}, a ∉ endRegs → ((s.acctSnap c clear).respond r cOK 0).done.reg a = (s.acctShown c).reg a := fun ha =>
    (State.done_reg hcalm' ha).trans (s.acctSnap_reg c clear _)
  have hhead : ((s.acctSnap c clear).respond r cOK 0).done.head = (s.acctSnap c clear).head := State.done_head hcalm'
  refine ⟨_, exec_acctSnap clear h, ?_, fun w hw => ?_, ?_, fun w hw => ?_, fun w hw => ?_, ?_⟩
  · rw [hend (by decide), State.acctShown_seq]
  · rw [hend (a := 0x10180 + 4 * w) (by simp only [endRegs, List.mem_cons, List.not_mem_nil, or_false]; omega), State.acctShown_word _ _ (by omega),
      State.hg_setHg_ne _ _ (by unfold acctOff; omega)]
  · rw [hend (by decide), State.acctShown_word _ _ (by decide), State.hg_setHg_self]
  · rw [hend (a := 0x10200 + 4 * w) (by simp only [endRegs, List.mem_cons, List.not_mem_nil, or_false]; omega), State.acctShown_capture _ _ hw,
      State.hg_setHg_ne _ _ (by unfold acctOff; omega)]
  · rw [State.hg, hhead, ← State.hg, State.acctSnap_hg _ _ _ hw]
  · rw [hhead, hframe]

end Sys2Proof.Machine
end

section
/-! Checkpoints (rule R368). -/

namespace Sys2Proof.Machine

/-- The cells from `src` on, moved to `dst`. -/
theorem Cells.get_shift {α : Type} (d : α) (src dst a : Nat) (l : Cells α) (h : ∀ p ∈ l, src ≤ p.1) :
    Cells.get d (l.map fun p => (p.1 - src + dst, p.2)) a = if dst ≤ a then Cells.get d l (src + (a - dst)) else d := by
  induction l with
  | nil => simp [Cells.get]
  | cons p l ih =>
    have hp : src ≤ p.1 := h p List.mem_cons_self
    have hrest := ih fun q hq => h q (List.mem_cons_of_mem _ hq)
    simp only [List.map_cons, Cells.get, hrest]
    by_cases hdst : dst ≤ a
    · simp only [if_pos hdst, show (p.1 - src + dst = a) ↔ p.1 = src + (a - dst) by omega]
    · rw [if_neg (by omega), if_neg hdst, if_neg hdst]

/-- A pasted range holds the other map's cells, and the rest stays. -/
theorem Cells.get_paste {α : Type} (d : α) (m w : Cells α) (src dst n a : Nat) :
    Cells.get d (Cells.paste m w src dst n) a = if dst ≤ a ∧ a < dst + n then Cells.get d w (src + (a - dst)) else Cells.get d m a := by
  have hlo := Cells.get_filter d m (fun k => decide (k < dst)) a
  have hhi := Cells.get_filter d m (fun k => decide (dst + n ≤ k)) a
  have hfrom : ∀ p ∈ w.filter fun p => decide (src ≤ p.1) && decide (p.1 < src + n), src ≤ p.1 ∧ p.1 < src + n := fun p hp => by
    simpa using (List.mem_filter.mp hp).2
  have hmid : Cells.get d ((w.filter fun p => decide (src ≤ p.1) && decide (p.1 < src + n)).map fun p => (p.1 - src + dst, p.2)) a =
      if dst ≤ a ∧ a < dst + n then Cells.get d w (src + (a - dst)) else d := by
    rw [Cells.get_shift d src dst a _ fun p hp => (hfrom p hp).1,
      Cells.get_filter d w (fun k => decide (src ≤ k) && decide (k < src + n)) (src + (a - dst))]
    by_cases hin : dst ≤ a ∧ a < dst + n
    · rw [if_pos hin.1, if_pos hin, if_pos (by simp; omega)]
    · rw [if_neg hin]
      split
      · rw [if_neg (by simp; omega)]
      · rfl
  have habsent : ∀ p ∈ m.filter (fun p => decide (p.1 < dst)), dst ≤ a → p.1 ≠ a := fun p hp hle heq => by
    have hlt : p.1 < dst := by simpa using (List.mem_filter.mp hp).2
    omega
  unfold Cells.paste
  by_cases hbelow : a < dst
  · rw [Cells.get_append_left (by rw [hhi, if_neg (by simp; omega)]), Cells.get_append_left (by rw [hmid, if_neg (by omega)]), hlo,
      if_pos (by simp; omega), if_neg (by omega)]
  · by_cases habove : dst + n ≤ a
    · have hnone : ∀ p ∈ m.filter (fun p => decide (p.1 < dst)) ++
          (w.filter fun p => decide (src ≤ p.1) && decide (p.1 < src + n)).map fun p => (p.1 - src + dst, p.2), p.1 ≠ a := by
        intro p hp
        rcases List.mem_append.mp hp with hp | hp
        · exact habsent p hp (by omega)
        · obtain ⟨q, hq, rfl⟩ := List.mem_map.mp hp
          have := hfrom q hq
          dsimp only
          omega
      rw [Cells.get_append_right hnone, hhi, if_pos (by simp; omega), if_neg (by omega)]
    · rw [Cells.get_append_left (by rw [hhi, if_neg (by simp; omega)]), Cells.get_append_right fun p hp => habsent p hp (by omega), hmid,
        if_pos (by omega), if_pos (by omega)]

/-- Where a copy of lane `lane` stands in LPDDR6, and its length. -/
def State.ckAddr (s : State) : Nat := s.rf 0x10350 0 4 * 2 ^ 32 + (s.reg 0x1034C).toNat

section
variable {s : State} (hlane : s.rf 0x10340 0 4 < 8) (hunit : (s.unitOf true (s.rf 0x10340 0 4)).1 = cOK) (hchans : s.chans ≠ [])
  (hmc : s.mcOff = false) (hdom : s.domain 2 = 2)
include hlane hunit hchans hmc hdom

theorem State.ckCopy_save (hsram : s.sramBad = []) :
    s.ckCopy false = (cOK, s.ckToDram s.sram (2 ^ 24 * (s.unitOf true (s.rf 0x10340 0 4)).2 + (s.reg 0x10344).toNat) s.ckAddr
      (s.reg 0x10348).toNat) := by
  have hreach : ¬ (s.chans = [] ∨ s.mcOff = true ∨ s.domain 2 ≠ 2) := by
    rw [hmc, hdom]
    exact not_or.mpr ⟨hchans, by decide⟩
  rw [State.ckCopy, if_neg hreach]
  dsimp only
  simp only [Nat.ne_of_lt hlane, if_false, hunit, ne_eq, not_true_eq_false, Bool.false_eq_true, State.badWords_clean hsram]
  exact Prod.ext (if_pos rfl) rfl

theorem State.ckCopy_restore (hdram : s.dramBad = []) :
    s.ckCopy true = (cOK, s.ckToLane (s.unitOf true (s.rf 0x10340 0 4)).2 (s.reg 0x10344).toNat s.ckAddr (s.reg 0x10348).toNat) := by
  have hreach : ¬ (s.chans = [] ∨ s.mcOff = true ∨ s.domain 2 ≠ 2) := by
    rw [hmc, hdom]
    exact not_or.mpr ⟨hchans, by decide⟩
  have hlines : ∀ a n, s.badLines a n = [] := fun a n => by rw [State.badLines, hdram]; rfl
  rw [State.ckCopy, if_neg hreach]
  dsimp only
  simp only [Nat.ne_of_lt hlane, if_false, hunit, ne_eq, not_true_eq_false, if_true, hlines]
  exact Prod.ext (if_pos rfl) rfl

end

/-- A copy under way: BUSY with the status that it will end with. -/
def State.ckStarted (s : State) (code : Nat) : State := ({ s with head := { s.head with ck := some code } } : State).setRf 0x10358 0 1 1

theorem State.writeCkCmd_refused {s : State} {v : Word} (hv : fld v 0 2 ≠ 0) (h : s.ckRefused = true) : s.writeCkCmd v = (cARG, s) := by
  rw [State.writeCkCmd, if_neg hv, if_pos (.inr h)]

theorem State.writeCkCmd_runs {s : State} {v : Word} (hv : fld v 0 2 = 1 ∨ fld v 0 2 = 2) (h : s.ckRefused = false) :
    s.writeCkCmd v = (cOK, (s.ckCopy (bit v 1)).2.ckStarted (s.ckCopy (bit v 1)).1) := by
  rw [State.writeCkCmd, if_neg (by omega), if_neg (by rw [h]; exact not_or.mpr ⟨by omega, by decide⟩)]
  rfl

theorem act_ckWrite {s : State} {r : Requester} (v : Word) (h : Reaches s r 0x10354 true) :
    (s.act fun s => s.regWrite r (wordAccess 0x10354) v) = .next ((s.writeCkCmd v).2.respond r (s.writeCkCmd v).1 0).done := by
  have hserve : s.serveWrite r .headgate 0x354 v = s.writeCkCmd v := rfl
  show (s.act fun s => s.regWrite r (wordAccess (Page.base .headgate + 0x354)) v) = _
  rw [act_pageWrite _ (by decide) (by decide) h, hserve]

theorem exec_save {s : State} {r : Requester} (h : Reaches s r 0x10354 true) :
    exec (.save r) s = .next ((s.writeCkCmd 1).2.respond r (s.writeCkCmd 1).1 0).done := act_ckWrite 1 h

theorem exec_restore {s : State} {r : Requester} (h : Reaches s r 0x10354 true) :
    exec (.restore r) s = .next ((s.writeCkCmd 2).2.respond r (s.writeCkCmd 2).1 0).done := act_ckWrite 2 h

/-- What the start of a copy shows. -/
theorem State.ckStarted_shows {s : State} (h : Calm s) (r : Requester) (code : Nat) :
    let t := ((s.ckStarted code).respond r cOK 0).done
    t.head.ck = some code ∧ bit (t.reg 0x10358) 0 = true ∧ t.sram = s.sram ∧ t.dram = s.dram := by
  have hcalm : Calm ((s.ckStarted code).respond r cOK 0) := h
  refine ⟨?_, ?_, ?_, ?_⟩
  · rw [State.done_head hcalm]
    rfl
  · refine State.done_mono hcalm (by decide) 0 ?_
    show bit ((s.ckStarted code).reg 0x10358) 0 = true
    rw [State.ckStarted, State.reg_setRf_self]
    exact bit_setBit_self _ true (by decide)
  · rw [State.done_sram hcalm]
    rfl
  · rw [State.done_dram hcalm]
    rfl

/-- Settles O45: a snapshot by its rows of registers, a copy by the range that it pastes. -/
theorem accountsAndCheckpoints : Obligations.AccountsAndCheckpoints := by
  intro s r clear
  refine ⟨fun hreach hcalm => exec_acctSnap_shows clear hreach hcalm, fun hreach => ⟨fun hno => ⟨?_, ?_⟩, fun hok => ?_⟩, fun hruns =>
    ⟨fun hnone => ?_, fun code hsome => ?_⟩⟩
  · rw [exec_save hreach, State.writeCkCmd_refused (by decide) hno]
  · rw [exec_restore hreach, State.writeCkCmd_refused (by decide) hno]
  · intro lane a n u m hlane hunit hchans hmc hdom hsram hdram hcalm
    refine ⟨?_, ?_⟩
    · have hcalm' : Calm (s.ckToDram s.sram m a n) := hcalm
      obtain ⟨hck, hbusy, hsramKept, hdramNow⟩ := State.ckStarted_shows hcalm' r cOK
      refine ⟨((((s.ckToDram s.sram m a n).ckStarted cOK).respond r cOK 0)).done, ?_, hck, hbusy, hsramKept, fun j => ?_⟩
      · rw [exec_save hreach, State.writeCkCmd_runs (.inl (by decide)) hok, show bit (1 : Word) 1 = false from rfl,
          State.ckCopy_save hlane hunit hchans hmc hdom hsram]
        rfl
      · rw [hdramNow]
        exact Cells.get_paste 0 s.dram s.sram m a n j
    · have hcalm' : Calm (s.ckToLane u.2 (s.reg 0x10344).toNat a n) := hcalm
      obtain ⟨hck, hbusy, hsramNow, hdramKept⟩ := State.ckStarted_shows hcalm' r cOK
      refine ⟨((((s.ckToLane u.2 (s.reg 0x10344).toNat a n).ckStarted cOK).respond r cOK 0)).done, ?_, hck, hbusy, hdramKept, fun j => ?_⟩
      · rw [exec_restore hreach, State.writeCkCmd_runs (.inr (by decide)) hok, show bit (2 : Word) 1 = true from rfl,
          State.ckCopy_restore hlane hunit hchans hmc hdom hdram]
        rfl
      · rw [hsramNow]
        exact Cells.get_paste 0 s.sram s.dram a m n j
  · show (s.actIn 2 State.ckDone) = _
    rw [State.actIn_runs hruns, State.ckDone]
    simp only [hnone]
  · show (s.actIn 2 State.ckDone) = _
    rw [State.actIn_runs hruns, State.ckDone]
    simp only [hsome]

end Sys2Proof.Machine
end

section
/-! What keeps every context's STEP: the ends of commands and of invocations, and what a start does after it has raised its own (rules R323–R325). -/

namespace Sys2Proof.Machine

/-! LPDDR6 traffic leaves the headgate's state unchanged. -/

theorem State.errCapture_regsBut (s : State) (p : Page) (code source ctx addr : Nat) :
    RegsBut (fun _ => True) s (s.errCapture p code source ctx addr) := by
  unfold State.errCapture
  dsimp only
  split
  · exact RegsBut.refl.setRf trivial ..
  · exact (RegsBut.refl.setReg trivial _).setReg trivial _

@[simp] theorem State.errCapture_head (s : State) (p : Page) (code source ctx addr : Nat) : (s.errCapture p code source ctx addr).head = s.head :=
  (s.errCapture_regsBut p code source ctx addr).head

@[simp] theorem State.faultEvent_head (s : State) (p : Page) (cls code source ctx addr detail : Nat) :
    (s.faultEvent p cls code source ctx addr detail).head = s.head := (s.faultEvent_regsBut p cls code source ctx addr detail).head

theorem State.head_ite_foldDue (t : State) (p : Prop) [Decidable p] (l : List Nat) : (if p then { t with foldDue := l } else t).head = t.head := by
  split <;> rfl

theorem State.readLine_head (s : State) (line : Nat) (ctx : Option Nat) (scrub : Bool) : (s.readLine line ctx scrub).2.head = s.head := by
  simp only [State.readLine]
  split
  · rfl
  · split
    · rfl
    · rw [State.head_ite_foldDue]
      cases ctx with
      | none => cases scrub <;> simp
      | some c => simp

theorem State.dramRead_head (s : State) (c : Option Nat) (a n : Nat) : (s.dramRead c a n).2.head = s.head :=
  foldl_keeps (fun (r : Bool × State) l => (r.1 || (r.2.readLine l c false).1, (r.2.readLine l c false).2)) State.head
    (fun r x => State.readLine_head r.2 x c false) (linesOf a n) (false, s)

theorem State.dramWrite_head (s : State) (c : Option Nat) (a : Nat) (bs : List Byte) : (s.dramWrite c a bs).2.head = s.head := by
  show State.head _ = _
  refine foldl_keeps _ State.head (fun r x => ?_) _ _
  dsimp only
  split
  · rfl
  · split
    · exact State.readLine_head ..
    · exact State.readLine_head ..

theorem State.dramSet_head (s : State) (c : Option Nat) (a : Nat) (bs : List Byte) : (s.dramSet c a bs).2.head = s.head := by
  unfold State.dramSet State.dramSetBy
  split
  · rfl
  · exact State.dramWrite_head ..

/-! Steps kept. -/

/-- Every context of `t` has the STEP that it has in `s`. -/
structure StepKept (s t : State) : Prop where
  step : ∀ c, (t.ctx c).step = (s.ctx c).step

namespace StepKept

variable {s t u : State}

theorem refl : StepKept s s := ⟨fun _ => rfl⟩

theorem trans (h : StepKept s t) (h' : StepKept t u) : StepKept s u := ⟨fun c => (h'.step c).trans (h.step c)⟩

theorem of_ctxs (h : t.head.ctxs = s.head.ctxs) : StepKept s t := ⟨fun c => by rw [State.ctx, h, ← State.ctx]⟩

theorem setCtx (h : StepKept s t) {c : Nat} {x : Ctx} (hx : x.step = (t.ctx c).step) : StepKept s (t.setCtx c x) := by
  refine h.trans ⟨fun n => ?_⟩
  by_cases hn : n = c
  · rw [hn, ← hx]
    exact congrArg Ctx.step (Cells.get_put_self ..)
  · exact congrArg Ctx.step (Cells.get_put_ne _ _ _ _ hn)

theorem ite {p : Prop} [Decidable p] (ht : StepKept s t) (hu : StepKept s u) : StepKept s (if p then t else u) := by
  split
  · exact ht
  · exact hu

theorem foldl {α : Type} {f : State → α → State} (l : List α) (h : StepKept s t) (hf : ∀ u x, StepKept u (f u x)) :
    StepKept s (l.foldl f t) := by
  induction l generalizing t with
  | nil => exact h
  | cons x l ih => exact ih (h.trans (hf t x))

end StepKept

theorem State.setHg_stepKept (s : State) (c off : Nat) (v : Word) : StepKept s (s.setHg c off v) := .of_ctxs rfl

theorem State.setGate_stepKept (s : State) (g : Nat) (x : Gate) : StepKept s (s.setGate g x) := .of_ctxs rfl

theorem State.intRaise_stepKept (s : State) (p : Page) (i : Nat) : StepKept s (s.intRaise p i) := .of_ctxs rfl

theorem State.acct64_stepKept (s : State) (c w n : Nat) : StepKept s (s.acct64 c w n) := .of_ctxs rfl

theorem State.slotWrite_stepKept {s t : State} {base slots wc rc : Nat} {bs : List Byte} (h : s.slotWrite base slots wc rc bs = some t) :
    StepKept s t := by
  unfold State.slotWrite at h
  dsimp only at h
  split at h
  · exact absurd h (by simp)
  · split at h
    · rw [← Option.some.inj h]
      exact .of_ctxs (congrArg Headgate.ctxs (s.dramSet_head ..))
    · exact absurd h (by simp)

theorem State.crWrite_stepKept (s : State) (c : Nat) (ws : List Word) : StepKept s (s.crWrite c ws) := by
  unfold State.crWrite
  dsimp only
  split
  · next t ht => exact (State.slotWrite_stepKept ht).trans (t.setHg_stepKept ..)
  · exact (s.setHg_stepKept ..).trans (State.intRaise_stepKept ..)

theorem State.ledgerWrite_stepKept (s : State) (c : Nat) (ws : List Word) : StepKept s (s.ledgerWrite c ws) := by
  unfold State.ledgerWrite
  dsimp only
  split
  · next t ht => exact (State.slotWrite_stepKept ht).trans (t.setHg_stepKept ..)
  · exact (s.setHg_stepKept c 0x318 _).setCtx rfl

theorem State.invCapture_stepKept (s : State) (c : Nat) (r : Rec) : StepKept s (s.invCapture c r) := by
  unfold State.invCapture
  dsimp only
  split
  · exact .refl
  · split
    · exact .refl
    · exact .of_ctxs rfl

theorem State.record_stepKept (s : State) (c : Nat) (r : Rec) (flush : Nat) : StepKept s (s.record c r flush) := by
  refine StepKept.trans (StepKept.trans (((s.crWrite_stepKept c _).setCtx ?_).trans (State.acct64_stepKept _ c 20 _))
    ((State.acct64_stepKept _ c 22 _).trans (State.acct64_stepKept _ c 24 _))) (State.invCapture_stepKept _ c r)
  rfl

theorem State.replayEnd_stepKept (s : State) (c code : Nat) : StepKept s (s.replayEnd c code) := by
  unfold State.replayEnd
  dsimp only
  split
  · exact .refl
  · split
    · exact s.setHg_stepKept ..
    · split
      · exact .of_ctxs rfl
      · exact .of_ctxs rfl

theorem State.closeInvocation_stepKept (s : State) (c code : Nat) : StepKept s (s.closeInvocation c code) := by
  have hledger : ∀ ws, StepKept s (if s.rpMode c = 1 then s.ledgerWrite c ws else s) := fun ws => .ite (s.ledgerWrite_stepKept c ws) .refl
  have hreplay : ∀ t : State, StepKept t (if t.rpMode c = 2 then t.replayEnd c code else t) := fun t => .ite (t.replayEnd_stepKept c code) .refl
  refine StepKept.setCtx (StepKept.trans ((hledger _).trans (hreplay _)) (StepKept.trans (State.setHg_stepKept _ c 0x32C _)
    (State.acct64_stepKept _ c 2 1))) ?_
  rfl

theorem State.endInvocation_stepKept (s : State) (c : Nat) : StepKept s (s.endInvocation c) := by
  refine StepKept.setCtx ((s.crWrite_stepKept c _).trans (State.closeInvocation_stepKept _ c _)) ?_
  rfl

theorem State.maybeEnd_stepKept (s : State) (c : Nat) : StepKept s (s.maybeEnd c) := .ite (s.endInvocation_stepKept c) .refl

theorem State.abandonGate_stepKept (s : State) (g : Nat) : StepKept s (s.abandonGate g) := by
  unfold State.abandonGate
  split
  · exact .refl
  · exact .ite .refl (s.setGate_stepKept ..)

theorem State.lastCode_stepKept (s : State) (p : Page) (code : Nat) : StepKept s (s.lastCode p code) :=
  .of_ctxs (congrArg Headgate.ctxs (s.lastCode_head p code))

theorem State.acct16_stepKept (s : State) (c w lo : Nat) : StepKept s (s.acct16 c w lo) := .of_ctxs rfl

theorem State.issue_stepKept (s : State) (c i : Nat) : StepKept s (s.issue c i) := StepKept.refl.setCtx rfl

theorem State.skipHead_stepKept (s : State) (c i code : Nat) : StepKept s (s.skipHead c i code) := by
  have hint : ∀ (t : State) (k : EngClass) d, StepKept t (if k.int d then t.intRaise .headgate 0 else t) := fun t k d =>
    .ite (t.intRaise_stepKept ..) .refl
  have hnoted : ∀ t : State, StepKept t (t.setCtx c (if code = cABANDONED then { t.ctx c with abandoned := true }
      else { t.ctx c with timedOut := true })) := fun t => StepKept.refl.setCtx (by split <;> rfl)
  unfold State.skipHead
  split
  · refine StepKept.trans ?_ ((State.issue_stepKept _ c i).trans (State.maybeEnd_stepKept _ c))
    refine StepKept.trans ?_ ((State.intRaise_stepKept _ _ _).trans (State.lastCode_stepKept _ _ _))
    refine StepKept.trans ?_ (State.acct16_stepKept _ c 28 _)
    refine StepKept.trans (StepKept.foldl _ ?_ fun t (g : Nat × Nat) => t.abandonGate_stepKept g.1) (hnoted _)
    exact (s.record_stepKept c _ 0).trans (hint _ _ _)
  · exact .refl

theorem State.sweepGo_stepKept (n : Nat) (s : State) : StepKept s (s.sweepGo n) := by
  induction n generalizing s with
  | zero => exact .refl
  | succ n ih =>
    rw [State.sweepGo]
    split
    · exact .refl
    · exact (s.skipHead_stepKept ..).trans (ih _)

theorem State.sweep_stepKept (s : State) : StepKept s s.sweep := s.sweepGo_stepKept _

theorem State.restoreGates_stepKept (s : State) (c : Nat) (all : Bool) : StepKept s (s.restoreGates c all) := by
  refine StepKept.setCtx (StepKept.foldl _ .refl fun t p => .ite (t.setGate_stepKept ..) .refl) ?_
  rfl

end Sys2Proof.Machine
end

section
/-! Invocations, deadlines, frame slots and timeouts (rules R323, R324, R332, R343). -/

namespace Sys2Proof.Machine

theorem State.ctx_setCtx_self (s : State) (c : Nat) (x : Ctx) : (s.setCtx c x).ctx c = x := Cells.get_put_self ..

/-- The gates and the placement of an invocation that begins (rules R323, R337). -/
def State.beginPlaced (s : State) (c : Nat) : State :=
  let s := s.restoreGates c false
  s.setCtx c { s.ctx c with placement := s.pickPlacement c }

/-- Its accounts and its ledger entry; an invocation without commands ends at once. -/
def State.beginNoted (s : State) (c : Nat) (batch : Bool) (mask : Word) (step : DWord) : State :=
  let s := if batch then s.setHg c 0x138 mask else s
  let s := ((s.setHg c (acctOff 0) (w32 step.toNat)).setHg c (acctOff 1) (w32 (step.toNat / 2 ^ 32)))
  let s := if batch ∧ s.rpMode c = 1 then s.ledgerWrite c (ledgerEntry c 5 0 0xFFFFFF 0 step [mask]) else s
  (s.maybeEnd c).sweep

theorem State.beginPlaced_stepKept (s : State) (c : Nat) : StepKept s (s.beginPlaced c) :=
  StepKept.setCtx (s.restoreGates_stepKept c false) rfl

theorem State.beginNoted_stepKept (s : State) (c : Nat) (batch : Bool) (mask : Word) (step : DWord) :
    StepKept s (s.beginNoted c batch mask step) := by
  have hbatch : StepKept s (if batch then s.setHg c 0x138 mask else s) := .ite (s.setHg_stepKept ..) .refl
  have hledger : ∀ (t : State) ws, StepKept t (if batch ∧ t.rpMode c = 1 then t.ledgerWrite c ws else t) := fun t ws =>
    .ite (t.ledgerWrite_stepKept ..) .refl
  refine StepKept.trans ?_ ((State.maybeEnd_stepKept _ c).trans (State.sweep_stepKept _))
  refine StepKept.trans ?_ (hledger _ _)
  exact hbatch.trans ((State.setHg_stepKept _ c _ _).trans (State.setHg_stepKept _ c _ _))

theorem State.begin_fresh_eq {s : State} {c : Nat} (h : s.rpMode c ≠ 2) (t7 : Nat) :
    ∃ (x : Ctx) (mask : Word), x.step = (s.ctx c).step + 1 ∧
      s.begin c t7 = (cOK, ((s.setCtx c x).beginPlaced c).beginNoted c (s.ctx c).batch mask ((s.ctx c).step + 1)) := by
  have hreplayed : (s.rpMode c == 2) = false := beq_false_of_ne h
  simp only [State.begin, hreplayed, Bool.false_eq_true, Bool.false_and, if_false]
  exact ⟨_, _, rfl, rfl⟩

/-- A start that replays nothing succeeds, and the invocation has the next STEP. -/
theorem State.begin_fresh {s : State} {c : Nat} (h : s.rpMode c ≠ 2) (t7 : Nat) :
    (s.begin c t7).1 = cOK ∧ ((s.begin c t7).2.ctx c).step = (s.ctx c).step + 1 := by
  obtain ⟨x, mask, hx, hbegin⟩ := State.begin_fresh_eq h t7
  rw [hbegin]
  refine ⟨rfl, ?_⟩
  rw [(State.beginNoted_stepKept _ c _ mask _).step, (State.beginPlaced_stepKept _ c).step, State.ctx_setCtx_self, hx]

/-! INVOKE (rule R323). -/

theorem exec_invoke {s : State} {r : Requester} (h : Reaches s r 0x10118 true) :
    let q := if s.domain 2 ≠ 2 then (cOFF_DOMAIN, s) else s.start (s.ctxSel r)
    exec (.invoke r) s = .next (q.2.respond r q.1 0).done := by
  intro q
  have hcmd : s.ctxCmd r 1 = q := by
    have h0 : bit (1 : Word) 0 = true := rfl
    have h1 : bit (1 : Word) 1 = false := rfl
    have h2 : bit (1 : Word) 2 = false := rfl
    have hf : fld (1 : Word) 1 2 = 0 := rfl
    simp only [State.ctxCmd, h0, h1, h2, hf, ne_eq, not_true_eq_false, and_false, if_false, Bool.not_true, Bool.not_false, Bool.false_eq_true,
      or_self, or_true, if_true]
    rfl
  have hserve : s.serveWrite r .headgate 0x118 1 = s.ctxCmd r 1 := rfl
  show (s.act fun s => s.regWrite r (wordAccess (Page.base .headgate + 0x118)) 1) = _
  rw [act_pageWrite _ (by decide) (by decide) h, hserve, hcmd]

section
variable {s : State} {n : Nat} (hup : ¬ ((s.ctx n).state = .free ∨ (s.ctx n).state = .faulted ∨ (s.ctx n).tearing ≠ none))
include hup

theorem State.start_pending (hpend : (s.ctx n).pend ≠ none) : s.start n = (cOK, s.acct16 n 29 16) := by
  rw [State.start, if_neg hup, if_pos (.inr (.inr hpend)), if_pos hpend]

theorem State.start_waits (hbusy : (s.ctx n).state = .running ∨ s.ckBusy = true) (hpend : (s.ctx n).pend = none) :
    s.start n = (cOK, s.setCtx n { s.ctx n with pend := some (s.now 7) }) := by
  rw [State.start, if_neg hup, if_pos (hbusy.imp_right .inl), if_neg (Classical.not_not.mpr hpend)]

theorem State.start_begins (hbusy : ¬ ((s.ctx n).state = .running ∨ s.ckBusy = true)) (hpend : (s.ctx n).pend = none) :
    s.start n = s.begin n (s.now 7) := by
  rw [State.start, if_neg hup, if_neg fun h => hbusy (h.imp_right fun h => h.resolve_right (not_not_intro hpend))]

end

/-! Frame slots (rule R332). -/

/-- The starts of slot `i` noted on the engines of a list that it covers. -/
def State.noteSlot (s : State) (i nominal : Nat) (w : List Word) (es : List Nat) : State :=
  es.foldl (fun s e =>
    if slotCovers w e then
      { s with head := { s.head with slotAt := Cells.put 0 s.head.slotAt (128 * i + e) (max nominal (s.busyUntil e) + 1) } }
    else s) s

theorem State.noteSlot_spec (i nominal : Nat) (w : List Word) (es : List Nat) (hes : es.Nodup) (s : State) :
    (∃ l, s.noteSlot i nominal w es = { s with head := { s.head with slotAt := l } }) ∧
    (∀ e ∈ es, slotCovers w e = true → Cells.get 0 (s.noteSlot i nominal w es).head.slotAt (128 * i + e) = max nominal (s.busyUntil e) + 1) ∧
    ∀ k, (∀ e ∈ es, slotCovers w e = true → k ≠ 128 * i + e) →
      Cells.get 0 (s.noteSlot i nominal w es).head.slotAt k = Cells.get 0 s.head.slotAt k := by
  induction es generalizing s with
  | nil => exact ⟨⟨s.head.slotAt, rfl⟩, fun e he => absurd he (by simp), fun k _ => rfl⟩
  | cons e es ih =>
    obtain ⟨hnew, hes⟩ := List.nodup_cons.mp hes
    by_cases hcov : slotCovers w e = true
    · have hcons : s.noteSlot i nominal w (e :: es) = State.noteSlot
          { s with head := { s.head with slotAt := Cells.put 0 s.head.slotAt (128 * i + e) (max nominal (s.busyUntil e) + 1) } } i nominal w es := by
        rw [State.noteSlot, List.foldl_cons, if_pos hcov]
        rfl
      obtain ⟨⟨l, hl⟩, hin, hout⟩ := ih hes
        { s with head := { s.head with slotAt := Cells.put 0 s.head.slotAt (128 * i + e) (max nominal (s.busyUntil e) + 1) } }
      rw [hcons]
      refine ⟨⟨l, hl⟩, fun f hf hfc => ?_, fun k hk => ?_⟩
      · rcases List.mem_cons.mp hf with rfl | hf
        · rw [hout _ fun e he _ heq => hnew (by rwa [show f = e by omega])]
          exact Cells.get_put_self ..
        · exact hin f hf hfc
      · rw [hout k fun e he => hk e (List.mem_cons_of_mem _ he)]
        exact Cells.get_put_ne _ _ _ _ (hk e List.mem_cons_self hcov)
    · have hcons : s.noteSlot i nominal w (e :: es) = s.noteSlot i nominal w es := by
        rw [State.noteSlot, List.foldl_cons, if_neg hcov]
        rfl
      obtain ⟨hframe, hin, hout⟩ := ih hes s
      rw [hcons]
      refine ⟨hframe, fun f hf hfc => ?_, fun k hk => hout k fun e he => hk e (List.mem_cons_of_mem _ he)⟩
      rcases List.mem_cons.mp hf with rfl | hf
      · exact absurd hfc hcov
      · exact hin f hf hfc

theorem State.slotStart_due {s : State} {i : Nat} {w : List Word} (hw : s.slotEntries[i]? = some w)
    (hfirst : s.frameOrigin + (dw w 0).toNat ≤ s.now 7) (hframe : (s.reg 0x10100).toNat ≠ 0) :
    s.slotStart i = s.noteSlot i (s.frameOrigin + (dw w 0).toNat +
      (s.now 7 - (s.frameOrigin + (dw w 0).toNat)) / (s.reg 0x10100).toNat * (s.reg 0x10100).toNat) w (List.range 0x49) := by
  simp only [State.slotStart, hw]
  exact if_neg (not_or.mpr ⟨Nat.not_lt.mpr hfirst, hframe⟩)

/-- Settles O42: a start by the context's state, a deadline, a slot and a timeout by their moments. -/
theorem invocations : Obligations.Invocations := by
  intro s r c i eng second
  refine ⟨fun hreach => ?_, fun hruns => ?_⟩
  · intro n x down busy
    refine ⟨fun hoff => ?_, fun hon => ⟨fun hdown => ?_, fun hup hpend => ?_, fun hup hbusy hpend => ?_, fun hup hbusy hpend => ⟨?_, fun hmode =>
      State.begin_fresh hmode _⟩⟩⟩
    · rw [exec_invoke hreach, if_pos hoff]
    · rw [exec_invoke hreach, if_neg (Classical.not_not.mpr hon), State.start, if_pos hdown]
    · rw [exec_invoke hreach, if_neg (Classical.not_not.mpr hon), State.start_pending hup hpend]
    · rw [exec_invoke hreach, if_neg (Classical.not_not.mpr hon), State.start_waits hup hbusy hpend]
    · rw [exec_invoke hreach, if_neg (Classical.not_not.mpr hon), State.start_begins hup hbusy hpend]
  · intro x
    refine ⟨fun t hpend hadm htear hck => ?_, fun hpend => ?_, ?_, fun w hw => ?_, fun j w h hon hwait => ?_⟩
    · show (s.actIn 2 fun s => s.startPending c.val) = _
      rw [State.actIn_runs hruns, State.startPending]
      simp only [show (s.ctx c.val).pend = some t from hpend]
      rw [if_pos ⟨hadm, htear, by rw [hck]; rfl⟩]
    · show (s.actIn 2 fun s => s.startPending c.val) = _
      rw [State.actIn_runs hruns, State.startPending]
      simp only [show (s.ctx c.val).pend = none from hpend]
    · intro due
      refine ⟨fun ⟨hrun, hmiss, htime⟩ => ?_, fun hno => ?_⟩
      · show (s.actIn 2 fun s => s.deadlineMiss c.val) = _
        rw [State.actIn_runs hruns, State.deadlineMiss, if_pos ⟨hrun, by rw [show (s.ctx c.val).missed = false from hmiss]; rfl, htime⟩]
      · show (s.actIn 2 fun s => s.deadlineMiss c.val) = _
        rw [State.actIn_runs hruns, State.deadlineMiss, if_neg]
        exact fun ⟨hrun, hmiss, htime⟩ => hno ⟨hrun, by simpa using hmiss, htime⟩
    · intro first frame hfirst hframe hcalm
      obtain ⟨⟨l, hl⟩, hin, hout⟩ := State.noteSlot_spec i (first + (s.now 7 - first) / frame * frame) w (List.range 0x49) List.nodup_range s
      have hcalm' : Calm (s.noteSlot i (first + (s.now 7 - first) / frame * frame) w (List.range 0x49)) := by rw [hl]; exact hcalm
      refine ⟨(s.noteSlot i (first + (s.now 7 - first) / frame * frame) w (List.range 0x49)).done, ?_, fun e he hcov => ?_, fun k hk => ?_, ?_⟩
      · show (s.actIn 2 fun s => s.slotStart i) = _
        rw [State.actIn_runs hruns, State.slotStart_due hw hfirst hframe]
      · rw [State.done_head hcalm', hin e (List.mem_range.mpr he) hcov]
      · rw [State.done_head hcalm', hout k fun e he => hk e (List.mem_range.mp he)]
      · rw [State.done_head hcalm', hl]
    · intro limit
      have hexec : exec (.timeout c eng second) s = .next (s.waitTimeout c.val eng.toNat second).done := by
        show (s.actIn 2 fun s => s.waitTimeout c.val eng.toNat second) = _
        exact State.actIn_runs hruns _
      refine ⟨fun hlimit hsince hholds => ?_, fun hno => ?_⟩
      · have hexp : s.waitExpired (w, h) = true := by
          rw [State.waitExpired, Bool.and_eq_true, bne_iff_ne, decide_eq_true_eq]
          exact ⟨hlimit, hsince⟩
        rw [hexec]
        simp only [State.waitTimeout, hon, hwait, hexp, hholds, Bool.not_true, Bool.false_eq_true, if_false, if_true]
      · have hexp : s.waitExpired (w, h) = false := by
          rw [State.waitExpired, Bool.and_eq_false_iff, bne_eq_false_iff_eq, decide_eq_false_iff_not]
          exact hno.imp id Nat.not_le.mpr
        rw [hexec]
        simp only [State.waitTimeout, hon, hwait, hexp, Bool.not_false, if_true]

end Sys2Proof.Machine
end

section
namespace Sys2Proof.Machine

/-! ## The exit of a power domain -/

theorem State.domain_eq_one_of_wakeStep {s : State} {i : Nat} (h : s.wakeStep i ≠ 0) : s.domain i = 1 := by
  exact Classical.byContradiction fun hd => h (if_neg hd)

theorem State.wakeStep_setStep_self (s : State) {i : Nat} (h : s.domain i = 1) (n : Nat) : (s.setStep i n).wakeStep i = n := by
  have hd : (s.setStep i n).domain i = 1 := h
  unfold State.wakeStep
  rw [if_pos hd]
  exact Cells.get_put_self 0 s.power.steps i n

theorem State.domain_setDomain_self (s : State) (d v : Nat) : (s.setDomain d v).domain d = v :=
  Cells.get_put_self _ s.dom d v

theorem State.domain_setDomain_ne (s : State) {d e : Nat} (v : Nat) (h : e ≠ d) : (s.setDomain d v).domain e = s.domain e :=
  Cells.get_put_ne _ _ s.dom v h

theorem State.wakeStep_of_domain_ne {s : State} {i : Nat} (h : s.domain i ≠ 1) : s.wakeStep i = 0 := if_neg h

theorem State.byte_clearUnit (s : State) (u a : Nat) (ha : a < 2 ^ 24) : Mem.byte (s.clearUnit u).sram (2 ^ 24 * u + a) = 0 := by
  have hget := Cells.get_clear (0 : Byte) s.sram (2 ^ 24 * u) (2 ^ 24) (2 ^ 24 * u + a)
  rw [if_neg (by generalize 2 ^ 24 * u = b; omega)] at hget
  exact hget

theorem State.rmap_resetPages (s : State) (d : Nat) : (s.resetPages d).rmap = s.rmap := rfl

theorem State.rmap_restoreDomain (s : State) (d : Nat) : (s.restoreDomain d).rmap = s.rmap := by
  unfold State.restoreDomain
  dsimp only
  split
  · rfl
  · split
    · rw [State.intRaise_rmap, State.setRf_rmap, State.setSaveW_rmap, State.setSaveW_rmap, State.rmap_resetPages]
    · rw [State.setRf_rmap, State.setSaveW_rmap, State.setSaveW_rmap]
      refine foldl_fixes State.rmap (fun t p => ?_) _ (s.resetPages d)
      rw [apply_ite State.rmap, State.setReg_rmap, ite_self]

theorem State.isFailed_congr {s t : State} (h : s.rmap = t.rmap) : s.isFailed = t.isFailed := by
  funext p
  cases p <;> simp only [State.isFailed, State.rm, h]

/-- Settles O59: each ready event acts at its own step of the exit. -/
theorem domainExit : Obligations.DomainExit := by
  intro s d hup i w
  have hact : ∀ f : State → State, (s.act f) = .next (f s).done := State.act_up hup
  refine ⟨fun h => ?_, fun h hpg => ?_, fun h => ?_, fun h => ?_, fun h => ?_, fun h => ?_, fun h => ?_, fun h => ?_⟩
  · show (s.act fun s => s.regulatorReady i) = _
    have hno : ¬ (s.wakeStep i = 1 ∧ s.power.pg.getLsbD (domainRail i) = true) := by
      rintro ⟨hw, hp⟩
      rcases h with h | h
      · exact h hw
      · simp [hp] at h
    rw [hact, State.regulatorReady, if_neg hno]
  · show (s.act fun s => s.regulatorReady i) = _
    rw [hact, State.regulatorReady, if_pos ⟨h, hpg⟩]
  · show (s.act fun s => s.oscReady i) = _
    rw [hact, State.oscReady, if_neg h]
  · show (s.act fun s => s.oscReady i) = _
    rw [hact, State.oscReady, if_pos h]
  · show (s.act fun s => s.memReady i) = _
    rw [hact, State.memReady, if_neg h]
  · have hdom : s.domain i = 1 := State.domain_eq_one_of_wakeStep (by show w ≠ 0; omega)
    refine ⟨s.memReady i, hact _, ?_, fun h3 h30 a ha => ?_⟩
    · rw [State.memReady, if_pos h]
      refine State.wakeStep_setStep_self _ ?_ 4
      split
      · exact hdom
      · exact hdom
    · rw [State.memReady, if_pos h, if_pos ⟨h3, h30⟩]
      exact State.byte_clearUnit s (i - 3) a ha
  · show (s.act fun s => s.logicReady i) = _
    rw [hact, State.logicReady, if_pos h]
  · intro fresh on u
    have hon : u.domain i = on := State.domain_setDomain_self _ i on
    refine ⟨?_, hon, State.wakeStep_of_domain_ne ?_⟩
    · show (s.act fun s => s.logicReady i) = _
      rw [hact, State.logicReady, if_neg (Classical.not_not.mpr h)]
      have hfail : (if fresh then s.restoreDomain i else s).isFailed = s.isFailed := by
        refine State.isFailed_congr ?_
        split
        · exact s.rmap_restoreDomain i
        · rfl
      dsimp only [u, on]
      rw [← hfail]
    · rw [hon]
      show (if (domainUnit i).any s.isFailed then 3 else 2) ≠ 1
      split <;> decide

end Sys2Proof.Machine
end

section
/-! ## Sleep entries (rules R424, R425, R427–R431, R441) -/

namespace Sys2Proof.Machine

/-! ### What waits for the end of an entry -/

theorem State.resume_of_none {s : State} (hreqs : s.power.reqs = []) (hnext : s.power.next = none) : s.resume = s := by
  have hgo : s.reqsGo s.power.reqs.length = s := by rw [hreqs]; rfl
  rw [State.resume, hgo, State.levelNext, hnext]

/-! ### PWR_REQ, idle timers and the handshake -/

theorem exec_pwrReq {s : State} {q : Requester} (t : BitVec 2) (h : Reaches s q 0x3100 true) :
    let r := if q ≠ .mgmt then (cARG, s) else s.writePwrReq (w32 t.toNat)
    exec (.pwrReq q t) s = .next (r.2.respond q r.1 0).done := by
  intro r
  have hserve : s.serveWrite q .power 0x100 (w32 t.toNat) = r := rfl
  show (s.act fun s => s.regWrite q (wordAccess (Page.base .power + 0x100)) (w32 t.toNat)) = _
  rw [act_pageWrite _ (by decide) (by decide) h, hserve]

theorem fld_w32_sleepTarget (t : BitVec 2) : fld (w32 t.toNat) 0 2 = t.toNat := by
  revert t
  decide

section
variable {s : State} {t : BitVec 2}

theorem State.writePwrReq_s0 (h : t = 0) : s.writePwrReq (w32 t.toNat) = (cARG, s) := by
  have ht : t.toNat = 0 := by rw [h]; rfl
  rw [State.writePwrReq, fld_w32_sleepTarget, if_pos ht]

variable (h0 : t ≠ 0)
include h0

theorem State.writePwrReq_waits (hmoving : s.moving = true) : s.writePwrReq (w32 t.toNat) =
    (cOK, { s with power := { s.power with reqs := s.power.reqs ++ [.sleep t.toNat] } }) := by
  have ht : t.toNat ≠ 0 := fun h => h0 (BitVec.eq_of_toNat_eq h)
  rw [State.writePwrReq, fld_w32_sleepTarget, if_neg ht, if_pos hmoving]

theorem State.writePwrReq_shallow (hmoving : s.moving = false) (hle : t.toNat ≤ s.rf 0x3104 0 2) :
    s.writePwrReq (w32 t.toNat) = (cARG, s) := by
  have ht : t.toNat ≠ 0 := fun h => h0 (BitVec.eq_of_toNat_eq h)
  rw [State.writePwrReq, fld_w32_sleepTarget, if_neg ht, if_neg (by simp [hmoving]), if_pos hle]

end

theorem State.writePwrReq_begins {s : State} {t : BitVec 2} (hmoving : s.moving = false) (hlt : s.rf 0x3104 0 2 < t.toNat) :
    s.writePwrReq (w32 t.toNat) = (cOK, (s.entryStart t.toNat 0 (s.participants t.toNat)).resume) := by
  rw [State.writePwrReq, fld_w32_sleepTarget, if_neg (by omega), if_neg (by simp [hmoving]), if_neg (by omega), State.sleepGo,
    if_neg (by omega)]

section
variable {s : State} {n : Nat} {rest : List Nat} (hphase : s.power.phase = 1) (hask : s.power.ask = n :: rest)
include hphase hask

theorem State.agree_failed (hfailed : (domainUnit n).any s.isFailed = true) :
    s.agree = State.askNext { s with power := { s.power with ask := rest } } := by
  simp only [State.agree, hask, hphase, ne_eq, not_true_eq_false, if_false, hfailed, if_true]

theorem State.agree_busy (hfailed : (domainUnit n).any s.isFailed = false) (hbusy : s.domainBusy n = true) : s.agree = s := by
  simp only [State.agree, hask, hphase, ne_eq, not_true_eq_false, if_false, hfailed, hbusy, if_true, Bool.false_eq_true]

theorem State.agree_stopped (hfailed : (domainUnit n).any s.isFailed = false) (hbusy : s.domainBusy n = false) :
    s.agree = State.askNext { s with power := { s.power with ask := rest, agreed := s.power.agreed ++ [n] } } := by
  simp only [State.agree, hask, hphase, ne_eq, not_true_eq_false, if_false, hfailed, hbusy, Bool.false_eq_true]

theorem State.stopWait_asked : s.stopWait = if ((domainUnit n).isSome = true ∨ 32 ≤ n) ∧ (domainUnit n).any s.isFailed = false ∧
    s.domainBusy n = true ∧ s.rf 0x3108 0 16 * 1000 ≤ s.time.ns - s.power.askNs then s.refuse n 1 (domainPage n) else s := by
  simp only [State.stopWait, hask, hphase, true_and, Bool.not_eq_true']

end

/-! ### The commit completes -/

/-- The state that the commit takes a domain to. -/
def State.goesTo (s : State) (d : Nat) : Nat := if s.power.target = 0 then s.power.depth else sleepState s.power.target d

/-- The agreed domains that become QUIESCENT. -/
def State.quietSet (s : State) : List Nat := s.power.agreed.filter fun d => s.goesTo d = 3 && !(domainUnit d).any s.isFailed

/-- The domains that the commit switches OFF: agreed ones, and those of failed units. -/
def State.offSet (s : State) : List Nat :=
  (s.power.agreed.filter fun d => s.goesTo d = 0 && !(domainUnit d).any s.isFailed) ++ (if s.power.target < 2 then [] else s.failedOn)

def State.domainsDown (s : State) : State := (s.quietSet.foldl (fun s d => s.setDomain d 3) s).offDomains s.offSet

/-- LPDDR6 and the rails in sleep state `t`, and the domains that a device entry put to sleep. -/
def State.deviceDown (s : State) (t : Nat) (ds : List Nat) : State :=
  let s := if t = 3 then s.dramLost else s
  let p := if t = 1 ∨ t = 2 then { s.power with vcore := 0, bias := 0, assist := 0 }
    else if t = 3 then { s.power with pen := 0, pg := 0 } else s.power
  { s with power := if t = 0 then p else { p with slept := p.slept ++ ds } }

/-- PWR_STAT's new state, and the end of the entry. -/
def State.entryEnds (s : State) (t : Nat) : State := (if t = 0 then s else (s.setRf 0x3104 0 2 t).intRaise .power 0).entryOver

/-- The first latched wake event acts. -/
def State.latchedWake (s : State) (t : Nat) : State :=
  let lat := ones 4 (s.reg 0x311C).toNat
  let mask := s.power.wakeMask
  let s := { s.setReg 0x311C 0 with power := { s.power with wakeMask := 0 } }
  match lat with
  | [] => s
  | i :: _ => s.wakeAct (if t = 0 ∧ lat.contains 3 then 3 else i) mask

/-- The state that an entry ends in, before what waited for its end. -/
def State.committed (s : State) : State :=
  ((s.domainsDown.deviceDown s.power.target s.power.agreed).entryEnds s.power.target).latchedWake s.power.target

theorem State.entered_eq {s : State} (hphase : s.power.phase = 2)
    (hwaits : ¬ ((s.power.target = 1 ∨ s.power.target = 2) ∧ s.power.seq.isSome = true)) :
    s.entered = s.committed.wakeReserves.wakeWaited.resume := by
  rw [State.entered, if_neg (fun h => h.elim (fun h => h hphase) hwaits)]
  rfl

/-! What the commit keeps: the requests that wait, the next level where none waits, and the latched wake events where there are none. -/

theorem foldl_invariant {σ α : Type} (P : σ → Prop) {f : σ → α → σ} (h : ∀ s x, P s → P (f s x)) (l : List α) {s : σ} (hs : P s) :
    P (l.foldl f s) := by
  induction l generalizing s with
  | nil => exact hs
  | cons x l ih => exact ih (h s x hs)

/-- No wake event is latched, no request and no level waits, and `slept` lists the domains that sleep. -/
def State.NothingWaits (slept : List Nat) (s : State) : Prop :=
  s.reg 0x311C = 0 ∧ s.power.reqs = [] ∧ s.power.next = none ∧ s.power.slept = slept

section
variable {slept : List Nat} {s : State}

theorem State.NothingWaits.setDomain (h : s.NothingWaits slept) (d v : Nat) : (s.setDomain d v).NothingWaits slept := h

theorem State.NothingWaits.resetPages (h : s.NothingWaits slept) (d : Nat) : (s.resetPages d).NothingWaits slept := by
  obtain ⟨hreg, hpower⟩ := h
  refine ⟨?_, hpower⟩
  have hget := Cells.get_filter (regInit 0x311C) s.regs (fun k => decide (regDomain k ≠ d) || keptOff k) 0x311C
  refine hget.trans ?_
  split
  · exact hreg
  · rfl

theorem State.NothingWaits.congr {t : State} (h : s.NothingWaits slept) (hregs : t.regs = s.regs) (hreqs : t.power.reqs = s.power.reqs)
    (hnext : t.power.next = s.power.next) (hslept : t.power.slept = s.power.slept) : t.NothingWaits slept := by
  obtain ⟨h1, h2, h3, h4⟩ := h
  refine ⟨?_, hreqs.trans h2, hnext.trans h3, hslept.trans h4⟩
  rw [State.reg, hregs]
  exact h1

theorem State.loseDomain_regs (s : State) {d : Nat} (h : d ≠ 1) : (s.loseDomain d).regs = s.regs := by
  unfold State.loseDomain
  rw [if_neg h]
  split
  · rfl
  split
  · dsimp only
    split <;> rfl
  split
  · rfl
  split
  · generalize s.padLevels = levels
    rfl
  · rfl

/-- Of the power coordinator, a domain other than 1 takes the pads' levels alone with it. -/
theorem State.loseDomain_power (s : State) {d : Nat} (h : d ≠ 1) :
    ∃ levels, (s.loseDomain d).power = { s.power with padHold := levels } := by
  unfold State.loseDomain
  rw [if_neg h]
  split
  · exact ⟨_, rfl⟩
  split
  · dsimp only
    split <;> exact ⟨_, rfl⟩
  split
  · exact ⟨_, rfl⟩
  split
  · exact ⟨s.padLevels, rfl⟩
  · exact ⟨_, rfl⟩

theorem State.NothingWaits.loseDomain (h : s.NothingWaits slept) (d : Nat) : (s.loseDomain d).NothingWaits slept := by
  by_cases hd : d = 1
  · obtain ⟨hreg, hreqs, _, hslept⟩ := h
    rw [State.loseDomain, if_pos hd]
    exact ⟨(State.reg_setReg_ne s.sdioLost _ (by decide)).trans hreg, hreqs, rfl, hslept⟩
  · obtain ⟨levels, hpower⟩ := s.loseDomain_power hd
    exact h.congr (s.loseDomain_regs hd) (by rw [hpower]) (by rw [hpower]) (by rw [hpower])

theorem State.NothingWaits.offDomains (h : s.NothingWaits slept) (ds : List Nat) : (s.offDomains ds).NothingWaits slept :=
  foldl_invariant (State.NothingWaits slept) (fun _ d h => ((h.loseDomain d).resetPages d).setDomain d 0) ds h

theorem State.NothingWaits.domainsDown (h : s.NothingWaits slept) : s.domainsDown.NothingWaits slept :=
  (foldl_invariant (State.NothingWaits slept) (fun _ d h => h.setDomain d 3) s.quietSet h).offDomains _

theorem State.NothingWaits.deviceDown (h : s.NothingWaits slept) (t : Nat) (ds : List Nat) :
    (s.deviceDown t ds).NothingWaits (if t = 0 then slept else slept ++ ds) := by
  obtain ⟨hreg, hreqs, hnext, hslept⟩ := h
  unfold State.deviceDown
  by_cases h0 : t = 0
  · subst h0
    exact ⟨hreg, hreqs, hnext, hslept⟩
  · by_cases h3 : t = 3
    · subst h3
      exact ⟨hreg, hreqs, hnext, congrArg (· ++ ds) hslept⟩
    · simp only [if_neg h0, if_neg h3]
      split
      · exact ⟨hreg, hreqs, hnext, congrArg (· ++ ds) hslept⟩
      · exact ⟨hreg, hreqs, hnext, congrArg (· ++ ds) hslept⟩

theorem State.entryOver_reg (s : State) {a : Nat} (h : a ≠ 0x3104) : s.entryOver.reg a = s.reg a := State.reg_setReg_ne _ _ h

theorem State.NothingWaits.entryEnds (h : s.NothingWaits slept) (t : Nat) : (s.entryEnds t).NothingWaits slept := by
  obtain ⟨hreg, hreqs, hnext, hslept⟩ := h
  unfold State.entryEnds
  split
  · exact ⟨(s.entryOver_reg (by decide)).trans hreg, hreqs, hnext, hslept⟩
  · refine ⟨?_, hreqs, hnext, hslept⟩
    rw [State.entryOver_reg _ (by decide), State.reg_intRaise_off _ _ _ (by decide)]
    exact (State.reg_setReg_ne _ _ (by decide)).trans hreg

/-- Without a latched wake event, the end of the entry wakes nothing. -/
theorem State.NothingWaits.latchedWake_eq (h : s.NothingWaits slept) (t : Nat) :
    s.latchedWake t = { s.setReg 0x311C 0 with power := { s.power with wakeMask := 0 } } := by
  have hlat : ones 4 (s.reg 0x311C).toNat = [] := by rw [h.1]; rfl
  unfold State.latchedWake
  rw [hlat]

theorem State.NothingWaits.committed_eq (h : s.NothingWaits slept) : s.committed =
    let u := (s.domainsDown.deviceDown s.power.target s.power.agreed).entryEnds s.power.target
    { u.setReg 0x311C 0 with power := { u.power with wakeMask := 0 } } :=
  ((h.domainsDown.deviceDown s.power.target s.power.agreed).entryEnds s.power.target).latchedWake_eq s.power.target

theorem State.NothingWaits.committed (h : s.NothingWaits slept) :
    s.committed.NothingWaits (if s.power.target = 0 then slept else slept ++ s.power.agreed) := by
  obtain ⟨_, hpower⟩ := (h.domainsDown.deviceDown s.power.target s.power.agreed).entryEnds s.power.target
  rw [h.committed_eq]
  exact ⟨State.reg_setReg_self .., hpower⟩

theorem State.entryEnds_phase (s : State) (t : Nat) : (s.entryEnds t).power.phase = 0 := rfl

theorem State.NothingWaits.committed_phase (h : s.NothingWaits slept) : s.committed.power.phase = 0 := by
  rw [h.committed_eq]
  exact State.entryEnds_phase (s.domainsDown.deviceDown s.power.target s.power.agreed) s.power.target

theorem State.entryEnds_stat (s : State) {t : Nat} (h1 : 1 ≤ t) (h3 : t ≤ 3) : (s.entryEnds t).rf 0x3104 0 2 = t := by
  rw [State.entryEnds, if_neg (by omega)]
  show (((s.setRf 0x3104 0 2 t).intRaise .power 0).setRf 0x3104 2 1 0).rf 0x3104 0 2 = t
  rw [State.rf_setRf_apart _ _ _ (by decide), State.rf, State.reg_intRaise_off _ _ _ (by decide)]
  exact State.rf_setRf_self s 0x3104 (by decide) (by omega)

theorem State.NothingWaits.committed_stat (h : s.NothingWaits slept) (h1 : 1 ≤ s.power.target) (h3 : s.power.target ≤ 3) :
    s.committed.rf 0x3104 0 2 = s.power.target := by
  rw [h.committed_eq, State.rf]
  exact (congrArg (fld · 0 2) (State.reg_setReg_ne _ _ (by decide))).trans (State.entryEnds_stat _ h1 h3)

theorem State.deviceDown_domain (s : State) (t : Nat) (ds : List Nat) (n : Nat) : (s.deviceDown t ds).domain n = s.domain n := by
  unfold State.deviceDown
  dsimp only
  split <;> rfl

theorem State.entryEnds_domain (s : State) (t n : Nat) : (s.entryEnds t).domain n = s.domain n := by
  unfold State.entryEnds
  split <;> rfl

theorem State.domain_noWake (s : State) (n : Nat) :
    State.domain { s.setReg 0x311C 0 with power := { s.power with wakeMask := 0 } } n = s.domain n := rfl

theorem State.NothingWaits.committed_domain (h : s.NothingWaits slept) (n : Nat) : s.committed.domain n = s.domainsDown.domain n := by
  rw [h.committed_eq]
  exact (State.domain_noWake _ n).trans ((State.entryEnds_domain ..).trans (State.deviceDown_domain ..))

end

/-! The domains of the commit. -/

theorem State.domain_loseDomain (s : State) (d n : Nat) : (s.loseDomain d).domain n = s.domain n := by
  have hdom : (s.loseDomain d).dom = s.dom := by
    unfold State.loseDomain
    split
    · rfl
    split
    · rfl
    split
    · dsimp only
      split <;> rfl
    split
    · rfl
    split
    · generalize s.padLevels = levels
      rfl
    · rfl
  rw [State.domain, hdom]
  rfl

theorem State.domain_quiet (ds : List Nat) (s : State) (n : Nat) :
    (ds.foldl (fun s d => s.setDomain d 3) s).domain n = if n ∈ ds then 3 else s.domain n := by
  induction ds generalizing s with
  | nil => rfl
  | cons d ds ih =>
    rw [List.foldl_cons, ih]
    by_cases hmem : n ∈ ds
    · rw [if_pos hmem, if_pos (List.mem_cons_of_mem _ hmem)]
    · by_cases hd : n = d
      · subst hd
        rw [if_neg hmem, if_pos List.mem_cons_self, State.domain_setDomain_self]
      · rw [if_neg hmem, if_neg (by simp [hmem, hd]), State.domain_setDomain_ne _ _ hd]

theorem State.domain_offDomains (ds : List Nat) (s : State) (n : Nat) :
    (s.offDomains ds).domain n = if n ∈ ds then 0 else s.domain n := by
  induction ds generalizing s with
  | nil => rfl
  | cons d ds ih =>
    have hcons : s.offDomains (d :: ds) = (((s.loseDomain d).resetPages d).setDomain d 0).offDomains ds := rfl
    rw [hcons, ih]
    by_cases hmem : n ∈ ds
    · rw [if_pos hmem, if_pos (List.mem_cons_of_mem _ hmem)]
    · by_cases hd : n = d
      · subst hd
        rw [if_neg hmem, if_pos List.mem_cons_self, State.domain_setDomain_self]
      · rw [if_neg hmem, if_neg (by simp [hmem, hd]), State.domain_setDomain_ne _ _ hd]
        exact s.domain_loseDomain d n

/-- A participant of a device entry whose unit has not failed takes the state of rule R422. -/
theorem State.domain_domainsDown {s : State} {n : Nat} (ht : s.power.target ≠ 0) (hmem : n ∈ s.power.agreed)
    (hfailed : (domainUnit n).any s.isFailed = false)
    (hgoes : sleepState s.power.target n = 0 ∨ sleepState s.power.target n = 3) :
    s.domainsDown.domain n = sleepState s.power.target n := by
  have hto : s.goesTo n = sleepState s.power.target n := if_neg ht
  have hnotFailedOn : n ∉ s.failedOn := fun h => by
    simp only [State.failedOn, List.mem_filter, hfailed, Bool.false_and, Bool.false_eq_true, and_false] at h
  have hnotIn : n ∉ (if s.power.target < 2 then [] else s.failedOn) := by
    split
    · exact List.not_mem_nil
    · exact hnotFailedOn
  have hoff : n ∈ s.offSet ↔ sleepState s.power.target n = 0 := by
    simp only [State.offSet, List.mem_append, List.mem_filter, hnotIn, or_false, hmem, hto, hfailed, Bool.not_false, Bool.and_true,
      decide_eq_true_eq, true_and]
  have hquiet : n ∈ s.quietSet ↔ sleepState s.power.target n = 3 := by
    simp only [State.quietSet, List.mem_filter, hmem, hto, hfailed, Bool.not_false, Bool.and_true, decide_eq_true_eq, true_and]
  rw [State.domainsDown, State.domain_offDomains, State.domain_quiet]
  rcases hgoes with h | h
  · rw [if_pos (hoff.mpr h), h]
  · rw [if_neg (fun hin => by rw [hoff.mp hin] at h; omega), if_pos (hquiet.mpr h), h]

/-! What wakes after the entry: nothing in a sleep state. -/

theorem State.wakeReserves_power (s : State) : s.wakeReserves.power.phase = s.power.phase ∧ s.wakeReserves.power.reqs = s.power.reqs ∧
    s.wakeReserves.power.next = s.power.next := by
  have hkeeps : ∀ {α : Type} (g : Power → α), (∀ (s : State) d, g (s.wakeDomain d).power = g s.power) → g s.wakeReserves.power = g s.power :=
    fun g hg => foldl_fixes (fun s : State => g s.power) (fun t x => by
      dsimp only
      split
      · exact hg ..
      · rfl) _ s
  exact ⟨hkeeps _ fun _ _ => rfl, hkeeps _ fun _ _ => rfl, hkeeps _ fun _ _ => rfl⟩

theorem State.wakeWaited_power {s : State} (h : s.power.phase = 0) : s.wakeWaited.power.phase = 0 ∧
    s.wakeWaited.power.reqs = s.power.reqs ∧ s.wakeWaited.power.next = s.power.next := by
  unfold State.wakeWaited State.wakeForImage
  rw [if_neg (Classical.not_not.mpr h)]
  split
  · exact ⟨h, rfl, rfl⟩
  · generalize State.asleepIn _ _ = ds
    have hkeeps : ∀ {α : Type} (g : Power → α) (t : State), (∀ (s : State) d, g (s.wakeDomain d).power = g s.power) →
        g (ds.foldl State.wakeDomain t).power = g t.power := fun g t hg => foldl_fixes (fun s : State => g s.power) (fun t x => hg t x) ds t
    exact ⟨(hkeeps Power.phase _ fun _ _ => rfl).trans h, hkeeps Power.reqs _ fun _ _ => rfl, hkeeps Power.next _ fun _ _ => rfl⟩

section
variable {s : State} (h : s.rf 0x3104 0 2 ≠ 0)
include h

theorem State.wakeReserves_asleep : s.wakeReserves = s :=
  foldl_invariant (· = s) (fun t x ht => by
    subst ht
    exact if_neg fun hw => h hw.2.1) _ rfl

theorem State.wakeWaited_asleep (hphase : s.power.phase = 0) :
    s.wakeWaited = { s with power := { s.power with admitWake := 0 } } := by
  unfold State.wakeWaited State.wakeForImage
  rw [if_neg (Classical.not_not.mpr hphase)]
  exact if_pos h

end

/-- Settles O57: the branches of PWR_REQ, of the idle timers, of the handshake and of the commit. -/
theorem sleepEntry : Obligations.SleepEntry := by
  intro s q t d
  refine ⟨fun hreach => ?_, fun hup => ?_⟩
  · have hexec := exec_pwrReq t hreach
    refine ⟨fun hq => ?_, fun hq h0 => ?_, fun hq h0 hmoving => ?_, fun hq h0 hmoving hle => ?_, fun hq hmoving hlt => ?_⟩
    · rw [hexec, if_pos hq]
    all_goals rw [hexec, if_neg (Classical.not_not.mpr hq)]
    · rw [State.writePwrReq_s0 h0]
    · rw [State.writePwrReq_waits h0 hmoving]
    · rw [State.writePwrReq_shallow h0 hmoving hle]
    · rw [State.writePwrReq_begins hmoving hlt]
  · have hact : ∀ f : State → State, (s.act f) = .next (f s).done := State.act_up hup
    have hidle : exec (.idleExpiry d) s = .next (s.idleExpiry d.val).done := by
      show (s.act fun s => s.idleExpiry d.val) = _
      rw [hact]
    have hagree : exec .agree s = .next s.agreeCmd.done := by
      show (s.act State.agreeCmd) = _
      rw [hact]
    have hstop : exec .stopWaitExpiry s = .next s.stopWaitCmd.done := by
      show (s.act State.stopWaitCmd) = _
      rw [hact]
    have hentered : exec .entered s = .next s.entered.done := by
      show (s.act State.entered) = _
      rw [hact]
    refine ⟨fun hdue => ?_, fun hdue hmoving hno => ?_, fun hdue hmoving => ?_, fun hdue hmoving hthere => ?_,
      fun n rest hphase hask => ?_, ?_⟩
    · rw [hidle, State.idleExpiry, if_pos (by simp [hdue])]
    · rw [hidle, State.idleExpiry, if_neg (by simp [hdue]), if_pos hmoving, if_neg (Bool.eq_false_iff.mp hno)]
    · rw [hidle, State.idleExpiry, if_neg (by simp [hdue]), if_neg (by simp [hmoving]), State.idleGo, if_pos hdue]
      rfl
    · rw [hidle, State.idleExpiry, if_neg (by simp [hdue]), if_pos hmoving, if_pos hthere]
    · intro failed
      refine ⟨fun hf => ?_, fun hf hbusy => ?_, fun hf hbusy => ?_, ?_⟩
      · rw [hagree, State.agreeCmd, State.agree_failed hphase hask hf]
      · rw [hagree, State.agreeCmd, State.agree_busy hphase hask hf hbusy]
      · rw [hagree, State.agreeCmd, State.agree_stopped hphase hask hf hbusy]
      · intro late
        refine ⟨fun hlate => ?_, fun hlate => ?_⟩
        · rw [hstop, State.stopWaitCmd, State.stopWait_asked hphase hask, if_pos hlate]
        · rw [hstop, State.stopWaitCmd, State.stopWait_asked hphase hask, if_neg hlate]
    · intro waits
      refine ⟨fun h => ?_, fun hphase hwaits => ⟨s.entered, hentered, fun hlatch hreqs hnext => ?_⟩⟩
      · rw [hentered, State.entered, if_pos h]
      · have hnw : s.NothingWaits s.power.slept := ⟨hlatch, hreqs, hnext, rfl⟩
        obtain ⟨_, hreqs', hnext', hslept⟩ := hnw.committed
        have hphase' := hnw.committed_phase
        obtain ⟨hwphase, hwreqs, hwnext⟩ := s.committed.wakeReserves_power
        obtain ⟨hvphase, hvreqs, hvnext⟩ := State.wakeWaited_power (hwphase.trans hphase')
        have heq : s.entered = s.committed.wakeReserves.wakeWaited := by
          rw [State.entered_eq hphase hwaits]
          exact State.resume_of_none (hvreqs.trans (hwreqs.trans hreqs')) (hvnext.trans (hwnext.trans hnext'))
        refine ⟨by rw [heq]; exact hvphase, fun h1 h3 => ?_⟩
        have ht : s.power.target ≠ 0 := by omega
        have hstat := hnw.committed_stat h1 h3
        have hasleep : s.committed.rf 0x3104 0 2 ≠ 0 := by omega
        rw [if_neg ht] at hslept
        rw [heq, State.wakeReserves_asleep hasleep, State.wakeWaited_asleep hasleep hphase']
        refine ⟨hstat, hslept, fun n hmem _ hfailed hgoes => ?_⟩
        exact (hnw.committed_domain n).trans (State.domain_domainsDown ht hmem hfailed hgoes)

end Sys2Proof.Machine
end

section
/-! ## Commands of a loop channel and of a lane profile (rules R286, R298, R302, R305, R308, R311, R312, R316, R318) -/

namespace Sys2Proof.Machine

theorem pageAt_loop (c : Fin 32) : pageAt (Page.base (.loop c.val)) = some (.loop c.val) := by
  revert c
  decide

theorem pageAt_lane (n : Fin 9) : pageAt (Page.base (.lane n.val)) = some (.lane n.val) := by
  revert n
  decide

theorem lane_base (n : Fin 9) : Page.base (.lane n.val) = 0x30000 + 0x1000 * n.val := by
  revert n
  decide

/-- A write of CMD reaches the channel with the bits that the register has. -/
theorem State.serveWrite_loopCmd (s : State) (r : Requester) (c : Nat) (v : Word) :
    s.serveWrite r (.loop c) 0x170 v = s.loopWrite r c 0x170 (v &&& 0xFF) := rfl

theorem exec_loopCmd {s : State} {r : Requester} {c : Fin 32} {i : Instr} {v : Word} (h : Reaches s r (loopBase c.val + 0x170) true)
    (hi : exec i s = s.act fun s => s.regWrite r (wordAccess (loopBase c.val + 0x170)) v) (hv : v &&& 0xFF = v) :
    exec i s = .next ((s.loopWrite r c.val 0x170 v).2.respond r (s.loopWrite r c.val 0x170 v).1 0).done := by
  rw [hi]
  show (s.act fun s => s.regWrite r (wordAccess (Page.base (.loop c.val) + 0x170)) v) = _
  rw [act_pageWrite v (by decide) (pageAt_loop c) h, s.serveWrite_loopCmd, hv]

section
variable (s : State) (c : Nat)

/-- CMD is refused for INJ_START alone, where no injection may start (rule R318). -/
theorem State.loopRefuses_cmd (v : Word) : s.loopRefuses c 0x170 v = (bit v 3 && !(fld (s.lstored c 0x600) 0 2 != 0 &&
    (s.loopState c == 2 || (s.loopState c == 1 && bit (s.lstored c 0x600) 2)))) := by
  simp [State.loopRefuses]

theorem State.loopWrite_other {r : Requester} (h : r ≠ .mgmt) (off : Nat) (v : Word) : s.loopWrite r c off v = (cARG, s) :=
  if_pos (.inl h)

theorem State.loopWrite_refused {off : Nat} {v : Word} (h : s.loopRefuses c off v = true) (r : Requester) :
    s.loopWrite r c off v = (cARG, s) := if_pos (.inr h)

variable {v : Word} (hv : s.loopRefuses c 0x170 v = false)
include hv

theorem State.loopWrite_cmd : s.loopWrite .mgmt c 0x170 v =
    let t := if bit v 5 then s.traceArm c else s
    if t.lmode c = 0 ∧ t.loopLost c = false then (cOK, t.loopCmd c v)
    else (cOK, t.setLoop c { t.loop c with waiting := (t.loop c).waiting ++ [.write 0x170 v] }) := by
  rw [State.loopWrite, if_neg (by simp [hv])]
  simp only [true_and, Bool.not_eq_true']
  rfl

theorem State.loopWrite_now (h5 : bit v 5 = false) (hoff : s.lmode c = 0 ∧ s.loopLost c = false) :
    s.loopWrite .mgmt c 0x170 v = (cOK, s.loopCmd c v) := by
  rw [s.loopWrite_cmd c hv, h5]
  exact if_pos hoff

theorem State.loopWrite_later (h5 : bit v 5 = false) (hoff : ¬ (s.lmode c = 0 ∧ s.loopLost c = false)) : s.loopWrite .mgmt c 0x170 v =
    (cOK, s.setLoop c { s.loop c with waiting := (s.loop c).waiting ++ [.write 0x170 v] }) := by
  rw [s.loopWrite_cmd c hv, h5]
  exact if_neg hoff

end

/-- The commands of CMD that wait for the sample boundary outside OFF, by their bits. -/
def loopRows (r : Requester) (c : Fin 32) : List (Nat × Instr) :=
  [(0, .oscClr r c), (1, .repClr r c), (2, .planClr r c), (4, .injStop r c), (6, .trackLatch r c), (7, .stopRel r c)]

theorem exec_loopRow {r : Requester} {c : Fin 32} {p : Nat × Instr} (hp : p ∈ loopRows r c) : p.1 < 8 ∧ p.1 ≠ 3 ∧ p.1 ≠ 5 ∧
    ∀ s, exec p.2 s = s.act fun s => s.regWrite r (wordAccess (loopBase c.val + 0x170)) (w32 (2 ^ p.1)) := by
  simp only [loopRows, List.mem_cons, List.not_mem_nil, or_false] at hp
  rcases hp with rfl | rfl | rfl | rfl | rfl | rfl
  all_goals exact ⟨by simp, by simp, by simp, fun _ => rfl⟩

theorem bits_cmd {b : Nat} (h : b < 8) (h3 : b ≠ 3) (h5 : b ≠ 5) :
    bit (w32 (2 ^ b)) 3 = false ∧ bit (w32 (2 ^ b)) 5 = false ∧ w32 (2 ^ b) &&& 0xFF = w32 (2 ^ b) := by
  revert h h3 h5 b
  decide

theorem bit_cmd {b i : Nat} (hb : b < 8) (hi : i < 8) : bit (w32 (2 ^ b)) i = decide (b = i) := by
  have hall : ∀ b i : Fin 8, bit (w32 (2 ^ b.val)) i.val = decide (b.val = i.val) := by decide
  exact hall ⟨b, hb⟩ ⟨i, hi⟩

/-- What the command of bit `b` does, but for INJ_START. -/
def State.loopOnly (s : State) (c b : Nat) : State :=
  if b = 0 then s.oscClear c
  else if b = 1 then s.setLoop c { s.loop c with mem := [], j := 0 }
  else if b = 2 then s.setLoop c { s.loop c with plan := none, pastEnd := false }
  else if b = 4 then s.injEnd c
  else if b = 6 then (s.setReg (loopBase c + 0x140) (s.lreg c 0x180)).loopMode c 1
  else if b = 7 then s.stopRelease c else s

theorem State.loopOnly_oscClr (s : State) (c : Nat) : s.loopOnly c 0 = s.oscClear c := by
  rw [State.loopOnly, if_pos rfl]

theorem State.loopOnly_repClr (s : State) (c : Nat) : s.loopOnly c 1 = s.setLoop c { s.loop c with mem := [], j := 0 } := by
  rw [State.loopOnly, if_neg (by decide), if_pos rfl]

theorem State.loopOnly_planClr (s : State) (c : Nat) : s.loopOnly c 2 = s.setLoop c { s.loop c with plan := none, pastEnd := false } := by
  rw [State.loopOnly, if_neg (by decide), if_neg (by decide), if_pos rfl]

theorem State.loopOnly_injStop (s : State) (c : Nat) : s.loopOnly c 4 = s.injEnd c := by
  rw [State.loopOnly, if_neg (by decide), if_neg (by decide), if_neg (by decide), if_pos rfl]

theorem State.loopOnly_trackLatch (s : State) (c : Nat) : s.loopOnly c 6 = (s.setReg (loopBase c + 0x140) (s.lreg c 0x180)).loopMode c 1 := by
  rw [State.loopOnly, if_neg (by decide), if_neg (by decide), if_neg (by decide), if_neg (by decide), if_pos rfl]

theorem State.loopOnly_stopRel (s : State) (c : Nat) : s.loopOnly c 7 = s.stopRelease c := by
  rw [State.loopOnly, if_neg (by decide), if_neg (by decide), if_neg (by decide), if_neg (by decide), if_neg (by decide), if_pos rfl]

/-- A command of CMD acts alone (rule R320). -/
theorem State.loopCmd_single (s : State) (c : Nat) {b : Nat} (hb : b < 8) (h3 : b ≠ 3) : s.loopCmd c (w32 (2 ^ b)) = s.loopOnly c b := by
  unfold State.loopCmd
  rw [bit_cmd hb (by decide : 0 < 8), bit_cmd hb (by decide : 1 < 8), bit_cmd hb (by decide : 2 < 8), bit_cmd hb (by decide : 3 < 8),
    bit_cmd hb (by decide : 4 < 8), bit_cmd hb (by decide : 6 < 8), bit_cmd hb (by decide : 7 < 8)]
  have hcases : b = 0 ∨ b = 1 ∨ b = 2 ∨ b = 4 ∨ b = 5 ∨ b = 6 ∨ b = 7 := by omega
  rcases hcases with rfl | rfl | rfl | rfl | rfl | rfl | rfl <;> rfl

theorem State.loopCmd_accepted (s : State) (c : Nat) {v : Word} (h : bit v 3 = false) : s.loopRefuses c 0x170 v = false := by
  rw [s.loopRefuses_cmd c v, h, Bool.false_and]

section
variable {s : State} {r : Requester} {c : Fin 32} (h : Reaches s r (loopBase c.val + 0x170) true)
include h

theorem exec_loopRow_other (hr : r ≠ .mgmt) {p : Nat × Instr} (hp : p ∈ loopRows r c) :
    exec p.2 s = .next (s.respond r cARG 0).done := by
  obtain ⟨hlt, h3, h5, hexec⟩ := exec_loopRow hp
  obtain ⟨_, _, hmask⟩ := bits_cmd hlt h3 h5
  rw [exec_loopCmd h (hexec s) hmask, s.loopWrite_other c.val hr]

theorem exec_loopRow_later (hr : r = .mgmt) (hoff : ¬ (s.lmode c.val = 0 ∧ s.loopLost c.val = false)) {p : Nat × Instr}
    (hp : p ∈ loopRows r c) : exec p.2 s = .next ((s.setLoop c.val { s.loop c.val with
      waiting := (s.loop c.val).waiting ++ [.write 0x170 (w32 (2 ^ p.1))] }).respond r cOK 0).done := by
  subst hr
  obtain ⟨hlt, h3, h5, hexec⟩ := exec_loopRow hp
  obtain ⟨hb3, hb5, hmask⟩ := bits_cmd hlt h3 h5
  rw [exec_loopCmd h (hexec s) hmask, s.loopWrite_later c.val (s.loopCmd_accepted c.val hb3) hb5 hoff]

theorem exec_loopRow_now (hr : r = .mgmt) (hoff : s.lmode c.val = 0 ∧ s.loopLost c.val = false) {p : Nat × Instr}
    (hp : p ∈ loopRows r c) {u : State} (hu : s.loopOnly c.val p.1 = u) : exec p.2 s = .next (u.respond r cOK 0).done := by
  subst hr
  obtain ⟨hlt, h3, h5, hexec⟩ := exec_loopRow hp
  obtain ⟨hb3, hb5, hmask⟩ := bits_cmd hlt h3 h5
  rw [exec_loopCmd h (hexec s) hmask, s.loopWrite_now c.val (s.loopCmd_accepted c.val hb3) hb5 hoff, s.loopCmd_single c.val hlt h3, hu]

theorem exec_trArm_now (hr : r = .mgmt) (hoff : s.lmode c.val = 0 ∧ s.loopLost c.val = false) :
    exec (.trArm r c) s = .next ((s.traceArm c.val).respond r cOK 0).done := by
  subst hr
  have hcmd : s.loopWrite .mgmt c.val 0x170 0x20 = (cOK, s.traceArm c.val) := by
    rw [s.loopWrite_cmd c.val (s.loopCmd_accepted c.val rfl)]
    exact if_pos hoff
  rw [exec_loopCmd h (v := 0x20) rfl (by decide), hcmd]

theorem exec_trArm_later (hr : r = .mgmt) (hoff : ¬ (s.lmode c.val = 0 ∧ s.loopLost c.val = false)) :
    let t := s.traceArm c.val
    exec (.trArm r c) s = .next ((t.setLoop c.val { t.loop c.val with
      waiting := (t.loop c.val).waiting ++ [.write 0x170 0x20] }).respond r cOK 0).done := by
  subst hr
  intro t
  have hcmd : s.loopWrite .mgmt c.val 0x170 0x20 =
      (cOK, t.setLoop c.val { t.loop c.val with waiting := (t.loop c.val).waiting ++ [.write 0x170 0x20] }) := by
    rw [s.loopWrite_cmd c.val (s.loopCmd_accepted c.val rfl)]
    exact if_neg hoff
  rw [exec_loopCmd h (v := 0x20) rfl (by decide), hcmd]

theorem exec_injStart : exec (.injStart r c) s =
    .next ((s.loopWrite r c.val 0x170 8).2.respond r (s.loopWrite r c.val 0x170 8).1 0).done :=
  exec_loopCmd h (v := 8) rfl (by decide)

end

/-- INJ_START is accepted with an injection configured, in a state that it may act in (rule R318). -/
theorem State.loopRefuses_injStart (s : State) (c : Nat) : s.loopRefuses c 0x170 8 = false ↔
    fld (s.lstored c 0x600) 0 2 ≠ 0 ∧ (s.loopState c = 2 ∨ (s.loopState c = 1 ∧ bit (s.lstored c 0x600) 2 = true)) := by
  have h3 : bit (8 : Word) 3 = true := rfl
  rw [s.loopRefuses_cmd c 8, h3]
  simp only [Bool.true_and, Bool.not_eq_false', Bool.and_eq_true, bne_iff_ne, Bool.or_eq_true, beq_iff_eq]

/-! A profile threshold commits both halves together (rules R103, R286). -/

section
variable {s : State} {r : Requester} {n : Fin 9} {p t : Fin 4}

theorem exec_profileThreshold (v : Word) (h : Reaches s r (0x30000 + 0x1000 * n.val + 0x204 + 32 * p.val + 8 * t.val) true) :
    let off := 0x204 + 32 * p.val + 8 * t.val
    exec (.profileThresholdCommit r n p t v) s =
      .next ((s.writeProfile r n.val off v).2.respond r (s.writeProfile r n.val off v).1 0).done := by
  intro off
  have hoff : 0x204 ≤ off ∧ off < 0x280 := by omega
  have haddr : 0x30000 + 0x1000 * n.val + 0x204 + 32 * p.val + 8 * t.val = Page.base (.lane n.val) + off := by
    rw [lane_base n]
    omega
  have hserve : s.serveWrite r (.lane n.val) off v = s.writeProfile r n.val off v := by
    show (if off < 0x100 then s.writeHeader (.lane n.val) off v else s.writeLane r n.val off v) = _
    rw [if_neg (by omega), State.writeLane, if_pos (by omega)]
  have haccess : Page.base (.lane n.val) + 0x204 + 32 * p.val + 8 * t.val = Page.base (.lane n.val) + off := by omega
  show (s.act fun s => s.regWrite r (wordAccess (Page.base (.lane n.val) + 0x204 + 32 * p.val + 8 * t.val)) v) = _
  rw [haccess, act_pageWrite v (by omega) (pageAt_lane n) (haddr ▸ h), hserve]

end

/-- A threshold's halves commit together, if they make a number that a threshold may be (rule R286). -/
def State.commitHalves (s : State) (a : Nat) (v : Word) : Nat × State :=
  let lo := (s.half .mgmt (a - 4)).getD (s.reg (a - 4))
  let x := v.toNat * 2 ^ 32 + lo.toNat
  if 0x7FF0000000000000 < x % 2 ^ 63 ∨ 2 ^ 63 < x then (cARG, s.setHalf .mgmt (a - 4) none)
  else (cOK, ((s.setHalf .mgmt (a - 4) none).setReg (a - 4) lo).setReg a v)

theorem State.writeProfile_other (s : State) {r : Requester} (n : Nat) (h : r ≠ .mgmt) (off : Nat) (v : Word) :
    s.writeProfile r n off v = (cARG, s) := if_pos h

theorem State.writeProfile_high (s : State) (n : Nat) {off a : Nat} (hodd : off % 8 ≠ 0) (ha : Page.base (.lane n) + off = a) (v : Word) :
    s.writeProfile .mgmt n off v = s.commitHalves a v := by
  subst ha
  rw [State.writeProfile, if_neg (by decide), if_neg hodd]
  rfl

theorem profileAddr (n : Fin 9) (p t : Fin 4) : Page.base (.lane n.val) + (0x204 + 32 * p.val + 8 * t.val) =
    0x30000 + 0x1000 * n.val + 0x204 + 32 * p.val + 8 * t.val := by
  rw [lane_base n]
  omega

/-- Settles O40: CMD of a channel, and the thresholds of a profile. -/
theorem loopCommands : Obligations.LoopCommands := by
  intro s r c
  refine ⟨fun h => ?_, fun n p t v => ?_⟩
  · intro o rows later off
    have hstart := exec_injStart h
    refine ⟨fun hr => ⟨fun p hp => exec_loopRow_other h hr hp, ?_, ?_⟩, fun hr hoff => ⟨fun p hp => exec_loopRow_later h hr hoff hp, ?_⟩,
      fun hr hoff => ?_, fun hr => ?_⟩
    · rw [exec_loopCmd h (i := .trArm r c) (v := 0x20) rfl (by decide), s.loopWrite_other c.val hr]
    · rw [hstart, s.loopWrite_other c.val hr]
    · exact exec_trArm_later h hr hoff
    · refine ⟨?_, ?_, ?_, ?_, ?_, ?_, exec_trArm_now h hr hoff⟩
      · exact exec_loopRow_now h hr hoff (p := (0, .oscClr r c)) (by simp [loopRows]) (s.loopOnly_oscClr c.val)
      · exact exec_loopRow_now h hr hoff (p := (1, .repClr r c)) (by simp [loopRows]) (s.loopOnly_repClr c.val)
      · exact exec_loopRow_now h hr hoff (p := (2, .planClr r c)) (by simp [loopRows]) (s.loopOnly_planClr c.val)
      · exact exec_loopRow_now h hr hoff (p := (4, .injStop r c)) (by simp [loopRows]) (s.loopOnly_injStop c.val)
      · exact exec_loopRow_now h hr hoff (p := (6, .trackLatch r c)) (by simp [loopRows]) (s.loopOnly_trackLatch c.val)
      · exact exec_loopRow_now h hr hoff (p := (7, .stopRel r c)) (by simp [loopRows]) (s.loopOnly_stopRel c.val)
    · subst hr
      intro k may
      refine ⟨fun hmay hoff => ?_, fun hmay => ?_⟩
      · rw [hstart, s.loopWrite_later c.val ((s.loopRefuses_injStart c.val).mpr hmay) rfl hoff]
        rfl
      · rw [hstart, s.loopWrite_refused c.val (Bool.not_eq_false _ |>.mp (mt (s.loopRefuses_injStart c.val).mp hmay))]
  · intro a lo x h
    have hexec := exec_profileThreshold v h
    have hodd : (0x204 + 32 * p.val + 8 * t.val) % 8 ≠ 0 := by omega
    refine ⟨fun hr => ?_, fun hr hbad => ?_, fun hr h1 h2 => ?_⟩
    · rw [hexec, s.writeProfile_other n.val hr]
    all_goals subst hr
    all_goals rw [hexec, s.writeProfile_high n.val hodd (profileAddr n p t), State.commitHalves]
    · rw [if_pos hbad]
    · rw [if_neg (show ¬ (0x7FF0000000000000 < x % 2 ^ 63 ∨ 2 ^ 63 < x) by omega)]

end Sys2Proof.Machine
end

section
/-! ## A sample of a loop channel (rules R288–R291, R297, R298, R303, R309) -/

namespace Sys2Proof.Machine

/-! ### The vote of three active replicas -/

theorem ones_three : ones 3 7 = [0, 1, 2] := rfl

section
variable {s : State} {c : Nat} (hrep : s.replicas c = 7) (l : Law) (h : Happened)
include hrep

theorem State.loopVote_agreed : s.loopVote c [some l, some l, some l] h =
    (s.setLoop c { s.loop c with busy := none }).loopCommit c l { h with retire := false } := by
  unfold State.loopVote
  simp [hrep, ones_three]

theorem State.loopVote_first {w : Law} (hbad : w.words ≠ l.words) : s.loopVote c [some w, some l, some l] h =
    ((s.setLoop c { s.loop c with busy := none }).loopCommit c l { h with retire := true }).loopRetire c 0 := by
  unfold State.loopVote
  simp [hrep, ones_three, hbad, Ne.symm hbad]

theorem State.loopVote_late : s.loopVote c [some l, none, some l] h =
    ((s.setLoop c { s.loop c with busy := none }).loopCommit c l { h with retire := true }).loopRetire c 1 := by
  unfold State.loopVote
  simp [hrep, ones_three]

theorem State.loopVote_alone : s.loopVote c [none, none, some l] h =
    (s.setLoop c { s.loop c with busy := none }).loopMiss c 0 h := by
  unfold State.loopVote
  simp [hrep, ones_three]

theorem State.loopVote_apart {x y z : Law} (hxy : x.words ≠ y.words) (hyz : y.words ≠ z.words) (hxz : x.words ≠ z.words) :
    s.loopVote c [some x, some y, some z] h =
      ((s.setLoop c { s.loop c with busy := none }).loopLose c).traceStep c { h with retire := true } false := by
  unfold State.loopVote
  simp [hrep, ones_three, hxy, hyz, hxz, hxy.symm, hyz.symm, hxz.symm]

end

/-- Without a result, the sample misses, however many replicas are active. -/
theorem State.loopVote_none (s : State) (c : Nat) (h : Happened) :
    s.loopVote c [none, none, none] h = (s.setLoop c { s.loop c with busy := none }).loopMiss c 0 h := by
  have hdone : (ones 3 (s.replicas c)).filterMap (fun k => ([none, none, none].getD k (none : Option Law)).map fun l => (k, l)) = [] := by
    refine List.filterMap_eq_nil_iff.mpr fun k _ => ?_
    rcases k with _ | _ | _ | k <;> rfl
  unfold State.loopVote
  dsimp only
  rw [hdone]
  simp
  intro h0 h2
  omega

/-! ### What the commit shows -/

theorem foldl_invariant_mem {σ α : Type} (P : σ → Prop) {f : σ → α → σ} (l : List α) (h : ∀ x ∈ l, ∀ s, P s → P (f s x)) {s : σ} (hs : P s) :
    P (l.foldl f s) := by
  induction l generalizing s with
  | nil => exact hs
  | cons x l ih =>
    obtain ⟨hx, hl⟩ := List.forall_mem_cons.mp h
    exact ih hl (hx s hs)

/-- U_OUT, the error and the count of samples are `u`, `e` and `n`, and no sample of the channel is in progress. -/
def State.Committed (c : Nat) (u e n : Word) (t : State) : Prop :=
  t.reg (loopBase c + 0x180) = u ∧ t.reg (loopBase c + 0x188) = e ∧ t.reg (loopBase c + 0x198) = n ∧ (t.loop c).busy = none

namespace State.Committed

variable {c : Nat} {u e n : Word} {t t' : State}

theorem setReg (h : t.Committed c u e n) {a : Nat} (ha : a ≠ loopBase c + 0x180 ∧ a ≠ loopBase c + 0x188 ∧ a ≠ loopBase c + 0x198) (v : Word) :
    (t.setReg a v).Committed c u e n := by
  obtain ⟨h1, h2, h3, h4⟩ := h
  obtain ⟨ha1, ha2, ha3⟩ := ha
  exact ⟨(State.reg_setReg_ne _ _ ha1.symm).trans h1, (State.reg_setReg_ne _ _ ha2.symm).trans h2,
    (State.reg_setReg_ne _ _ ha3.symm).trans h3, h4⟩

theorem setLoop (h : t.Committed c u e n) {x : LoopSt} (hx : x.busy = none) : (t.setLoop c x).Committed c u e n := by
  obtain ⟨h1, h2, h3, _⟩ := h
  exact ⟨h1, h2, h3, by rw [State.loop_setLoop_self]; exact hx⟩

theorem intRaise (h : t.Committed c u e n) (i : Nat) : (t.intRaise (.loop c) i).Committed c u e n :=
  h.setReg (a := loopBase c + 0x14) (by omega) _

theorem lastCode (h : t.Committed c u e n) (code : Nat) : (t.lastCode (.loop c) code).Committed c u e n := by
  unfold State.lastCode
  split
  · exact h
  · exact h.setReg (a := loopBase c + 0x10) (by omega) _

theorem ite {p : Prop} [Decidable p] (ht : t.Committed c u e n) (ht' : t'.Committed c u e n) : (if p then t else t').Committed c u e n := by
  split
  · exact ht
  · exact ht'

theorem injEnd (h : t.Committed c u e n) : (t.injEnd c).Committed c u e n :=
  ite ((h.setLoop (by exact h.2.2.2)).intRaise 9) h

theorem traceStep (h : t.Committed c u e n) (w : Happened) (miss : Bool) : (t.traceStep c w miss).Committed c u e n := by
  unfold State.traceStep
  extract_lets x tr cfg hit fire sel learn node recs left on last tr' s
  refine ite h (ite (h.setLoop (by exact h.2.2.2)) ?_)
  have hs : s.Committed c u e n := h.setLoop (by exact h.2.2.2)
  exact ite (hs.intRaise 10) hs

theorem pwmDuty (h : t.Committed c u e n) (_hc : c < 32) {k : Nat} (hk : k < 24) (v : Nat) : (t.pwmDuty k v).Committed c u e n := by
  have hbase := loopBase_eq c
  have haddr : pwmBase k + 8 ≠ loopBase c + 0x180 ∧ pwmBase k + 8 ≠ loopBase c + 0x188 ∧ pwmBase k + 8 ≠ loopBase c + 0x198 := by
    unfold pwmBase
    split at hbase <;> omega
  have hset := h.setReg haddr (w32 (v % 2 ^ 24))
  unfold State.pwmDuty
  dsimp only
  split
  · exact hset
  · exact hset

theorem loopDuty (h : t.Committed c u e n) (hc : c < 32) (duty : Nat) : (t.loopDuty c duty).Committed c u e n := by
  refine foldl_invariant_mem (State.Committed c u e n) _ (fun k hk s hs => ?_) h
  exact ite (hs.pwmDuty hc (List.mem_range.mp hk) duty) hs

end State.Committed

/-- The channel's registers and state of a committed sample (rule R297). -/
theorem State.loopCommit_committed (s : State) {c : Nat} (hc : c < 32) (l : Law) (h : Happened) :
    (s.loopCommit c l h).Committed c (i32 l.u) (i32 l.e) (s.reg (loopBase c + 0x198) + 1) := by
  have hhead : ∀ x : LoopSt, x.busy = none →
      (((((s.setLoop c x).setReg (loopBase c + 0x180) (i32 l.u)).setReg (loopBase c + 0x188) (i32 l.e)).bumpWrap
        (loopBase c + 0x198) 1)).Committed c (i32 l.u) (i32 l.e) (s.reg (loopBase c + 0x198) + 1) := by
    intro x hx
    refine ⟨?_, ?_, ?_, ?_⟩
    · rw [State.reg_bumpWrap_ne _ (by omega), State.reg_setReg_ne _ _ (by omega), State.reg_setReg_self]
    · rw [State.reg_bumpWrap_ne _ (by omega), State.reg_setReg_self]
    · rw [State.bumpWrap, State.reg_setReg_self, State.reg_setReg_ne _ _ (by omega), State.reg_setReg_ne _ _ (by omega)]
      rfl
    · exact (congrArg LoopSt.busy (State.loop_setLoop_self s c x)).trans hx
  have hraise : ∀ {t : State} (i : Nat) (p : Prop) [Decidable p], t.Committed c (i32 l.u) (i32 l.e) (s.reg (loopBase c + 0x198) + 1) →
      (if p then t.intRaise (.loop c) i else t).Committed c (i32 l.u) (i32 l.e) (s.reg (loopBase c + 0x198) + 1) :=
    fun i _ _ ht => .ite (ht.intRaise i) ht
  unfold State.loopCommit
  extract_lets b u nodes x held started counted driven limited limiting pastEnd tripped injected ended
  have hcounted : counted.Committed c (i32 l.u) (i32 l.e) (s.reg (loopBase c + 0x198) + 1) := hhead _ rfl
  have hdriven : driven.Committed c (i32 l.u) (i32 l.e) (s.reg (loopBase c + 0x198) + 1) := by
    show State.Committed c _ _ _ (match l.duty with | some d => counted.loopDuty c d | none => counted)
    cases l.duty with
    | none => exact hcounted
    | some d => exact hcounted.loopDuty hc d
  have hlimited : limited.Committed c (i32 l.u) (i32 l.e) (s.reg (loopBase c + 0x198) + 1) :=
    .ite (hdriven.setReg (a := loopBase c + 0x1A4) (by omega) _) hdriven
  have hlimiting : limiting.Committed c (i32 l.u) (i32 l.e) (s.reg (loopBase c + 0x198) + 1) :=
    .ite (((hlimited.setReg (a := loopBase c + 0x10) (by omega) _).intRaise 1).lastCode _) hlimited
  have hpast := hraise 5 (l.pastNew = true) hlimiting
  have htripped : tripped.Committed c (i32 l.u) (i32 l.e) (s.reg (loopBase c + 0x198) + 1) := .ite ((hpast.intRaise 4).lastCode _) hpast
  have hinjected := hraise 9 (l.injDone = true) htripped
  exact (State.Committed.ite hinjected.injEnd hinjected).traceStep _ _

/-! ### The commands -/

theorem exec_loopSample {s t : State} (hruns : Runs s 30) {c : Fin 32} {a b d : Replica} (h : s.loopSample c.val a b d = t) :
    exec (.loopSample c a b d) s = .next t.done := by
  show (s.actIn 30 fun st => st.loopSample c.val a b d) = _
  rw [State.actIn_runs hruns, h]

section
variable {s : State} {c : Nat} {q : Sample} (hbusy : (s.loop c).busy = some q)
include hbusy

theorem State.loopSample_late (hlate : s.pastDeadline c = true) (a b d : Replica) :
    s.loopSample c a b d = (s.setLoop c { s.loop c with busy := none }).loopMiss c 0 (s.happened c) := by
  unfold State.loopSample
  rw [hbusy]
  dsimp only
  rw [if_pos hlate, s.loopVote_none]

theorem State.loopSample_voted (hlate : s.pastDeadline c = false) (a b d : Replica) : s.loopSample c a b d =
    s.loopVote c [replicaOut a (s.sampleLaw c q), replicaOut b (s.sampleLaw c q), replicaOut d (s.sampleLaw c q)] (s.happened c) := by
  unfold State.loopSample
  rw [hbusy]
  dsimp only
  rw [if_neg (by simp [hlate])]

end

/-- Settles O37: the votes of three replicas, the deadline, and the plan that arrives. -/
theorem loopSamples : Obligations.LoopSamples := by
  intro s c x y z p hruns b o
  have hdeadline : exec (.sampleDeadline c) s = .next (s.loopDeadline c.val).done := by
    show (s.actIn 30 fun s => s.loopDeadline c.val) = _
    rw [State.actIn_runs hruns]
  have hplan : exec (.planReceive c p) s = .next (s.planArrives c.val p).done := by
    show (s.actIn 30 fun s => s.planArrives c.val p) = _
    rw [State.actIn_runs hruns]
  refine ⟨fun hbusy a b d => ?_, fun q hbusy => ?_, fun q t hbusy htrig => ?_, fun hlost => ?_, fun hlost hmode hstate => ?_,
    fun hlost hmode hstate => ?_, fun hlost hmode => ?_⟩
  · refine exec_loopSample hruns ?_
    rw [State.loopSample, show (s.loop c.val).busy = none from hbusy]
  · intro v h
    refine ⟨fun hlate a b d => ?_, fun hlate hrep => ?_⟩
    · exact exec_loopSample hruns (State.loopSample_late hbusy hlate a b d)
    · intro l bad ok
      have hvote := State.loopSample_voted hbusy hlate
      obtain ⟨hu, he, hn, hidle⟩ := v.loopCommit_committed c.isLt l { h with retire := false }
      refine ⟨?_, fun hbad => ⟨?_, ?_, ?_⟩, fun hxy hyz hxz => ?_, hu, he, hn, hidle⟩
      · exact exec_loopSample hruns ((hvote _ _ _).trans (State.loopVote_agreed hrep l h))
      · exact exec_loopSample hruns ((hvote _ _ _).trans (State.loopVote_first hrep l h hbad))
      · exact exec_loopSample hruns ((hvote _ _ _).trans (State.loopVote_late hrep l h))
      · exact exec_loopSample hruns ((hvote _ _ _).trans (State.loopVote_alone hrep (l.flip x) h))
      · exact exec_loopSample hruns ((hvote _ _ _).trans (State.loopVote_apart hrep h hxy hyz hxz))
  · have hdue : s.loopDeadline c.val = if t + 2 * s.lfld c.val 0x150 0 12 ≤ s.time.ns then
        (s.setLoop c.val { o with busy := none }).loopMiss c.val 0 (s.happened c.val) else s := by
      unfold State.loopDeadline
      dsimp only
      rw [show (s.loop c.val).busy = some q from hbusy, show (s.loop c.val).trigAt = some t from htrig]
    refine ⟨fun h => ?_, fun h => ?_⟩
    · rw [hdeadline, hdue, if_pos h]
    · rw [hdeadline, hdue, if_neg (Nat.not_le.mpr h)]
  · rw [hplan, State.planArrives, if_pos hlost]
  all_goals rw [hplan, State.planArrives, if_neg (by simp [hlost])]
  · rw [if_neg hmode, if_neg hstate]
  · rw [if_neg hmode, if_pos hstate]
  · rw [if_pos hmode, State.takePlan, if_neg (fun h => h.1 hmode)]

end Sys2Proof.Machine
end

section
/-! ## Failures of canal ports and links, plan links and pumps (rules R168–R170, R285, R451, R456, R457) -/

namespace Sys2Proof.Machine

/-- A canal port that fails, as it is noted before its unit is lost. -/
def State.portNoted (s : State) (n : Nat) : State :=
  (((s.setRm (nodeWord n) (setBit (s.rm (nodeWord n)) 0 true)).errCapture (nodePage n) cDEGRADED 5 0xFF 0).lastCode
    (nodePage n) cDEGRADED).pageEvent (nodePage n) 1 cDEGRADED 0xFF 0

section
variable {s : State} {n : Nat}

theorem State.portFail_again (h : bit (s.rm (nodeWord n)) 0 = true) : s.portFail n = s := if_pos h

variable (h : bit (s.rm (nodeWord n)) 0 = false)
include h

theorem State.portFail_eq : s.portFail n = match nodeUnit n with
    | some u => (s.portNoted n).retireUnit u cDEGRADED 5
    | none =>
      if n = 10 then (s.portNoted n).loseMap
      else ((List.range 32).filter fun p => pumpNode p == n).foldl State.losePump (s.portNoted n) := by
  rw [State.portFail, if_neg (by simp [h])]
  rfl

theorem State.portFail_unit {u : Nat} (hu : nodeUnit n = some u) : s.portFail n = (s.portNoted n).retireUnit u cDEGRADED 5 := by
  rw [State.portFail_eq h, hu]

theorem State.portFail_map (hn : n = 10) : s.portFail n = (s.portNoted n).loseMap := by
  have hunit : nodeUnit n = none := by rw [hn]; rfl
  rw [State.portFail_eq h, hunit]
  exact if_pos hn

theorem State.portFail_pumps (hn : n = 0 ∨ n = 11) :
    s.portFail n = ((List.range 32).filter fun p => pumpNode p == n).foldl State.losePump (s.portNoted n) := by
  have hunit : nodeUnit n = none := by rcases hn with rfl | rfl <;> rfl
  rw [State.portFail_eq h, hunit]
  exact if_neg (by omega)

end

section
variable {s : State} {p : Nat} {q : Running} (hrun : s.running (0x20 + p) = some q)
include hrun

theorem State.pumpDog_runs (time : Nat) : s.pumpDog p time =
    if 1000 * time ≤ 4 * (s.ctx q.head.c).compiled.pumpTerm q.head.desc then s
    else (s.tearDown q.head.c cTEARDOWN (EngClass.pump.lcn q.head.desc)).losePump p := by
  rw [State.pumpDog, hrun]

end

/-- Settles O35: what each failure notes and loses. -/
theorem linkFailures : Obligations.LinkFailures := by
  intro s n l p time d hup w page
  have hact : ∀ f : State → State, (s.act f) = .next (f s).done := State.act_up hup
  have hport : exec (.canalPortFail n) s = .next (s.portFail n.val).done := by
    show (s.act fun s => s.portFail n.val) = _
    rw [hact]
  have hlink : exec (.canalLinkFail n d) s = .next (s.linkFail n.val d).done := by
    show (s.act fun s => s.linkFail n.val d) = _
    rw [hact]
  have hplan : exec (.planLinkFail l) s = .next (s.planLinkFail l.val).done := by
    show (s.act fun s => s.planLinkFail l.val) = _
    rw [hact]
  refine ⟨fun h => ?_, fun h => ?_, ?_, ?_, fun hruns => ?_⟩
  · rw [hport, State.portFail_again h]
  · intro t
    refine ⟨fun u hu => ?_, fun hn => ?_, fun hn => ?_⟩
    · rw [hport, State.portFail_unit h hu]
      rfl
    · rw [hport, State.portFail_map h hn]
      rfl
    · rw [hport, State.portFail_pumps h hn]
      rfl
  · intro i
    refine ⟨fun h => ?_, fun h => ?_⟩
    · rw [hlink, State.linkFail]
      exact congrArg (fun t : State => Host.Outcome.next t.done) (if_pos h)
    · rw [hlink, State.linkFail]
      exact congrArg (fun t : State => Host.Outcome.next t.done) (if_neg (Bool.eq_false_iff.mp h))
  · intro u
    refine ⟨fun h => ?_, fun h => ?_⟩
    · rw [hplan, State.planLinkFail, if_pos h]
    · rw [hplan, State.planLinkFail, if_neg (Classical.not_not.mpr h)]
  · have hpump : exec (.pumpWatchdog p time) s = .next (s.pumpDog p.val time).done := by
      show (s.actIn 2 fun s => s.pumpDog p.val time) = _
      rw [State.actIn_runs ⟨hup, hruns⟩]
    refine ⟨fun hnone => ?_, fun q hrun => ?_⟩
    · rw [hpump, State.pumpDog, hnone]
    · intro worst
      refine ⟨fun hle => ?_, fun hlt => ?_⟩
      · rw [hpump, State.pumpDog_runs hrun, if_pos hle]
      · rw [hpump, State.pumpDog_runs hrun, if_neg (Nat.not_le.mpr hlt)]

end Sys2Proof.Machine
end

section
/-! ## LPDDR6 in service, and the clear of the grid map (rules R206, R207, R211–R215, R231) -/

namespace Sys2Proof.Machine

/-- The end of a command leaves a controller's counters (rules R50, R217). -/
theorem mc_notEndRegs (m : Fin 4) : ∀ off ∈ [8, 12, 0x24], mcCfg m.val + off ∉ endRegs := by
  revert m
  decide

theorem mc_base (m : Fin 4) : (Page.mc m.val).base = 0x60000 + 0x1000 * m.val := by
  revert m
  decide

/-! ### The patrol scrub -/

section
variable {s : State} {m : Nat}

theorem State.patrol_off (h : bit (s.reg (mcCfg m + 0x1C)) 0 = false ∨ s.runs (32 + m) = false) : s.patrol m [] = s := by
  have hoff : (bit (s.reg (mcCfg m + 0x1C)) 0 && s.runs (32 + m)) = false := by
    rcases h with h | h <;> simp [h]
  simp only [State.patrol, hoff, Bool.false_eq_true, if_false, List.foldl_nil]

variable (hen : bit (s.reg (mcCfg m + 0x1C)) 0 = true) (hruns : s.runs (32 + m) = true)
include hen hruns

theorem State.patrol_on : s.patrol m [] =
    ((s.mcLines m).foldl (fun s line => (s.readLine line none true).2) s).bumpWrap (mcCfg m + 0x24) 1 := by
  simp only [State.patrol, hen, hruns, Bool.and_self, if_true, List.foldl_nil]

theorem State.patrol_clean (hclean : s.dramBad = []) : s.patrol m [] = s.bumpWrap (mcCfg m + 0x24) 1 := by
  have hlines : s.mcLines m = [] := by rw [State.mcLines, hclean]; rfl
  rw [State.patrol_on hen hruns, hlines, List.foldl_nil]

/-- A line with one wrong byte is corrected and counted (rule R207). -/
theorem State.patrol_corrects {line : Nat} (hbad : s.dramBad = [(line, 1)]) (htop : 64 * line < s.memTop) (hchan : s.lineChan line / 2 = m) :
    s.patrol m [] = ((({ s with dramBad := [] }).bump (mcCfg m + 8 + 4 * (s.lineChan line % 2)) 1).intRaise (.mc m) 0).bumpWrap
      (mcCfg m + 0x24) 1 := by
  subst hchan
  have hlines : s.mcLines (s.lineChan line / 2) = [line] := by
    rw [State.mcLines, hbad]
    simp [htop]
  have hone : s.lineBad line = 1 := by
    rw [State.lineBad, hbad]
    simp [Cells.get]
  have hput : Cells.put 0 s.dramBad line 0 = [] := by
    rw [hbad]
    simp [Cells.put]
  have hread : (s.readLine line none true).2 =
      (({ s with dramBad := [] }).bump (mcCfg (s.lineChan line / 2) + 8 + 4 * (s.lineChan line % 2)) 1).intRaise (.mc (s.lineChan line / 2)) 0 := by
    simp only [State.readLine, hone, Nat.one_ne_zero, if_false, if_true, State.setLineBad, hput]
  rw [State.patrol_on hen hruns, hlines, List.foldl_cons, List.foldl_nil, hread]

end

/-! ### The clear of the grid map -/

theorem State.serveWrite_mapCtrl (s : State) (r : Requester) (v : Word) : s.serveWrite r .gmap 0x108 v = s.writeMapCtrl v := by
  show s.writeGmap 0x108 v = _
  simp only [State.writeGmap]

section
variable {s : State} {r : Requester} (evict : Bool)

theorem exec_mapClear (h : Reaches s r 0x64108 true) :
    exec (.mapClear r evict) s = .next ((s.writeMapCtrl (w32 (4 + 2 * evict.toNat))).2.respond r
      (s.writeMapCtrl (w32 (4 + 2 * evict.toNat))).1 0).done := by
  show (s.act fun s => s.regWrite r (wordAccess (Page.base .gmap + 0x108)) (w32 (4 + 2 * evict.toNat))) = _
  rw [act_pageWrite _ (by decide) (by decide) h, State.serveWrite_mapCtrl]

theorem mapClear_bits : bit (w32 (4 + 2 * evict.toNat)) 0 = false ∧ bit (w32 (4 + 2 * evict.toNat)) 2 = true ∧
    fld (w32 (4 + 2 * evict.toNat)) 0 2 = 2 * evict.toNat := by
  cases evict <;> decide

theorem State.writeMapCtrl_enabled (hen : bit (s.reg 0x64108) 0 = true) : s.writeMapCtrl (w32 (4 + 2 * evict.toNat)) = (cARG, s) := by
  obtain ⟨_, h2, _⟩ := mapClear_bits evict
  simp only [State.writeMapCtrl, h2, hen, Bool.and_self, if_true]

theorem State.writeMapCtrl_passes (hen : bit (s.reg 0x64108) 0 = false) (htop : s.memTop < s.mapBase + 2 ^ 27) :
    s.writeMapCtrl (w32 (4 + 2 * evict.toNat)) = (cBOUNDS, s) := by
  obtain ⟨h0, h2, _⟩ := mapClear_bits evict
  simp only [State.writeMapCtrl, h0, h2, hen, Bool.and_false, Bool.false_and, Bool.false_eq_true, if_false, true_and, htop, if_true]

theorem State.writeMapCtrl_clears (hen : bit (s.reg 0x64108) 0 = false) (htop : s.mapBase + 2 ^ 27 ≤ s.memTop) :
    s.writeMapCtrl (w32 (4 + 2 * evict.toNat)) =
      (cOK, (s.setRf 0x64108 0 2 (2 * evict.toNat)).mapZero.setRf 0x64108 3 1 1) := by
  obtain ⟨h0, h2, hf⟩ := mapClear_bits evict
  simp only [State.writeMapCtrl, h0, h2, hf, hen, Bool.and_false, Bool.false_and, Bool.false_eq_true, if_false, true_and,
    Nat.not_lt.mpr htop, if_true]

end

/-- The state that a clear of the map leaves. -/
def State.mapClearing (s : State) (evict : Bool) : State := (s.setRf 0x64108 0 2 (2 * evict.toNat)).mapZero.setRf 0x64108 3 1 1

theorem State.mapBase_setRf (s : State) (lo n v : Nat) : (s.setRf 0x64108 lo n v).mapBase = s.mapBase := by
  have h0 : (s.setRf 0x64108 lo n v).reg 0x64104 = s.reg 0x64104 := State.reg_setReg_ne _ _ (by decide)
  have h1 : (s.setRf 0x64108 lo n v).reg 0x64100 = s.reg 0x64100 := State.reg_setReg_ne _ _ (by decide)
  rw [State.mapBase, State.rf, h0, h1]
  rfl

section
variable (s : State) (evict : Bool)

theorem State.mapClearing_reg {a : Nat} (h : a ≠ 0x64108) (h0 : a ≠ 0x64110) (h1 : a ≠ 0x64114) : (s.mapClearing evict).reg a = s.reg a :=
  (State.reg_setReg_ne _ _ h).trans ((State.reg_setReg_ne _ _ h1).trans ((State.reg_setReg_ne _ _ h0).trans (State.reg_setReg_ne _ _ h)))

theorem State.mapClearing_counts : (s.mapClearing evict).reg 0x64110 = 0 ∧ (s.mapClearing evict).reg 0x64114 = 0 :=
  ⟨(State.reg_setReg_ne _ _ (by decide)).trans ((State.reg_setReg_ne _ _ (by decide)).trans (State.reg_setReg_self ..)),
    (State.reg_setReg_ne _ _ (by decide)).trans (State.reg_setReg_self ..)⟩

theorem State.mapClearing_ctrl :
    (s.mapClearing evict).reg 0x64108 = setFld (setFld (s.reg 0x64108) 0 2 (2 * evict.toNat)) 3 1 1 := by
  have hzero : ∀ t : State, t.mapZero.reg 0x64108 = t.reg 0x64108 := fun t =>
    (State.reg_setReg_ne _ _ (by decide)).trans (State.reg_setReg_ne _ _ (by decide))
  rw [State.mapClearing, State.reg_setRf_self, hzero, State.reg_setRf_self]

theorem State.mapClearing_byte (a : Nat) :
    (s.mapClearing evict).dram.byte a = if s.mapBase ≤ a ∧ a < s.mapBase + 2 ^ 27 then 0 else s.dram.byte a := by
  have hget := Cells.get_clear (0 : Byte) s.dram (s.setRf 0x64108 0 2 (2 * evict.toNat)).mapBase (2 ^ 27) a
  rw [State.mapBase_setRf] at hget
  have hclear : (s.mapClearing evict).dram = Cells.clear s.dram s.mapBase (2 ^ 27) := by
    rw [← State.mapBase_setRf s 0 2 (2 * evict.toNat)]
    rfl
  rw [Mem.byte, hclear, hget]
  by_cases hin : s.mapBase ≤ a ∧ a < s.mapBase + 2 ^ 27
  · rw [if_pos hin, if_neg (by omega)]
  · rw [if_neg hin, if_pos (by omega)]
    rfl

end

/-- Settles O36: the memory controllers' events, and the clear of the map. -/
theorem memoryInService : Obligations.MemoryInService := by
  refine ⟨fun s m c r0 r1 hup => ?_, fun s r evict => ?_⟩
  · intro base
    have hpatrol : exec (.patrolScrub m []) s = .next (s.patrol m.val []).done := by
      show (s.act fun s => s.patrol m.val []) = _
      rw [State.act_up hup]
    refine ⟨?_, fun h => ?_, fun hen hruns => ⟨fun hclean => ?_, fun line hbad htop hchan hcalm => ?_⟩, fun hruns h0 h1 => ?_,
      fun hruns => ⟨fun h => ?_, fun h => ?_⟩⟩
    · show (s.act fun s => s.refreshed m) = _
      rw [State.act_up hup]
      rfl
    · rw [hpatrol, State.patrol_off h]
    · rw [hpatrol, State.patrol_clean hen hruns hclean]
      rfl
    · rw [hpatrol, State.patrol_corrects hen hruns hbad htop hchan]
      have hcfg : mcCfg m.val = 0x60100 + 0x1000 * m.val := rfl
      have hbase := mc_base m
      have hm := m.isLt
      generalize hu : ((({ s with dramBad := [] }).bump (mcCfg m.val + 8 + 4 * (s.lineChan line % 2)) 1).intRaise (.mc m.val) 0).bumpWrap
        (mcCfg m.val + 0x24) 1 = u
      have hucalm : Calm u := by rw [← hu]; exact hcalm
      refine ⟨u.done, rfl, ?_, ?_, ?_, ?_, ?_⟩
      · rw [State.done_dramBad hucalm, ← hu]
        rfl
      · rw [State.done_dram hucalm, ← hu]
        rfl
      · rw [State.done_reg hucalm (mc_notEndRegs m 0x24 (by decide)), ← hu, State.bumpWrap, State.reg_setReg_self,
          State.reg_intRaise_off _ _ _ (by omega), State.bump, State.reg_setReg_ne _ _ (by omega)]
        rfl
      · have hcount : mcCfg m.val + 8 + 4 * (s.lineChan line % 2) ∉ endRegs := by
          rcases Nat.mod_two_eq_zero_or_one (s.lineChan line) with h | h <;> rw [h]
          · exact mc_notEndRegs m 8 (by decide)
          · exact mc_notEndRegs m 12 (by decide)
        rw [State.done_reg hucalm hcount, ← hu, State.reg_bumpWrap_ne _ (by omega), State.reg_intRaise_off _ _ _ (by omega), State.bump,
          State.reg_setReg_self]
        rfl
      · refine State.done_mono hucalm (by omega) 0 ?_
        rw [← hu, State.reg_bumpWrap_ne _ (by omega)]
        exact State.intRaise_self _ _ _ (by decide)
    · show (s.actIn (32 + m.val) fun s => s.dramTemp m.val r0 r1) = _
      rw [State.actIn_runs ⟨hup, hruns⟩, State.dramTemp, if_neg (not_or.mpr ⟨h0, h1⟩)]
    all_goals
      show (s.actIn (32 + m.val) fun s => s.channelDead m.val c.val) = _
      rw [State.actIn_runs ⟨hup, hruns⟩, State.channelDead]
    · rw [if_pos h]
    · rw [if_neg (by simp [h])]
  · refine ⟨fun h hen => ?_, fun h hen htop => ?_, fun h hen htop hcalm => ?_, fun hruns h => ?_, fun hruns h => ?_⟩
    · rw [exec_mapClear evict h, State.writeMapCtrl_enabled evict hen]
    · rw [exec_mapClear evict h, State.writeMapCtrl_passes evict hen htop]
    · rw [exec_mapClear evict h, State.writeMapCtrl_clears evict hen htop]
      show ∃ t, Host.Outcome.next ((s.mapClearing evict).respond r cOK 0).done = .next t ∧ _
      have hvcalm : Calm ((s.mapClearing evict).respond r cOK 0) := hcalm
      obtain ⟨hocc, htomb⟩ := s.mapClearing_counts evict
      have hctrl : ((s.mapClearing evict).respond r cOK 0).done.reg 0x64108 =
          setFld (setFld (s.reg 0x64108) 0 2 (2 * evict.toNat)) 3 1 1 := by
        rw [State.done_reg hvcalm (by decide), State.respond_reg, s.mapClearing_ctrl evict]
      refine ⟨_, rfl, ?_, ?_, ?_, ?_, ?_, ?_, fun a => ?_, fun a ha h0 h1 hend => ?_⟩
      · rw [State.done_resp hvcalm]
        rfl
      · rw [State.done_reg hvcalm (by decide), State.respond_reg, hocc]
      · rw [State.done_reg hvcalm (by decide), State.respond_reg, htomb]
      · rw [hctrl, bit_setFld _ _ _ _ _ (by decide)]
        rfl
      · rw [hctrl, bit_setFld _ _ _ _ _ (by decide), bit_setFld _ _ _ _ _ (by decide)]
        cases evict <;> rfl
      · rw [hctrl, bit_setFld _ _ _ _ _ (by decide), bit_setFld _ _ _ _ _ (by decide)]
        cases evict <;> rfl
      · rw [State.done_dram hvcalm]
        exact s.mapClearing_byte evict a
      · rw [State.done_reg hvcalm hend, State.respond_reg, s.mapClearing_reg evict ha h0 h1]
    all_goals
      show (s.actIn 2 State.mapCleared) = _
      rw [State.actIn_runs hruns, State.mapCleared]
    · rw [if_pos h]
    · rw [if_neg (by simp [h])]

end Sys2Proof.Machine
end

section
/-! ## The retirement of a mapped basin or lane (rules R175, R176, R448, R482) -/

namespace Sys2Proof.Machine

/-- What a retirement says of the unit itself: its repair-map word, its events, its domain and its row copies. -/
def State.unitFailed (s : State) (u cause source : Nat) : State :=
  let s := s.setRm (unitWord u) (w32 (3 + 16 + 0xF00 + cause * 65536 + source * 2 ^ 24))
  let s := (s.unitInt u 3).lastCode (unitPage u) cause
  let s := s.setDomain (unitDomain u) 3
  { s with copying := s.copying.filter fun c => c.1 ≠ u }

/-- The fence of a logical unit. -/
def State.fenceUnit (s : State) (lane : Bool) (logical : Nat) : State :=
  { s with head := { s.head with fenced := s.head.fenced ++ [fenceKey lane logical] } }

/-- What a retirement does to the logical unit: the fence, its users, the commands of its engines and its residency tags. -/
def State.logicalCut (s : State) (lane : Bool) (logical : Nat) : State :=
  let s := ((s.fenceUnit lane logical).tearUsers lane logical).cutOn (unitEngine lane logical)
  if lane then s else s.dropTags fun t => t.basin ≠ logical

theorem State.retireUnit_gone {s : State} {u : Nat} (h : fld (s.rm (unitWord u)) 0 2 = 0 ∨ fld (s.rm (unitWord u)) 0 2 = 3) (cause source : Nat) :
    s.retireUnit u cause source = s := by
  rw [State.retireUnit, if_pos h.symm]

theorem State.retireUnit_mapped {s : State} {u : Nat} (h : fld (s.rm (unitWord u)) 0 2 = 1) (cause source : Nat) :
    s.retireUnit u cause source = ((s.unitFailed u cause source).logicalCut (decide (18 ≤ u)) (fld (s.rm (unitWord u)) 8 4)).substitute
      (decide (18 ≤ u)) (fld (s.rm (unitWord u)) 8 4) (if decide (18 ≤ u) then u - 18 else u) := by
  rw [State.retireUnit, if_neg (by omega), h]
  rfl

/-! ### The unit itself -/

theorem State.lastCode_regsBut (s : State) (p : Page) (code : Nat) : RegsBut (fun _ => True) s (s.lastCode p code) :=
  RegsBut.refl.lastCode trivial code

theorem State.unitFailed_eq (s : State) (u cause source : Nat) :
    let t := s.setRm (unitWord u) (w32 (3 + 16 + 0xF00 + cause * 65536 + source * 2 ^ 24))
    ∃ v : State, RegsBut (fun _ => True) t v ∧
      s.unitFailed u cause source = { v.setDomain (unitDomain u) 3 with copying := s.copying.filter fun c => c.1 ≠ u } := by
  intro t
  have hregs : RegsBut (fun _ => True) t ((t.unitInt u 3).lastCode (unitPage u) cause) :=
    (RegsBut.refl.intRaise trivial _).trans (State.lastCode_regsBut _ _ _)
  refine ⟨_, hregs, ?_⟩
  have hcopying : ((t.unitInt u 3).lastCode (unitPage u) cause).copying = s.copying := by rw [hregs.1]; rfl
  rw [← hcopying]
  rfl

section
variable (s : State) (u cause source : Nat)

theorem State.unitFailed_kept : (s.unitFailed u cause source).head = s.head ∧ (s.unitFailed u cause source).sram = s.sram ∧
    (s.unitFailed u cause source).dram = s.dram := by
  obtain ⟨v, hv, heq⟩ := s.unitFailed_eq u cause source
  rw [heq]
  exact ⟨show v.head = s.head by rw [hv.1]; rfl, show v.sram = s.sram by rw [hv.1]; rfl, show v.dram = s.dram by rw [hv.1]; rfl⟩

theorem State.unitFailed_rmap : (s.unitFailed u cause source).rmap =
    (s.setRm (unitWord u) (w32 (3 + 16 + 0xF00 + cause * 65536 + source * 2 ^ 24))).rmap := by
  obtain ⟨v, hv, heq⟩ := s.unitFailed_eq u cause source
  rw [heq]
  show v.rmap = _
  rw [hv.1]

theorem State.unitFailed_domain : (s.unitFailed u cause source).domain (unitDomain u) = 3 := by
  obtain ⟨v, _, heq⟩ := s.unitFailed_eq u cause source
  rw [heq]
  exact v.domain_setDomain_self (unitDomain u) 3

theorem State.unitFailed_copying : ∀ c ∈ (s.unitFailed u cause source).copying, c.1 ≠ u := by
  obtain ⟨v, _, heq⟩ := s.unitFailed_eq u cause source
  rw [heq]
  intro c hc
  exact of_decide_eq_true (List.mem_filter.mp hc).2

end

/-- The word of a failed unit (rule R448). -/
theorem fld_failedWord {cause source : Nat} (hc : cause < 256) (hs : source < 256) :
    let w := w32 (3 + 16 + 0xF00 + cause * 65536 + source * 2 ^ 24)
    fld w 0 2 = 3 ∧ fld w 16 8 = cause ∧ fld w 24 8 = source := by
  have hlt : 3 + 16 + 0xF00 + cause * 65536 + source * 2 ^ 24 < 2 ^ 32 := by omega
  intro w
  refine ⟨?_, ?_, ?_⟩
  all_goals
    show fld (w32 _) _ _ = _
    rw [fld_w32 hlt]
    omega

/-! ### The contexts that use it -/

/-- Of `s`, the contexts alone have changed in `t`. -/
def CtxsOnly (s t : State) : Prop := t = { s with head := { s.head with ctxs := t.head.ctxs } }

namespace CtxsOnly

variable {s t u : State}

theorem refl : CtxsOnly s s := rfl

theorem trans (h : CtxsOnly s t) (h' : CtxsOnly t u) : CtxsOnly s u := by
  unfold CtxsOnly at *
  rw [h', h]

theorem foldl {α : Type} {f : State → α → State} (l : List α) (h : CtxsOnly s t) (hf : ∀ u x, CtxsOnly u (f u x)) :
    CtxsOnly s (l.foldl f t) := by
  induction l generalizing t with
  | nil => exact h
  | cons x l ih => exact ih (h.trans (hf t x))

end CtxsOnly

theorem State.tearDown_ctxsOnly (s : State) (c cause lcn : Nat) : CtxsOnly s (s.tearDown c cause lcn) := by
  unfold State.tearDown
  dsimp only
  split
  · exact .refl
  · rfl

theorem State.tearUsers_ctxsOnly (s : State) (lane : Bool) (logical : Nat) : CtxsOnly s (s.tearUsers lane logical) := by
  refine .foldl _ .refl fun t p => ?_
  split
  · exact t.tearDown_ctxsOnly _ _ _
  · exact .refl

theorem State.tearUsers_idle {s : State} (h : s.live = []) (lane : Bool) (logical : Nat) : s.tearUsers lane logical = s := by
  rw [State.tearUsers, h, List.foldl_nil]

/-! ### The logical unit -/

/-- The cells of a map with some of its values changed. -/
theorem Cells.get_mapOn {α : Type} (d : α) (m : Cells α) (es : Nat → Bool) (f : α → α) (hd : f d = d) (e : Nat) :
    Cells.get d (m.map fun p => (p.1, if es p.1 then f p.2 else p.2)) e = if es e then f (Cells.get d m e) else Cells.get d m e := by
  induction m with
  | nil => simp [Cells.get, hd]
  | cons p m ih =>
    simp only [List.map_cons, Cells.get, ih]
    by_cases hp : p.1 = e
    · simp only [hp, if_true]
    · simp only [hp, if_false]

theorem State.running_cutOn (s : State) (es : Nat → Bool) (e : Nat) :
    (s.cutOn es).running e = if es e then (s.running e).map (fun q => { q with cut := true }) else s.running e :=
  Cells.get_mapOn none s.head.running es (Option.map fun q : Running => { q with cut := true }) rfl e

section
variable (s : State) (lane : Bool) (logical : Nat)

/-- Of the block's state, a logical unit that is cut touches the headgate alone. -/
theorem State.logicalCut_eq : s.logicalCut lane logical = { s with head := (s.logicalCut lane logical).head } := by
  have htear := State.tearUsers_ctxsOnly (s.fenceUnit lane logical) lane logical
  unfold State.logicalCut
  dsimp only
  rw [htear]
  split <;> rfl

theorem State.logicalCut_head : (s.logicalCut lane logical).head.fenced = s.head.fenced ++ [fenceKey lane logical] ∧
    (s.logicalCut lane logical).head.subst = s.head.subst := by
  have htear := State.tearUsers_ctxsOnly (s.fenceUnit lane logical) lane logical
  unfold State.logicalCut
  dsimp only
  rw [htear]
  split <;> exact ⟨rfl, rfl⟩

theorem State.logicalCut_running (e : Nat) : (s.logicalCut lane logical).running e =
    if unitEngine lane logical e then (s.running e).map (fun q => { q with cut := true }) else s.running e := by
  have htear := State.tearUsers_ctxsOnly (s.fenceUnit lane logical) lane logical
  unfold State.logicalCut
  dsimp only
  rw [htear]
  split <;> exact State.running_cutOn ..

theorem State.logicalCut_ctxs (h : s.live = []) : (s.logicalCut lane logical).head.ctxs = s.head.ctxs := by
  unfold State.logicalCut
  dsimp only
  rw [State.tearUsers_idle (s := s.fenceUnit lane logical) h]
  split <;> rfl

end

/-! ### The reserve that is woken -/

/-- What waking a reserve leaves: the repair map, the memories, the row copies, the contexts and the commands that run. -/
structure UnitsKept (s t : State) : Prop where
  rmap : t.rmap = s.rmap
  sram : t.sram = s.sram
  dram : t.dram = s.dram
  copying : t.copying = s.copying
  ctxs : t.head.ctxs = s.head.ctxs
  running : t.head.running = s.head.running

theorem RegsBut.unitsKept {rs : Nat → Prop} {s t : State} (h : RegsBut rs s t) : UnitsKept s t := by
  rw [h.1]
  exact ⟨rfl, rfl, rfl, rfl, rfl, rfl⟩

theorem State.pageEvent_regsBut (s : State) (p : Page) (cls code ctx detail : Nat) :
    RegsBut (fun a => 0x5000 ≤ a ∧ a < 0x6000) s (s.pageEvent p cls code ctx detail) := State.faultEvent_regsBut ..

section
variable (s : State) (lane : Bool) (logical retired : Nat)

/-- The substitution that waits for the woken reserve `p`. -/
def State.awaiting (p : Nat) : State := { s with head := { s.head with
  subst := s.head.subst ++ [{ lane := lane, logical := logical, retired := retired, reserve := p }] } }

theorem State.substitute_some {p : Nat} (h : s.nextReserve lane = some p) : s.substitute lane logical retired =
    if s.domain (unitDomain (unitNo lane p)) = 0 ∧ s.rf 0x3104 0 2 = 0 ∧ s.power.phase = 0
    then (s.awaiting lane logical retired p).wakeDomain (unitDomain (unitNo lane p)) else s.awaiting lane logical retired p := by
  rw [State.substitute, h]
  rfl

theorem State.substitute_none (h : s.nextReserve lane = none) : s.substitute lane logical retired =
    (s.unfence lane logical).pageEvent (unitPage (unitNo lane retired)) 1 cDEGRADED 0xFF 0 := by
  rw [State.substitute, h]

theorem State.substitute_kept : UnitsKept s (s.substitute lane logical retired) := by
  cases h : s.nextReserve lane with
  | some p =>
    rw [s.substitute_some lane logical retired h]
    split
    · exact ⟨rfl, rfl, rfl, rfl, rfl, rfl⟩
    · exact ⟨rfl, rfl, rfl, rfl, rfl, rfl⟩
  | none =>
    rw [s.substitute_none lane logical retired h]
    obtain ⟨h1, h2, h3, h4, h5, h6⟩ := ((s.unfence lane logical).pageEvent_regsBut
      (unitPage (unitNo lane retired)) 1 cDEGRADED 0xFF 0).unitsKept
    exact ⟨h1, h2, h3, h4, h5, h6⟩

theorem State.domain_wakeDomain_ne {d e : Nat} (h : e ≠ d) : (s.wakeDomain d).domain e = s.domain e := s.domain_setDomain_ne 1 h

theorem State.substitute_domain {d : Nat} (hd : s.domain d ≠ 0) : (s.substitute lane logical retired).domain d = s.domain d := by
  cases h : s.nextReserve lane with
  | some p =>
    rw [s.substitute_some lane logical retired h]
    split
    · next hwake =>
      have hne : d ≠ unitDomain (unitNo lane p) := fun heq => hd (heq ▸ hwake.1)
      exact State.domain_wakeDomain_ne _ hne
    · rfl
  | none =>
    rw [s.substitute_none lane logical retired h]
    have hregs := (s.unfence lane logical).pageEvent_regsBut (unitPage (unitNo lane retired)) 1 cDEGRADED 0xFF 0
    rw [hregs.1]
    rfl

theorem State.substitute_taken {p : Nat} (h : s.nextReserve lane = some p) :
    (s.substitute lane logical retired).head = (s.awaiting lane logical retired p).head := by
  rw [s.substitute_some lane logical retired h]
  split <;> rfl

end

/-- A unit that leaves service changes nothing about the reserves. -/
theorem State.nextReserve_congr {s t : State} (hsubst : t.head.subst = s.head.subst)
    (hreserve : ∀ k, (fld (t.rm k) 0 2 == 2) = (fld (s.rm k) 0 2 == 2)) (lane : Bool) : t.nextReserve lane = s.nextReserve lane := by
  simp only [State.nextReserve, hsubst, hreserve]

/-! ### The retirement as a whole -/

section
variable {s : State} {u : Nat} (hmapped : fld (s.rm (unitWord u)) 0 2 = 1) {cause source : Nat}
include hmapped

theorem State.retireUnit_word (hc : cause < 256) (hs : source < 256) :
    let w := (s.retireUnit u cause source).rm (unitWord u)
    fld w 0 2 = 3 ∧ fld w 16 8 = cause ∧ fld w 24 8 = source := by
  have hword : (s.retireUnit u cause source).rm (unitWord u) = w32 (3 + 16 + 0xF00 + cause * 65536 + source * 2 ^ 24) := by
    rw [State.retireUnit_mapped hmapped, State.rm, (State.substitute_kept _ _ _ _).rmap, State.logicalCut_eq]
    show Cells.get 0 (s.unitFailed u cause source).rmap (unitWord u) = _
    rw [State.unitFailed_rmap]
    exact State.rm_setRm_self ..
  intro w
  rw [show w = _ from hword]
  exact fld_failedWord hc hs

theorem State.retireUnit_domain : (s.retireUnit u cause source).domain (unitDomain u) = 3 := by
  have hcut : ((s.unitFailed u cause source).logicalCut (decide (18 ≤ u)) (fld (s.rm (unitWord u)) 8 4)).domain (unitDomain u) = 3 := by
    rw [State.logicalCut_eq]
    exact s.unitFailed_domain u cause source
  rw [State.retireUnit_mapped hmapped, State.substitute_domain _ _ _ _ (by omega), hcut]

theorem State.retireUnit_running {e : Nat} (he : unitEngine (decide (18 ≤ u)) (fld (s.rm (unitWord u)) 8 4) e = true) :
    (s.retireUnit u cause source).running e = (s.running e).map fun q => { q with cut := true } := by
  obtain ⟨hhead, _, _⟩ := s.unitFailed_kept u cause source
  rw [State.retireUnit_mapped hmapped, State.running, (State.substitute_kept _ _ _ _).running]
  refine (State.logicalCut_running _ _ _ e).trans ?_
  rw [if_pos he, State.running, hhead]
  rfl

theorem State.retireUnit_kept (hidle : s.live = []) :
    (∀ c ∈ (s.retireUnit u cause source).copying, c.1 ≠ u) ∧ (s.retireUnit u cause source).sram = s.sram ∧
      (s.retireUnit u cause source).dram = s.dram ∧ (s.retireUnit u cause source).head.ctxs = s.head.ctxs := by
  obtain ⟨hhead, hsram, hdram⟩ := s.unitFailed_kept u cause source
  have hlive : (s.unitFailed u cause source).live = [] := by
    rw [State.live, hhead]
    exact hidle
  have hctxs := State.logicalCut_ctxs (s.unitFailed u cause source) (decide (18 ≤ u)) (fld (s.rm (unitWord u)) 8 4) hlive
  obtain ⟨_, hsram', hdram', hcopying, hctxs', _⟩ := State.substitute_kept
    ((s.unitFailed u cause source).logicalCut (decide (18 ≤ u)) (fld (s.rm (unitWord u)) 8 4)) (decide (18 ≤ u)) (fld (s.rm (unitWord u)) 8 4)
    (if decide (18 ≤ u) then u - 18 else u)
  rw [State.retireUnit_mapped hmapped, hsram', hdram', hcopying, hctxs', hctxs, State.logicalCut_eq, hhead]
  exact ⟨s.unitFailed_copying u cause source, hsram, hdram, rfl⟩

theorem State.retireUnit_substitutes {p : Nat} (hp : s.nextReserve (decide (18 ≤ u)) = some p) (hc : cause < 256) (hs : source < 256) :
    let lane := decide (18 ≤ u)
    let logical := fld (s.rm (unitWord u)) 8 4
    (s.retireUnit u cause source).head.fenced = s.head.fenced ++ [fenceKey lane logical] ∧
    (s.retireUnit u cause source).head.subst =
      s.head.subst ++ [{ lane := lane, logical := logical, retired := if lane then u - 18 else u, reserve := p }] := by
  intro lane logical
  obtain ⟨hhead, _, _⟩ := s.unitFailed_kept u cause source
  obtain ⟨hfenced, hsubst⟩ := (s.unitFailed u cause source).logicalCut_head lane logical
  obtain ⟨hword, _, _⟩ := fld_failedWord hc hs
  have hreserve : ∀ k, (fld (((s.unitFailed u cause source).logicalCut lane logical).rm k) 0 2 == 2) = (fld (s.rm k) 0 2 == 2) := by
    intro k
    have hrm : ((s.unitFailed u cause source).logicalCut lane logical).rm k =
        (s.setRm (unitWord u) (w32 (3 + 16 + 0xF00 + cause * 65536 + source * 2 ^ 24))).rm k := by
      rw [State.logicalCut_eq]
      show Cells.get 0 (s.unitFailed u cause source).rmap k = _
      rw [State.unitFailed_rmap]
      rfl
    by_cases hk : k = unitWord u
    · rw [hrm, hk, State.rm_setRm_self, hword, hmapped]
      rfl
    · rw [hrm, State.rm_setRm_ne _ _ hk]
  have hnext := State.nextReserve_congr (hsubst.trans (by rw [hhead])) hreserve lane
  rw [State.retireUnit_mapped hmapped, State.substitute_taken _ _ _ _ (hnext.trans hp)]
  show ((s.unitFailed u cause source).logicalCut lane logical).head.fenced = _ ∧
    ((s.unitFailed u cause source).logicalCut lane logical).head.subst ++ _ = _
  rw [hfenced, hsubst, hhead]
  exact ⟨rfl, rfl⟩

end

/-- Settles O34: the unit's word and domain, the cut of its logical unit, and the reserve that is taken. -/
theorem unitRetirement : Obligations.UnitRetirement := by
  intro s u cause source _ hc hs w lane
  refine ⟨fun h => State.retireUnit_gone h cause source, fun hmapped hidle => ?_⟩
  intro t
  obtain ⟨hstate, hcause, hsource⟩ := State.retireUnit_word hmapped hc hs
  obtain ⟨hcopying, hsram, hdram, hctxs⟩ := State.retireUnit_kept (cause := cause) (source := source) hmapped hidle
  refine ⟨hstate, hcause, hsource, State.retireUnit_domain hmapped, hcopying, hsram, hdram, hctxs, fun e q he hrun => ?_, fun p hp => ?_⟩
  · rw [State.retireUnit_running hmapped he, hrun]
    rfl
  · obtain ⟨hfenced, hsubst⟩ := State.retireUnit_substitutes hmapped hp hc hs
    refine ⟨?_, ?_⟩
    · rw [hfenced]
      exact List.mem_append_right _ List.mem_cons_self
    · rw [hsubst]

end Sys2Proof.Machine
end

section
/-! ## Basins and lanes in service (rules R156–R159, R175–R177, R458) -/

namespace Sys2Proof.Machine

/-- The end of a command leaves a unit's own counters. -/
theorem unitReg_notEndRegs (u : Nat) {off : Nat} (h : off < 4096) (h14 : off ≠ 0x14) (h124 : off ≠ 0x124) : (unitPage u).base + off ∉ endRegs := by
  have hpage : (unitPage u).base % 4096 = 0 := Page.base_page _
  simp only [endRegs, List.mem_cons, List.not_mem_nil, or_false]
  omega

/-! ### The scrub -/

/-- The words in error once the upsets of a pass have struck (rule R159). -/
def struckWords (u : Nat) (upsets : List (Nat × Nat)) (m : Cells Nat) : Cells Nat :=
  upsets.foldl (fun m x => if x.2 = 0 ∨ unitSize u ≤ 8 * x.1 then m
    else Cells.put 0 m (2 ^ 21 * u + x.1) (min 2 (Cells.get 0 m (2 ^ 21 * u + x.1) + x.2))) m

/-- The count of a unit's scrub passes. -/
def scrubReg (u : Nat) : Nat := (unitPage u).base + (if u < 18 then 0x10C else 0x12C)

section
variable {s : State} {u : Nat} (upsets : List (Nat × Nat))

theorem State.scrubUnit_off (h : ¬ (bit (s.reg ((unitPage u).base + 0xC)) 0 = true ∧ s.domain (unitPage u).domain = 2)) :
    s.scrubUnit u upsets = { s with sramBad := struckWords u upsets s.sramBad } := by
  simp only [State.scrubUnit, if_neg h]
  rfl

variable (h : bit (s.reg ((unitPage u).base + 0xC)) 0 = true ∧ s.domain (unitPage u).domain = 2)
include h

theorem State.scrubUnit_on : s.scrubUnit u upsets =
    let t := (s.readWords u (s.badWords u 0 (unitSize u)) none).2.bumpWrap (scrubReg u) 1
    { t with sramBad := struckWords u upsets t.sramBad } := by
  simp only [State.scrubUnit, if_pos h]
  rfl

theorem State.scrubUnit_clean (hclean : s.sramBad = []) : s.scrubUnit u upsets =
    { s.bumpWrap (scrubReg u) 1 with sramBad := struckWords u upsets [] } := by
  have hbad : (s.bumpWrap (scrubReg u) 1).sramBad = [] := hclean
  rw [State.scrubUnit_on upsets h, State.badWords_clean hclean]
  show { s.bumpWrap (scrubReg u) 1 with sramBad := struckWords u upsets (s.bumpWrap (scrubReg u) 1).sramBad } = _
  rw [hbad]

/-- A single-bit word is corrected and counted (rule R156). -/
theorem State.scrubUnit_corrects {k : Nat} (hbad : s.sramBad = [(k, 1)]) (hlo : 2 ^ 21 * u ≤ k) (hhi : k < 2 ^ 21 * u + unitSize u / 8) :
    s.scrubUnit u [] = (s.fixWord u k).bumpWrap (scrubReg u) 1 := by
  have hsize : unitSize u ≠ 0 ∧ unitSize u % 8 = 0 := by
    unfold unitSize
    split <;> decide
  have hin : s.badWords u 0 (unitSize u) = [(k, 1)] := by
    simp only [State.badWords, hsize.1, if_false, hbad]
    rw [List.filter_cons, if_pos]
    · rfl
    · simp only [Bool.and_eq_true, decide_eq_true_eq]
      generalize 2 ^ 21 * u = b at *
      omega
  have hone : Cells.get 0 s.sramBad k = 1 := by
    rw [hbad]
    simp [Cells.get]
  have hread : (s.readWords u [(k, 1)] none).2 = s.fixWord u k := by
    simp only [State.readWords, List.foldl_cons, List.foldl_nil, hone, Nat.one_ne_zero, if_false, if_true]
  rw [State.scrubUnit_on [] h, hin, hread]
  rfl

end

/-- A corrected word, but for a row copy that its count starts. -/
def State.wordFixed (s : State) (u k : Nat) : State :=
  let t := ({ s with sramBad := Cells.put 0 s.sramBad k 0 }.bump (corrReg u) 1).unitInt u 0
  { t with rowErr := Cells.put 0 t.rowErr (rowKey u (k % 2 ^ 21 / 8)) (Cells.get 0 t.rowErr (rowKey u (k % 2 ^ 21 / 8)) + 1) }

theorem State.fixWord_eq (s : State) (u k : Nat) :
    s.fixWord u k = { s.wordFixed u k with copying := (s.fixWord u k).copying } := by
  unfold State.fixWord
  dsimp only
  split <;> rfl

section
variable (s : State) (u k : Nat)

theorem State.fixWord_kept : (s.fixWord u k).sram = s.sram ∧ (s.fixWord u k).sramBad = Cells.put 0 s.sramBad k 0 ∧
    (s.fixWord u k).foldDue = s.foldDue ∧ (s.fixWord u k).head = s.head ∧
    Cells.get 0 (s.fixWord u k).rowErr (rowKey u (k % 2 ^ 21 / 8)) = Cells.get 0 s.rowErr (rowKey u (k % 2 ^ 21 / 8)) + 1 := by
  rw [s.fixWord_eq u k]
  exact ⟨rfl, rfl, rfl, rfl, Cells.get_put_self ..⟩

theorem State.fixWord_reg (a : Nat) : (s.fixWord u k).reg a = ((s.bump (corrReg u) 1).unitInt u 0).reg a := by
  rw [s.fixWord_eq u k]
  rfl

theorem State.fixWord_counts : (s.fixWord u k).reg (corrReg u) = satInc (s.reg (corrReg u)) 1 := by
  have hoff : corrReg u % 4096 ≠ 0x14 := by
    have hpage : (unitPage u).base % 4096 = 0 := Page.base_page _
    unfold corrReg
    split <;> omega
  rw [s.fixWord_reg u k, State.unitInt, State.reg_intRaise_off _ _ _ hoff]
  exact State.reg_setReg_self ..

theorem State.fixWord_reg_other {off : Nat} (h : off < 4096) (h14 : off ≠ 0x14) (hcorr : off ≠ if u < 18 then 0x100 else 0x120) :
    (s.fixWord u k).reg ((unitPage u).base + off) = s.reg ((unitPage u).base + off) := by
  have hpage : (unitPage u).base % 4096 = 0 := Page.base_page _
  rw [s.fixWord_reg u k, State.unitInt, State.reg_intRaise_off _ _ _ (by omega)]
  refine State.reg_setReg_ne _ _ ?_
  unfold corrReg
  omega

theorem State.fixWord_raises : bit ((s.fixWord u k).reg ((unitPage u).base + 0x14)) (if u < 18 then 0 else 4) = true := by
  rw [s.fixWord_reg u k]
  exact State.intRaise_self _ _ _ (by split <;> decide)

end

/-! ### A finished row copy -/

theorem State.rowCopied_maps {s : State} {u r e : Nat} (hcopy : s.copying = [(u, r)]) (hfree : s.freeSpare u r = some e) :
    s.rowCopied u = State.putSpare { s with
      copying := [], rowErr := Cells.clear s.rowErr (rowKey u r) 1,
      sramBad := s.sramBad.filter fun w => !(rowByte u r / 8 ≤ w.1 && w.1 < rowByte u r / 8 + 8 && w.2 == 1) } u r e false := by
  have hfind : s.copying.find? (fun c => c.1 == u) = some (u, r) := by simp [hcopy]
  have hrest : s.copying.filter (· ≠ (u, r)) = [] := by simp [hcopy]
  have hspare : State.freeSpare { s with copying := [] } u r = some e := hfree
  simp only [State.rowCopied, hfind, hrest, hspare]

/-! ### The command watchdog -/

/-- The engine of a unit that the watchdog watches, and its class. -/
def dogEngine (u logical : Nat) (vector : Bool) : Nat := if u < 18 then (if vector then 0x10 + logical else logical) else 0x40 + logical

def dogClass (u : Nat) (vector : Bool) : EngClass := if u < 18 then (if vector then .vector else .tile) else .solver

section
variable {s : State} {u : Nat} (hmapped : fld (s.rm (unitWord u)) 0 2 = 1) {vector : Bool}
include hmapped

theorem State.watchdog_idle (hrun : s.running (dogEngine u (s.logicalOf u) vector) = none) (waves : Nat) : s.watchdog vector u waves = s := by
  unfold State.watchdog
  dsimp only
  rw [if_neg (Classical.not_not.mpr hmapped)]
  show (match s.running (dogEngine u (s.logicalOf u) vector) with | none => s | some q => _) = s
  rw [hrun]

theorem State.watchdog_running {q : Running} (hrun : s.running (dogEngine u (s.logicalOf u) vector) = some q) (waves : Nat) :
    s.watchdog vector u waves =
      if waves ≤ 4 * (((dogClass u vector).waves q.head.desc).1 + ((dogClass u vector).waves q.head.desc).2) then s
      else (s.tearDown q.head.c cTEARDOWN ((dogClass u vector).lcn q.head.desc)).checkFail u 4 q.head.c := by
  unfold State.watchdog
  dsimp only
  rw [if_neg (Classical.not_not.mpr hmapped)]
  show (match s.running (dogEngine u (s.logicalOf u) vector) with | none => s | some q => _) = _
  rw [hrun]
  rfl

theorem State.unitEngine_dogEngine : unitEngine (decide (18 ≤ u)) (fld (s.rm (unitWord u)) 8 4) (dogEngine u (s.logicalOf u) vector) = true := by
  have hlogical : s.logicalOf u = fld (s.rm (unitWord u)) 8 4 := if_pos hmapped
  rw [hlogical]
  unfold unitEngine dogEngine
  by_cases hu : u < 18
  · have hbasin : decide (18 ≤ u) = false := decide_eq_false (by omega)
    rw [hbasin, if_pos hu]
    cases vector <;> simp
  · have hlane : decide (18 ≤ u) = true := decide_eq_true (by omega)
    rw [hlane, if_neg hu]
    simp

/-- The retirement that an expiry of the watchdog leads to (rules R175, R482). -/
theorem State.checkFail_dog {t : State} (hrm : t.rmap = s.rmap) (hrunning : t.head.running = s.head.running) {e c : Nat} {q : Running}
    (hrun : s.running e = some q) (he : unitEngine (decide (18 ≤ u)) (fld (s.rm (unitWord u)) 8 4) e = true) :
    let v := t.checkFail u 4 c
    fld (v.rm (unitWord u)) 0 2 = 3 ∧ fld (v.rm (unitWord u)) 16 8 = cTEARDOWN ∧ v.domain (unitDomain u) = 3 ∧
      v.running e = some { q with cut := true } := by
  intro v
  let noted := ((t.unitInt u 5).errCapture (unitPage u) cTEARDOWN 4 c 0).lastCode (unitPage u) cTEARDOWN
  have hregs : RegsBut (fun _ => True) t noted :=
    ((RegsBut.refl.intRaise trivial _).trans ((State.errCapture_regsBut _ _ _ _ _ _).mono fun _ _ => trivial)).lastCode trivial _
  have hnrm : noted.rm (unitWord u) = s.rm (unitWord u) := by
    rw [State.rm, hregs.1]
    exact congrArg (fun m => Cells.get 0 m (unitWord u)) hrm
  have hnrun : noted.running e = some q := by
    rw [State.running, hregs.head, hrunning]
    exact hrun
  have hv : v = noted.retireUnit u cTEARDOWN 4 := rfl
  have hnmapped : fld (noted.rm (unitWord u)) 0 2 = 1 := by rw [hnrm, hmapped]
  obtain ⟨hstate, hcause, _⟩ := State.retireUnit_word hnmapped (cause := cTEARDOWN) (source := 4) (by decide) (by decide)
  refine ⟨?_, ?_, ?_, ?_⟩
  · rw [hv, hstate]
  · rw [hv, hcause]
  · rw [hv, State.retireUnit_domain hnmapped]
  · rw [hv, State.retireUnit_running hnmapped (by rw [hnrm]; exact he), hnrun]
    rfl

end

/-! ### The test of a reserve -/

section
variable {s : State} {x : Subst} {rest : List Subst} (hsubst : s.head.subst = x :: rest)
  (hon : s.domain (unitDomain (unitNo x.lane x.reserve)) = 2)
include hsubst hon

theorem State.reserveTested_pass (source : Nat) : s.reserveTested true source =
    let v := unitNo x.lane x.reserve
    let t : State := { s with head := { s.head with subst := rest } }
    (State.unfence { t.setRm (unitWord v) (w32 (1 + x.logical * 256)) with
      sram := Cells.clear s.sram (2 ^ 24 * v) (2 ^ 24), sramBad := Cells.clear s.sramBad (2 ^ 21 * v) (2 ^ 21),
      rowErr := Cells.clear s.rowErr (2 ^ 18 * v) (2 ^ 18), rowLost := s.rowLost.filter fun k => k / 2 ^ 18 ≠ v }
        x.lane x.logical).pageEvent (unitPage v) 1 cSPARE_IN 0xFF (x.reserve + x.logical * 256 + x.retired * 65536) := by
  rw [State.reserveTested, hsubst]
  exact if_neg (Classical.not_not.mpr hon)

theorem State.reserveTested_fail (source : Nat) : s.reserveTested false source =
    let v := unitNo x.lane x.reserve
    let t : State := { s with head := { s.head with subst := rest } }
    ((t.setRm (unitWord v) (w32 (3 + 0xF00 + source * 2 ^ 24))).setDomain (unitDomain v) 3).substitute x.lane x.logical x.retired := by
  rw [State.reserveTested, hsubst]
  exact if_neg (Classical.not_not.mpr hon)

end

/-- Settles O33: the scrub, the row copies, the watchdog and the reserves of basins and lanes. -/
theorem unitService : Obligations.UnitService := by
  intro s id upsets vector pass waves source hup u base cnt struck on
  have hscrub : ∀ upsets, exec (.scrub id upsets) s = .next (s.scrubUnit u upsets).done := fun upsets => by
    show (s.act fun s => s.scrubUnit u upsets) = _
    rw [State.act_up hup]
  refine ⟨fun hoff => ?_, fun hon hclean => ?_, fun k hon hbad hlo hhi hcalm => ?_, fun r e hruns hcopy hfree => ?_, fun hruns hmapped => ?_,
    fun x rest hsubst hdom => ?_⟩
  · rw [hscrub, State.scrubUnit_off upsets hoff]
    rfl
  · rw [hscrub, State.scrubUnit_clean upsets hon hclean]
    rfl
  · rw [hscrub, State.scrubUnit_corrects hon hbad hlo hhi]
    obtain ⟨hsram, hsramBad, hfold, hhead, hrow⟩ := s.fixWord_kept u k
    have hcnt : cnt = scrubReg u := rfl
    have hne : corrReg u ≠ scrubReg u := by
      unfold corrReg scrubReg
      split <;> omega
    have hpage : (unitPage u).base % 4096 = 0 := Page.base_page _
    have hscrubEnd : scrubReg u ∉ endRegs := by
      unfold scrubReg
      split <;> exact unitReg_notEndRegs u (by decide) (by decide) (by decide)
    have hcorrEnd : corrReg u ∉ endRegs := by
      unfold corrReg
      split <;> exact unitReg_notEndRegs u (by decide) (by decide) (by decide)
    have hcalm' : Calm ((s.fixWord u k).bumpWrap (scrubReg u) 1) := by
      show (s.fixWord u k).foldDue = [] ∧ _
      rw [hfold, State.bumpWrap_head, hhead]
      exact hcalm
    refine ⟨_, rfl, ?_, ?_, ?_, ?_, ?_, ?_⟩
    · rw [State.done_sramBad hcalm']
      show (s.fixWord u k).sramBad = []
      rw [hsramBad, hbad]
      simp [Cells.put]
    · rw [State.done_sram hcalm']
      exact hsram
    · rw [hcnt, State.done_reg hcalm' hscrubEnd, State.bumpWrap, State.reg_setReg_self]
      refine congrArg (· + 1) ?_
      unfold scrubReg
      split
      · next hu => exact s.fixWord_reg_other u k (by decide) (by decide) (by rw [if_pos hu]; decide)
      · next hu => exact s.fixWord_reg_other u k (by decide) (by decide) (by rw [if_neg hu]; decide)
    · rw [State.done_reg hcalm' hcorrEnd, State.reg_bumpWrap_ne _ hne]
      exact s.fixWord_counts u k
    · refine State.done_mono hcalm' (by show (unitPage u).base + 0x14 ≠ _; omega) _ ?_
      have hraw : (unitPage u).base + 0x14 ≠ scrubReg u := by
        unfold scrubReg
        split <;> omega
      rw [State.reg_bumpWrap_ne _ hraw]
      exact s.fixWord_raises u k
    · rw [State.done_rowErr hcalm']
      exact hrow
  · show (s.actIn (unitDomain u) fun s => s.rowCopied u) = _
    rw [State.actIn_runs ⟨hup, hruns⟩, State.rowCopied_maps hcopy hfree]
  · intro l e k
    have hdog : exec (.commandWatchdog vector id waves) s = .next (s.watchdog vector u waves.toNat).done := by
      show (s.actIn 2 fun s => s.watchdog vector u waves.toNat) = _
      rw [State.actIn_runs ⟨hup, hruns⟩]
    refine ⟨fun hrun => ?_, fun q hrun hle => ?_, fun q hrun hlt => ?_⟩
    · rw [hdog, State.watchdog_idle hmapped hrun]
    · rw [hdog, State.watchdog_running hmapped hrun]
      exact congrArg (fun t : State => Host.Outcome.next t.done) (if_pos hle)
    · intro t
      have htear := s.tearDown_ctxsOnly q.head.c cTEARDOWN (k.lcn q.head.desc)
      refine ⟨?_, State.checkFail_dog hmapped (by rw [htear]) (by rw [htear]) hrun (State.unitEngine_dogEngine hmapped)⟩
      rw [hdog, State.watchdog_running hmapped hrun]
      exact congrArg (fun t : State => Host.Outcome.next t.done) (if_neg (Nat.not_le.mpr hlt))
  · intro v t
    have htest : exec (.reserveTestDone pass source) s = .next (s.reserveTested pass source.toNat).done := by
      show (s.act fun s => s.reserveTested pass source.toNat) = _
      rw [State.act_up hup]
    refine ⟨fun hpass => ?_, fun hfail => ?_⟩
    · rw [htest, hpass, State.reserveTested_pass hsubst hdom]
    · rw [htest, hfail, State.reserveTested_fail hsubst hdom]

end Sys2Proof.Machine
end

section
/-! ## How an engine takes its chosen head (rules R185, R328) -/

namespace Sys2Proof.Machine

/-- The command that an engine runs from the start of the head `h` on. -/
def State.started (s : State) (e : Nat) (h : Head) (env : LaneEnv) (order : List Bool) : Running :=
  { head := h, phys := s.enginePhys e, dur := env.dur.toNat, residue := env.residue, tc7 := env.tc7, order := order, start := s.now 7,
    stamp := s.stamp, tc0 := s.tc 0,
    ring := if classOf e = .vector ∧ fld (dw h.desc 0) 0 8 = 0x39 then s.newestSlot (dw h.desc 11).toNat else none,
    slotEnd := s.slotEndOf e h.c, cut := false }

/-! What the start of a command leaves of time. -/

theorem State.grant_time (s : State) (ws : List (Nat × Nat)) : (s.grant ws).time = s.time :=
  foldl_fixes State.time (fun t w => by
    dsimp only
    split <;> rfl) ws s

theorem State.takeHead_time (s : State) (e : Nat) (k : EngClass) (h : Head) : (s.takeHead e k h).time = s.time := by
  have hgrant := s.grant_time (gatesAt h.desc k.waitAt)
  unfold State.takeHead
  dsimp only
  split
  · exact hgrant
  · exact hgrant

theorem State.resent_regsBut (s : State) (l : List (Fin 18 × BitVec 16)) : RegsBut (fun _ => True) s (s.resent l) :=
  .foldl l .refl fun _ _ _ => .ite .refl ((RegsBut.refl.setRf trivial _ _ _).intRaise trivial _)

section
variable (s : State) (e : Nat) (h : Head) (env : LaneEnv) (order : List Bool)

theorem State.engineStart_time : (s.engineStart e h env order).time = s.time := by
  rw [State.engineStart, (State.resent_regsBut _ _).1]
  exact s.takeHead_time e (classOf e) h

theorem State.engineStart_running : (s.engineStart e h env order).running e = some (s.started e h env order) := by
  rw [State.running, State.engineStart, (State.resent_regsBut _ _).head]
  exact Cells.get_put_self ..

theorem State.engineStart_endsNow : (s.engineStart e h env order).endsNow e = true ↔
    env.dur = 0 ∧ (s.engineStart e h env order).waitsFence e (s.started e h env order) = false := by
  have hnow : (s.engineStart e h env order).now 7 = s.now 7 := congrArg Tc.total (State.tc_congr (s.engineStart_time e h env order) 7)
  have hdur : (s.started e h env order).start + (s.started e h env order).dur ≤ s.now 7 ↔ env.dur = 0 := by
    show s.now 7 + env.dur.toNat ≤ s.now 7 ↔ _
    rw [← BitVec.toNat_inj]
    show _ ↔ env.dur.toNat = 0
    omega
  simp only [State.endsNow, s.engineStart_running e h env order, hnow, Bool.and_eq_true, decide_eq_true_eq, hdur, Bool.not_eq_true']

end

/-- The code of a head that its command must have: KIND of a pump or a lane, the opcode elsewhere. -/
def headCode (e : Nat) (h : Head) : Nat := if classOf e = .pump ∨ classOf e = .solver then fld (dw h.desc 0) 0 4 else fld (dw h.desc 0) 0 8

section
variable {s : State} {e op : Nat} (env : LaneEnv) (order : List Bool)

theorem State.runEngine_none (hpick : s.pickHead e = none) : s.runEngine e op env order = s := by
  simp only [State.runEngine, hpick]

variable {h : Head} (hpick : s.pickHead e = some h)
include hpick

theorem State.runEngine_other (hcode : headCode e h ≠ op) : s.runEngine e op env order = s := by
  simp only [State.runEngine, hpick]
  exact if_pos hcode

theorem State.runEngine_takes (hcode : headCode e h = op) : s.runEngine e op env order =
    if env.dur = 0 ∧ (s.engineStart e h env order).waitsFence e (s.started e h env order) = false
    then (s.engineStart e h env order).finish e else s.engineStart e h env order := by
  simp only [State.runEngine, hpick]
  refine (if_neg (Classical.not_not.mpr hcode)).trans ?_
  exact ite_congr (propext (s.engineStart_endsNow e h env order)) (fun _ => rfl) fun _ => rfl

end

theorem State.finish_eq {s : State} {e : Nat} {q : Running} (hrun : s.running e = some q) :
    s.finish e = State.endRun e (classOf e) (enginePage e q.phys) q ((s.setRunning e none).runOf e q) := by
  rw [State.finish, hrun]

end Sys2Proof.Machine
end

section
/-! ## Tile commands (rules R154–R156, R183–R199, R328) -/

namespace Sys2Proof.Machine

/-- An opcode of a tile command runs on the array below 0x10, and on the vector unit from there on. -/
theorem tileRows_class {op : Nat} {mk : Fin 16 → RunEnv → Instr} (h : (op, mk) ∈ tileRows) :
    ((opClass op).getD .tile = .tile ↔ op < 0x10) ∧ ∀ b env s, exec (mk b env) s = s.actIn 2 fun s => s.runTile op b env := by
  simp only [tileRows, List.mem_cons, List.not_mem_nil, or_false, Prod.mk.injEq] at h
  rcases h with h | h | h | h | h | h | h | h | h | h | h | h | h | h | h | h | h | h | h | h | h | h | h | h | h | h | h | h | h | h
  all_goals
    obtain ⟨rfl, rfl⟩ := h
    exact ⟨by decide, fun _ _ _ => rfl⟩

theorem classOf_tile {e : Nat} (h : e < 0x10) : classOf e = .tile := by
  simp only [classOf, engClass, h, if_true, Option.getD_some]

theorem classOf_vector {e : Nat} (h : 0x10 ≤ e) (h' : e < 0x20) : classOf e = .vector := by
  simp only [classOf, engClass, Nat.not_lt.mpr h, h', if_true, if_false, Option.getD_some]

/-- The engines of the arrays and the vector units. -/
theorem classOf_unit {e : Nat} (h : e < 0x20) : classOf e = if e < 0x10 then .tile else .vector := by
  by_cases he : e < 0x10
  · rw [classOf_tile he, if_pos he]
  · rw [classOf_vector (by omega) h, if_neg he]

theorem headCode_unit {e : Nat} (h : e < 0x20) (x : Head) : headCode e x = fld (dw x.desc 0) 0 8 := by
  have hclass : ¬ (classOf e = .pump ∨ classOf e = .solver) := by
    rw [classOf_unit h]
    split <;> simp
  exact if_neg hclass

/-- The engine that an opcode of basin `b` runs on. -/
def tileEngine (op : Nat) (b : Fin 16) : Nat := if op < 0x10 then b.val else 0x10 + b.val

theorem tileEngine_lt (op : Nat) (b : Fin 16) : tileEngine op b < 0x20 ∧ tileEngine op b % 16 = b.val := by
  unfold tileEngine
  split <;> omega

/-! ### The end of a tile command -/

theorem State.putRows_code (c u pitch : Nat) (rows : List (List Byte)) (s : State) (ofs : Nat) (h : s.sramBad = []) :
    (s.putRows c u ofs pitch rows).1 = cOK := by
  induction rows generalizing s ofs with
  | nil => rfl
  | cons bs rest ih =>
    obtain ⟨hcode, _, hbad, _⟩ := State.putRow_clean h c u ofs bs
    unfold State.putRows
    dsimp only
    rw [if_pos hcode, ih _ _ hbad]

/-- The destination of a computed result. -/
def Result.dest (r : Result) (pl : Nat → Nat) (d : List Word) : Nat × Nat :=
  r.f.s.refReach pl (tRef d 3) (spanOf r.rows.length (tPitch d 3) (r.rows.headD []).length)

/-- A computed result is stored and counted (rules R89, R91, R156, R198). -/
theorem finishTile_stored {r : Result} {pl : Nat → Nat} {d : List Word} (hrefused : r.refused = false) (hcode : r.code = cOK)
    (hdest : (r.dest pl d).1 = cOK) (hclean : r.f.s.sramBad = []) (c u source : Nat) :
    let t := finishTile c u pl d source false r
    t.code = cOK ∧ t.tear = none ∧ t.s = (r.f.s.putRows c (r.dest pl d).2 (tRef d 3 % 2 ^ 24) (tPitch d 3) r.rows).2 ∧
      t.w4 = r.elts.countP (fun x => x.mark == .sat) ∧ t.w5 = r.elts.countP (fun x => x.mark == .flush) ∧
      t.w6 = r.elts.countP (fun x => x.mark == .invalid) ∧ t.bytes = (r.rows.map List.length).sum := by
  have hput := State.putRows_code c (r.dest pl d).2 (tPitch d 3) r.rows r.f.s (tRef d 3 % 2 ^ 24) hclean
  unfold Result.dest at *
  unfold finishTile
  dsimp only
  rw [if_neg (by simp [hrefused]), if_neg (Classical.not_not.mpr hcode), if_neg (Classical.not_not.mpr hdest), if_neg (by decide), if_neg (Classical.not_not.mpr hput)]
  exact ⟨rfl, rfl, rfl, rfl, rfl, rfl, rfl⟩

theorem State.tileRun_computes {s : State} {q : Running} {k : EngClass} {lb : Nat}
    (hlist : fld (dw q.head.desc 1) 24 4 = ((((s.ctx q.head.c).lists[q.head.list]?).map (·.code)).getD 0) % 16)
    (hwaits : s.waitsFree k q.head.desc = false)
    (hcheck : tileCheck k (gateInRange (s.ctx q.head.c)) (placeFn (s.ctx q.head.c)) s.logicalBasins q.head.desc = cOK)
    (hunit : (s.unitOf false lb).1 = cOK)
    (hlinked : s.tileLinked (placeFn (s.ctx q.head.c)) (s.unitOf false lb).2 (fld (dw q.head.desc 0) 0 8) q.head.desc = true) :
    s.tileRun q k lb = finishTile q.head.c (s.unitOf false lb).2 (placeFn (s.ctx q.head.c)) q.head.desc (if k = .tile then 2 else 3) q.residue
      (runOp (fld (dw q.head.desc 0) 0 8) (s.ctx q.head.c) q.head.c (s.unitOf false lb).2 lb (placeFn (s.ctx q.head.c)) q.head.desc q
        { code := cOK, rd := 0, flits := 0, s := s }) := by
  unfold State.tileRun
  dsimp only
  rw [if_neg (by simp [hlist, hwaits]), if_neg (Classical.not_not.mpr hcheck), if_neg (Classical.not_not.mpr hunit), if_neg (by simp [hlinked])]

/-- Settles O29: the start of a tile command, and its end once its checks pass. -/
theorem tileCommands : Obligations.TileCommands := by
  refine ⟨fun op mk hrow s b env hruns => ?_, fun s e q he hrun => ?_⟩
  · intro e
    obtain ⟨hclass, hexec⟩ := tileRows_class hrow
    have hengine : e = tileEngine op b := ite_congr (propext hclass) (fun _ => rfl) fun _ => rfl
    obtain ⟨hlt, hmod⟩ := tileEngine_lt op b
    rw [← hengine] at hlt hmod
    have hrun : exec (mk b env) s = .next (s.runEngine e op (laneEnv env) []).done := by
      rw [hexec, State.actIn_runs hruns, hengine]
      rfl
    refine ⟨fun hpick => ?_, fun h hpick => ⟨fun hother => ?_, fun hop => ?_⟩⟩
    · rw [hrun, State.runEngine_none (laneEnv env) [] hpick]
    · rw [hrun, State.runEngine_other (laneEnv env) [] hpick (by rw [headCode_unit hlt]; exact hother)]
    · intro t
      refine ⟨s.started e h (laneEnv env) [], s.engineStart_running e h (laneEnv env) [], rfl, ?_, rfl, rfl, rfl, rfl, rfl, fun hring => ?_, ?_⟩
      · show s.enginePhys e = _
        rw [State.enginePhys, if_pos hlt, hmod]
      · have hvector : classOf e = .vector := by
          rw [hengine, tileEngine, if_neg (by omega)]
          exact classOf_vector (by omega) (by omega)
        exact if_pos ⟨hvector, hop.trans hring⟩
      · rw [hrun, State.runEngine_takes (laneEnv env) [] hpick (by rw [headCode_unit hlt]; exact hop)]
        rfl
  · intro k d op s1 x pl u w dest
    have hclass : classOf e = k := classOf_unit he
    have hpage : enginePage e q.phys = unitPage q.phys := if_pos he
    have hrunOf : s1.runOf e q = s1.tileRun q k (e % 16) := by
      unfold State.runOf
      rw [hclass]
      by_cases hk : e < 0x10
      · rw [show k = .tile from if_pos hk]
      · rw [show k = .vector from if_neg hk]
    refine ⟨s1.tileRun q k (e % 16), ?_, fun hlist hwaits hcheck hunit hlinked hrefused hcode hdest hclean hresidue => ?_⟩
    · rw [State.finish_eq hrun, hclass, hpage, hrunOf]
    · rw [State.tileRun_computes hlist hwaits hcheck hunit hlinked, hresidue]
      exact finishTile_stored (r := w) hrefused hcode hdest hclean q.head.c u (if k = .tile then 2 else 3)

end Sys2Proof.Machine
end

section
/-! ## Grid map commands (rules R183, R221–R231) -/

namespace Sys2Proof.Machine

theorem classOf_map : classOf 0x48 = .map := rfl

/-- The map commands with their opcodes; the order of arrival belongs to one of them. -/
def mapRows : List (Nat × (RunEnv → List Bool → Instr)) :=
  [(0x60, fun e _ => Instr.mapInsert e), (0x61, fun e _ => .mapQuery e), (0x62, fun e _ => .mapRayclear e),
    (0x63, fun e _ => .mapAgeout e), (0x64, fun e l => .mapAccumArrival e l)]

theorem exec_mapRow {op : Nat} {mk : RunEnv → List Bool → Instr} (h : (op, mk) ∈ mapRows) (env : RunEnv) (l : List Bool) (s : State) :
    exec (mk env l) s = s.actIn 2 fun s => s.runEngine 0x48 op (laneEnv env) (if op = 0x64 then l else []) := by
  simp only [mapRows, List.mem_cons, List.not_mem_nil, or_false, Prod.mk.injEq] at h
  rcases h with ⟨rfl, rfl⟩ | ⟨rfl, rfl⟩ | ⟨rfl, rfl⟩ | ⟨rfl, rfl⟩ | ⟨rfl, rfl⟩ <;> rfl

theorem headCode_map (x : Head) : headCode 0x48 x = fld (dw x.desc 0) 0 8 := if_neg (by rw [classOf_map]; simp)

/-! The checks at the end of a map command. -/

section
variable {s : State} {q : Running}

theorem State.mapRun_lost (h : s.head.mapLost = true) : s.mapRun q = runRefuse cOFF_DOMAIN s := if_pos h

section
variable (hlost : s.head.mapLost = false) (hwaits : s.waitsFree .map q.head.desc = false)
  (hcheck : mapCheck (gateInRange (s.ctx q.head.c)) (placeFn (s.ctx q.head.c)) s.logicalBasins q.head.desc = cOK)
include hlost hwaits hcheck

theorem State.mapRun_disabled (hen : bit (s.reg 0x64108) 0 = false) : s.mapRun q = runRefuse cARG s := by
  unfold State.mapRun
  dsimp only
  rw [if_neg (by simp [hlost]), if_neg (by simp [hwaits]), if_neg (Classical.not_not.mpr hcheck), if_pos (by simp [hen])]

variable (hen : bit (s.reg 0x64108) 0 = true)
include hen

theorem State.mapRun_unlinked (hlinked : s.mapLinked (placeFn (s.ctx q.head.c)) q.head.desc = false) : s.mapRun q = runRefuse cOFF_DOMAIN s := by
  unfold State.mapRun
  dsimp only
  rw [if_neg (by simp [hlost]), if_neg (by simp [hwaits]), if_neg (Classical.not_not.mpr hcheck), if_neg (by simp [hen]), if_pos (by simp [hlinked])]

theorem State.mapRun_works (hlinked : s.mapLinked (placeFn (s.ctx q.head.c)) q.head.desc = true) : s.mapRun q =
    let r := mapWork (fld (dw q.head.desc 0) 0 8) q.order q.head.c (placeFn (s.ctx q.head.c)) q.head.desc { code := cOK, rd := 0, flits := 0, s := s }
    if r.code = cECC_FAIL then { r with s := r.s.intRaise .gmap 3 } else r := by
  unfold State.mapRun
  dsimp only
  rw [if_neg (by simp [hlost]), if_neg (by simp [hwaits]), if_neg (Classical.not_not.mpr hcheck), if_neg (by simp [hen]), if_neg (by simp [hlinked])]

end

end

/-- Settles O30: the start of a map command, and the checks at its end. -/
theorem mapCommands : Obligations.MapCommands := by
  refine ⟨fun op mk hrow s env l hruns => ?_, fun s q hrun => ?_⟩
  · intro order
    have hexec : exec (mk env l) s = .next (s.runEngine 0x48 op (laneEnv env) order).done := by
      rw [exec_mapRow hrow, State.actIn_runs hruns]
    refine ⟨fun hpick => ?_, fun h hpick => ⟨fun hother => ?_, fun hop => ?_⟩⟩
    · rw [hexec, State.runEngine_none (laneEnv env) order hpick]
    · rw [hexec, State.runEngine_other (laneEnv env) order hpick (by rw [headCode_map]; exact hother)]
    · intro t
      refine ⟨s.started 0x48 h (laneEnv env) order, s.engineStart_running 0x48 h (laneEnv env) order, rfl, rfl, rfl, rfl, ?_⟩
      rw [hexec, State.runEngine_takes (laneEnv env) order hpick (by rw [headCode_map]; exact hop)]
      rfl
  · intro d s1 pl ends
    have hends : ∀ {r : Run}, s1.mapRun q = r → ends r := fun hr => by
      show s.finish 0x48 = _
      rw [State.finish_eq hrun, classOf_map, ← hr]
      rfl
    refine ⟨fun hlost => hends (State.mapRun_lost hlost), fun hlost hwaits hcheck => ⟨fun hen => ?_, fun hen hlinked => ?_, fun hen hlinked => ?_⟩⟩
    · exact hends (State.mapRun_disabled hlost hwaits hcheck hen)
    · exact hends (State.mapRun_unlinked hlost hwaits hcheck hen hlinked)
    · exact hends (State.mapRun_works hlost hwaits hcheck hen hlinked)

end Sys2Proof.Machine
end

section
/-! ## Pump commands (rules R160, R200–R202) -/

namespace Sys2Proof.Machine

theorem classOf_pump (p : Fin 32) : classOf (0x20 + p.val) = .pump := by
  revert p
  decide

theorem State.enginePhys_pump (s : State) (p : Fin 32) : s.enginePhys (0x20 + p.val) = p.val := by
  rw [State.enginePhys, if_neg (by omega), if_pos (by omega)]
  omega

theorem headCode_pump (p : Fin 32) (x : Head) : headCode (0x20 + p.val) x = fld (dw x.desc 0) 0 4 := if_pos (.inl (classOf_pump p))

/-- The pump commands with their KINDs. -/
def pumpRows : List (Nat × (Fin 32 → RunEnv → Instr)) := [(1, Instr.pumpCopy), (2, .copy2d), (3, .zero)]

theorem exec_pumpRow {kind : Nat} {mk : Fin 32 → RunEnv → Instr} (h : (kind, mk) ∈ pumpRows) (p : Fin 32) (env : RunEnv) (s : State) :
    exec (mk p env) s = s.actIn 2 fun s => s.runEngine (0x20 + p.val) kind (laneEnv env) [] := by
  simp only [pumpRows, List.mem_cons, List.not_mem_nil, or_false, Prod.mk.injEq] at h
  rcases h with ⟨rfl, rfl⟩ | ⟨rfl, rfl⟩ | ⟨rfl, rfl⟩ <;> rfl

/-! The end of a descriptor that passes its checks. -/

/-- What the rows of a descriptor move, from the side read to the side written. -/
def State.pumpMove (s : State) (h : Head) (src : Option (Window × Nat)) (dst : Window × Nat) : Move :=
  Move.rows { code := cOK, rd := 0, wr := 0, flits := 0, s := s } h.c h.desc src dst 0 (pRows h.desc)

/-- The tag of the load that a descriptor makes (rule R160). -/
def State.pumpTag (s : State) (h : Head) : Option Tag :=
  (loadOf (s.ctx h.c) h.desc h.member).bind fun l => s.loadTag h.c (s.ctx h.c).placement l

/-- The run of a descriptor after its rows have moved. -/
def pumpEnds (h : Head) (tag : Option Tag) (m : Move) : Run :=
  if m.code ≠ cOK then { runRefuse m.code m.s with rd := m.rd, wr := m.wr, flits := m.flits }
  else { runEnd cOK (m.s.setTag tag) with bytes := pRows h.desc * pLen h.desc, rd := m.rd, wr := m.wr, flits := m.flits }

theorem pumpEnds_moved (h : Head) (tag : Option Tag) {m : Move} (hm : m.code = cOK) : (pumpEnds h tag m).code = cOK ∧
    (pumpEnds h tag m).tear = none ∧ (pumpEnds h tag m).bytes = pRows h.desc * pLen h.desc ∧ (pumpEnds h tag m).s = m.s.setTag tag := by
  rw [pumpEnds, if_neg (Classical.not_not.mpr hm)]
  exact ⟨rfl, rfl, rfl, rfl⟩

theorem pumpEnds_failed (h : Head) (tag : Option Tag) {m : Move} (hm : m.code ≠ cOK) : (pumpEnds h tag m).code = m.code ∧
    (pumpEnds h tag m).tear = some m.code := by
  rw [pumpEnds, if_pos hm]
  exact ⟨rfl, rfl⟩

section
variable {s : State} {h : Head} {p : Nat} {dst : Window} {reach : Nat}
  (hlost : s.head.pumpsLost = []) (harg : pumpArg (s.ctx h.c) h.desc = false) (hwaits : s.waitsFree .pump h.desc = false)
  (hdst : Cells.get none (s.ctx h.c).bound (pDstWin h.desc + h.member * (s.ctx h.c).wpm) = some dst)
  (hfits : pExtent h.desc (pDstOfs h.desc) (pDstPitch h.desc) ≤ dst.size)
  (hreach : s.windowReach dst (pDstOfs h.desc) (pExtent h.desc 0 (pDstPitch h.desc)) = (cOK, reach))
  (hfresh : ∀ l, loadOf (s.ctx h.c) h.desc h.member = some l → s.resident h.c (s.ctx h.c).placement l = false)
include hlost harg hwaits hdst hfits hreach hfresh

theorem State.pumpRun_zero (hkind : pKind h.desc = 3) (hlinked : s.linked (pumpNode p) (windowNode p dst reach) = true) :
    s.pumpRun h p = pumpEnds h (s.pumpTag h) (s.pumpMove h none (dst, reach)) := by
  unfold State.pumpRun State.pumpTag
  simp only [hlost, List.contains_nil, Bool.false_eq_true, if_false, harg, hwaits, or_self, hdst, hkind, if_true, Nat.not_lt.mpr hfits,
    hreach, ne_eq, not_true_eq_false, Option.elim_none, hlinked, Bool.not_true]
  cases hload : loadOf (s.ctx h.c) h.desc h.member with
  | none => rfl
  | some l =>
    simp only [hfresh l hload, Bool.false_eq_true, if_false]
    rfl

theorem State.pumpRun_copies {a : Window} {from_ : Nat} (hkind : pKind h.desc ≠ 3)
    (hsrc : Cells.get none (s.ctx h.c).bound (pSrcWin h.desc + h.member * (s.ctx h.c).wpm) = some a)
    (hmeet : sameMemory a dst = false ∨ rowsMeet (a.base + pSrcOfs h.desc) (pSrcPitch h.desc) (dst.base + pDstOfs h.desc) (pDstPitch h.desc)
      (pLen h.desc) (pRows h.desc) 0 (pRows h.desc) = false)
    (hlong : pExtent h.desc (pSrcOfs h.desc) (pSrcPitch h.desc) ≤ a.size)
    (hfrom : s.windowReach a (pSrcOfs h.desc) (pExtent h.desc 0 (pSrcPitch h.desc)) = (cOK, from_))
    (hlinked : s.linked (windowNode p a from_) (windowNode p dst reach) = true) :
    s.pumpRun h p = pumpEnds h (s.pumpTag h) (s.pumpMove h (some (a, from_)) (dst, reach)) := by
  have hapart : (sameMemory a dst && rowsMeet (a.base + pSrcOfs h.desc) (pSrcPitch h.desc) (dst.base + pDstOfs h.desc) (pDstPitch h.desc)
      (pLen h.desc) (pRows h.desc) 0 (pRows h.desc)) = false := by
    rcases hmeet with hm | hm <;> simp [hm]
  unfold State.pumpRun State.pumpTag
  simp only [hlost, List.contains_nil, Bool.false_eq_true, if_false, harg, hwaits, or_self, hdst, hkind, hsrc, Option.map_some, hapart,
    Nat.not_lt.mpr hfits, Nat.not_lt.mpr hlong, decide_false, hreach, hfrom, ne_eq, not_true_eq_false, Option.elim_some, hlinked, Bool.not_true]
  cases hload : loadOf (s.ctx h.c) h.desc h.member with
  | none => rfl
  | some l =>
    simp only [hfresh l hload, Bool.false_eq_true, if_false]
    rfl

end

/-- Settles O31: the start of a pump command, and the moves of a descriptor that passes its checks. -/
theorem pumpCommands : Obligations.PumpCommands := by
  refine ⟨fun kind mk hrow s p env hruns => ?_, fun s p q hrun => ?_⟩
  · intro e
    have hexec : exec (mk p env) s = .next (s.runEngine e kind (laneEnv env) []).done := by
      rw [exec_pumpRow hrow, State.actIn_runs hruns]
    refine ⟨fun hpick => ?_, fun h hpick => ⟨fun hother => ?_, fun hkind => ?_⟩⟩
    · rw [hexec, State.runEngine_none (laneEnv env) [] hpick]
    · rw [hexec, State.runEngine_other (laneEnv env) [] hpick (by rw [headCode_pump]; exact hother)]
    · intro t
      refine ⟨s.started e h (laneEnv env) [], s.engineStart_running e h (laneEnv env) [], rfl, s.enginePhys_pump p, rfl, rfl, ?_⟩
      rw [hexec, State.runEngine_takes (laneEnv env) [] hpick (by rw [headCode_pump]; exact hkind)]
      rfl
  · intro s1 h x d
    have hpage : enginePage (0x20 + p.val) q.phys = .pumps := by
      rw [enginePage, if_neg (by omega), if_pos (by omega)]
    have hrunOf : s1.runOf (0x20 + p.val) q = s1.pumpRun h p.val := by
      unfold State.runOf
      rw [classOf_pump]
      show s1.pumpRun h (0x20 + p.val - 0x20) = _
      rw [Nat.add_sub_cancel_left]
    refine ⟨s1.pumpRun h p.val, ?_, fun dst reach hlost harg hwaits hdst hfits hreach hfresh => ?_⟩
    · rw [State.finish_eq hrun, classOf_pump, hpage, hrunOf]
    · intro moved
      refine ⟨fun hkind hlinked => ?_, fun a from_ hkind hsrc hmeet hlong hfrom hlinked => ?_⟩
      · rw [State.pumpRun_zero hlost harg hwaits hdst hfits hreach hfresh hkind hlinked]
        exact ⟨fun hm => pumpEnds_moved h _ hm, fun hm => pumpEnds_failed h _ hm⟩
      · rw [State.pumpRun_copies hlost harg hwaits hdst hfits hreach hfresh hkind hsrc hmeet hlong hfrom hlinked]
        exact ⟨fun hm => pumpEnds_moved h _ hm, fun hm => pumpEnds_failed h _ hm⟩

end Sys2Proof.Machine
end

section
/-! ## Solver lane commands (rules R183, R232–R280) -/

namespace Sys2Proof.Machine

theorem classOf_lane (l : Fin 8) : classOf (0x40 + l.val) = .solver := by
  revert l
  decide

theorem State.enginePhys_lane (s : State) (l : Fin 8) : s.enginePhys (0x40 + l.val) = (s.unitOf true l.val).2 - 18 := by
  rw [State.enginePhys, if_neg (by omega), if_neg (by omega), if_pos (by omega), Nat.add_sub_cancel_left]

theorem headCode_lane (l : Fin 8) (x : Head) : headCode (0x40 + l.val) x = fld (dw x.desc 0) 0 4 := if_pos (.inr (classOf_lane l))

/-- No command of a lane waits for a fenced basin (rule R176). -/
theorem State.waitsFence_lane (s : State) (l : Fin 8) (q : Running) : s.waitsFence (0x40 + l.val) q = false := by
  simp only [State.waitsFence, classOf_lane]

/-- The lane commands with their KINDs. -/
def laneRows : List (Nat × (Fin 8 → LaneEnv → Instr)) :=
  [(1, Instr.estInit), (2, .srifStep), (3, .mheStep), (4, .qpSolve), (5, .planReset)]

theorem exec_laneRow {kind : Nat} {mk : Fin 8 → LaneEnv → Instr} (h : (kind, mk) ∈ laneRows) (l : Fin 8) (env : LaneEnv) (s : State) :
    exec (mk l env) s = s.actIn 2 fun s => s.runEngine (0x40 + l.val) kind env [] := by
  simp only [laneRows, List.mem_cons, List.not_mem_nil, or_false, Prod.mk.injEq] at h
  rcases h with ⟨rfl, rfl⟩ | ⟨rfl, rfl⟩ | ⟨rfl, rfl⟩ | ⟨rfl, rfl⟩ | ⟨rfl, rfl⟩ <;> rfl

theorem State.runOf_lane (s : State) (l : Fin 8) (q : Running) : s.runOf (0x40 + l.val) q =
    if eKind q.head.desc < 4 then s.estRun q l.val 2 else s.qpRun q l.val 2 := by
  unfold State.runOf
  rw [classOf_lane]
  show (if eKind q.head.desc < 4 then s.estRun q (0x40 + l.val - 0x40) 2 else s.qpRun q (0x40 + l.val - 0x40) 2) = _
  rw [Nat.add_sub_cancel_left]

/-! The end of a descriptor that passes its checks. -/

section
variable {s : State} {q : Running} {l : Nat} (hlane : fld (dw q.head.desc 1) 24 3 = l) (hwaits : s.waitsFree .solver q.head.desc = false)
  (hunit : (s.unitOf true l).1 = cOK)
include hlane hwaits hunit

theorem State.estRun_runs (hcheck : estCheck (gateInRange (s.ctx q.head.c)) s.logicalLanes q.head.desc = cOK)
    (hhand : (if eHandEn q.head.desc = true then s.unitOf true (eHandLane q.head.desc) else (cOK, 0)).1 = cOK)
    (hlinked : eHandEn q.head.desc = true → s.linked (unitNode (s.unitOf true l).2)
      (unitNode (if eHandEn q.head.desc = true then s.unitOf true (eHandLane q.head.desc) else (cOK, 0)).2) = true) (src : Nat) :
    s.estRun q l src =
      if eKind q.head.desc = 1 then s.estInit q.head (s.unitOf true l).2
        (if eHandEn q.head.desc = true then s.unitOf true (eHandLane q.head.desc) else (cOK, 0)).2 src q.residue
      else s.estStep q (s.unitOf true l).2 (if eHandEn q.head.desc = true then s.unitOf true (eHandLane q.head.desc) else (cOK, 0)).2 src := by
  have hreached : (eHandEn q.head.desc && !s.linked (unitNode (s.unitOf true l).2)
      (unitNode (if eHandEn q.head.desc = true then s.unitOf true (eHandLane q.head.desc) else (cOK, 0)).2)) = false := by
    by_cases hen : eHandEn q.head.desc = true
    · rw [hlinked hen, Bool.not_true, Bool.and_false]
    · rw [Bool.eq_false_iff.mpr hen, Bool.false_and]
  unfold State.estRun
  dsimp only
  rw [if_neg (by simp [hlane, hwaits]), if_neg (Classical.not_not.mpr hcheck), if_neg (Classical.not_not.mpr hunit), if_neg (Classical.not_not.mpr hhand), hreached]
  rfl

variable (hcheck : laneCheck (gateInRange (s.ctx q.head.c)) s.logicalLanes q.head.desc = cOK) (src : Nat)
include hcheck

theorem State.qpRun_runs : s.qpRun q l src =
    if eKind q.head.desc = 5 then s.planReset q.head (s.unitOf true l).2 src q.residue else s.qpSolve q (s.unitOf true l).2 src := by
  unfold State.qpRun
  dsimp only
  rw [if_neg (by simp [hlane, hwaits]), if_neg (Classical.not_not.mpr hcheck), if_neg (Classical.not_not.mpr hunit)]

end

/-- PLAN_RESET empties the work block (rule R260). -/
theorem State.planReset_empties {s : State} {h : Head} (htear : (s.ctx h.c).tearing = none) (u src : Nat) :
    s.planReset h u src false = { runEnd cOK (s.putBlock u (qWork h.desc) h.c (List.replicate 256 0)) with bytes := 256 } := by
  unfold State.planReset
  dsimp only
  rw [if_neg (by decide), if_neg (by simp [htear])]

/-- Settles O32: the start of a lane command, and the run of each kind once its checks pass. -/
theorem laneCommands : Obligations.LaneCommands := by
  refine ⟨fun kind mk hrow s l env hruns => ?_, fun s l q hrun => ?_⟩
  · intro e
    have hexec : exec (mk l env) s = .next (s.runEngine e kind env []).done := by
      rw [exec_laneRow hrow, State.actIn_runs hruns]
    refine ⟨fun hpick => ?_, fun h hpick => ⟨fun hother => ?_, fun hkind => ?_⟩⟩
    · rw [hexec, State.runEngine_none env [] hpick]
    · rw [hexec, State.runEngine_other env [] hpick (by rw [headCode_lane]; exact hother)]
    · intro t
      refine ⟨s.started e h env [], s.engineStart_running e h env [], rfl, s.enginePhys_lane l, rfl, rfl, rfl, rfl, ?_⟩
      rw [hexec, State.runEngine_takes env [] hpick (by rw [headCode_lane]; exact hkind)]
      have hwaits := State.waitsFence_lane t l (s.started e h env [])
      exact congrArg (fun t : State => Host.Outcome.next t.done) (ite_congr (propext (and_iff_left hwaits)) (fun _ => rfl) fun _ => rfl)
  · intro s1 d x u ends hlane hwaits hunit
    have hpage : enginePage (0x40 + l.val) q.phys = unitPage (18 + q.phys) := by
      rw [enginePage, if_neg (by omega), if_neg (by omega), if_pos (by omega)]
    have hends : ∀ {r : Run}, s1.runOf (0x40 + l.val) q = r → ends r := fun hr => by
      show s.finish (0x40 + l.val) = _
      rw [State.finish_eq hrun, classOf_lane, hpage, hr]
    refine ⟨?_, fun hkind hcheck => ?_, fun hkind hcheck hresidue htear => ?_⟩
    · intro hu hkind hcheck hhand hlinked
      refine hends ?_
      rw [State.runOf_lane, if_pos hkind, State.estRun_runs hlane hwaits hunit hcheck hhand hlinked]
    · refine hends ?_
      have h4 : eKind q.head.desc = 4 := hkind
      rw [State.runOf_lane, if_neg (by omega), State.qpRun_runs hlane hwaits hunit hcheck, if_neg (by omega)]
    · refine hends ?_
      have h5 : eKind q.head.desc = 5 := hkind
      rw [State.runOf_lane, if_neg (by omega), State.qpRun_runs hlane hwaits hunit hcheck, if_pos h5, hresidue,
        State.planReset_empties htear]

end Sys2Proof.Machine
end
